-- ==== Sys2Proof/Word.lean ====
section
/-!
DEFINITION. The word types of the LZ-9400 and their plainest arithmetic (R2, R129, R130).
-/
namespace Sys2Proof

/-- One byte of memory. -/
abbrev Byte := BitVec 8
/-- A word is 32 bits (R2). -/
abbrev Word := BitVec 32
/-- A doubleword is 64 bits (R2). -/
abbrev DWord := BitVec 64
/-- A code address (PC): a byte address of at most 48 bits (R21). -/
abbrev Pc := BitVec 48
/-- A tick: device time modulo 2^56 (R48). -/
abbrev Tick := BitVec 56
/-- A lane mask: bit l belongs to lane l (R91, R103). -/
abbrev Mask := BitVec 32
/-- One vector register: 32 lanes of 32 bits (R130, R144). -/
abbrev Lanes := Vector Word 32

/-- Two words joined, the low one first (R32: a b64 pair holds the low word in the lower register). -/
def joinWords (lo hi : Word) : DWord := hi ++ lo
/-- The low word of a doubleword. -/
def lowWord (x : DWord) : Word := x.extractLsb' 0 32
/-- The high word of a doubleword. -/
def highWord (x : DWord) : Word := x.extractLsb' 32 32

end Sys2Proof
end

