-- ==== Sys2Proof/Syntax.lean ====
section
/-!
DEFINITION. The instructions and the steps of the LZ-9400 as terms: one constructor per row of the opcode table.
Instruction rows carry their decoded operands (R31 to R37). An event row carries nothing: what the outside world or
a booking decides (which unit, which request, which value) stands in the state's `arg`, put there by the agenda entry
that brings the event about.
-/
namespace Sys2Proof

/-- Stall count S, 0 to 3 (R31). -/
abbrev Stall := Fin 4
/-- Scalar register s0 to s63 (R33). -/
abbrev SReg := Fin 64
/-- Vector register v0 to v191 (R33). -/
abbrev VReg := Fin 192
/-- Predicate register p0 to p7 (R33). -/
abbrev PReg := Fin 8
/-- Time register t0 to t15 (R33). -/
abbrev TReg := Fin 16
/-- Barrier slot b0 to b31 (R33). -/
abbrev BReg := Fin 32
/-- Event counter ev0 to ev15 (R33). -/
abbrev EvReg := Fin 16
/-- Plane width minus two, for widths 2 to 16 (R36). -/
abbrev PlaneWidth := Fin 15
/-- Physical core number (R10). -/
abbrev CoreId := Fin 256
/-- Context id (R81). -/
abbrev CtxId := BitVec 12
/-- Launch id (R90). -/
abbrev LaunchId := BitVec 24
/-- Queue handle (R331). -/
abbrev QHandle := BitVec 16
/-- Resource level of a report record, 0 to 10 (R64). -/
abbrev Level := Fin 11

/-- A vector source field: v0 to v191, or a scalar register broadcast to every lane (R33). -/
inductive VSrc where
  | v (n : VReg)
  | s (n : SReg)
deriving DecidableEq, Repr

/-- A data register of a memory word: vector (DS = 0) or scalar (DS = 1) (R32). -/
inductive DataReg where
  | v (n : VReg)
  | s (n : SReg)
deriving DecidableEq, Repr

/-- An offset register of a memory word: vector (OS = 0) or scalar (OS = 1) (R32). -/
inductive OffReg where
  | v (n : VReg)
  | s (n : SReg)
deriving DecidableEq, Repr

/-- Access widths, W codes 0 to 6 (R32). -/
inductive Width where
  | b8 | b16 | b32 | b64 | i8 | i16 | b128
deriving DecidableEq, Repr

/-- Scopes, SC codes 0 to 5 (R32). -/
inductive Scope where
  | gang | crew | span | stack | dev | sys
deriving DecidableEq, Repr

/-- Semantics, SEM codes 0 to 3 (R32). -/
inductive Sem where
  | plain | acq | rel | acqRel
deriving DecidableEq, Repr

/-- Compare conditions (R36). -/
inductive Cond where
  | eq | ne | lt | le | gt | ge | ord | unord
deriving DecidableEq, Repr

/-- Rounding modes (R36, R133). -/
inductive Round where
  | rn | rz | rm | rp | rna
deriving DecidableEq, Repr

/-- Fused-multiply variants (R36). -/
inductive FmaVar where
  | plain | fms | fnma | fnms
deriving DecidableEq, Repr

/-- Reduction operations (R36). -/
inductive RedOp where
  | add | minI | maxI | minN | maxN | and | or | xor | fadd | fmin | fmax
deriving DecidableEq, Repr

/-- Lane moves of `shfl` by a number: up, down, xor (R170). -/
inductive ShflKind where
  | up | down | xor
deriving DecidableEq, Repr

/-- Fence kinds (R327). -/
inductive FenceKind where
  | acq | rel | full
deriving DecidableEq, Repr

/-- The type codes of `cvt` (R37, R141). -/
inductive CvtType where
  | f32 | bf16 | f16 | f8e4 | f8e5 | i8 | i16 | i32
deriving DecidableEq, Repr

/-- The bit field of an extract or insert: position and width minus one (R36). -/
structure BitField where
  pos : Fin 64
  wid : Fin 64
deriving DecidableEq, Repr

/-- The operands of a WM word (R31, R32). -/
structure MemOp where
  data   : DataReg
  off    : OffReg
  t      : TReg
  w      : Width
  h      : SReg
  after  : Bool
  afterT : TReg
  sc     : Scope
  sem    : Sem
  imm    : BitVec 14
deriving DecidableEq, Repr

/-- The clause classes (R19). -/
inductive Cls where
  | ctl | uni | vec | mem | mtx | syn
deriving DecidableEq, Repr

/-- A placed crew: launch id and crew number (R101). -/
structure CrewKey where
  launch : LaunchId
  crew   : BitVec 16
deriving DecidableEq, Repr

/-- A gang: its crew and its index in the crew (R101, R112). -/
structure GangKey where
  launch : LaunchId
  crew   : BitVec 16
  gang   : Fin 32
deriving DecidableEq, Repr

/-- A node of the die-link network: a compute die or the hub die (R11). -/
inductive DieNode where
  | die (d : Fin 4)
  | hub
deriving DecidableEq, Repr

/-- One direction of a die link (R11). -/
structure DieLink where
  src : DieNode
  dst : DieNode
deriving DecidableEq, Repr

/-- The causes of a broken promise, codes 1 to 8 (R62). -/
inductive BreakCause where
  | reRead | dieReplay | fabricReplay | power | refresh | engine | overran | migration
deriving DecidableEq, Repr

/-- The classes of a held request, 1 to 5 (R68). -/
inductive HeldClass where
  | page | queue | error | peer | migration
deriving DecidableEq, Repr

/-- Where a soft error is found (R312, R394). -/
inductive EccPlace where
  | dieSram (d : Fin 4)
  | hubSram
  | l1 (c : CoreId)
  | l2 (s : Fin 64)
  | hbm (s : Fin 16)
  | cap (q : Fin 32)
  | sector (s : Fin 16)
deriving DecidableEq, Repr

/-- Kind of a soft error (R312, R394): corrected; uncorrectable in the first read of an atom, which is read again; uncorrectable. -/
inductive EccKind where
  | corrected | retried | uncorrectable
deriving DecidableEq, Repr

/-- A control register's address: in the hub window, in a core window, or in BAR 0 (R388, R391). -/
inductive CtrlAddr where
  | hub (off : Nat)
  | core (c : CoreId) (off : Nat)
  | bar0 (off : Nat)
deriving DecidableEq, Repr

/-- The rows of the opcode table. Each row's docstring is its mnemonic and the rule that gives its effect. -/
inductive Instr where
  /-- NOP (R107) -/
  | nop (n0 : Stall)
  /-- BRA (R103) -/
  | bra (n0 : Stall) (off : BitVec 16) (prio : Fin 32)
  /-- BP (R103) -/
  | bp (n0 : Stall) (p : PReg) (off : BitVec 16) (prio : Fin 32)
  /-- BPZ (R103) -/
  | bpz (n0 : Stall) (p : PReg) (off : BitVec 16) (prio : Fin 32)
  /-- BALL (R103) -/
  | ball (n0 : Stall) (p : PReg) (off : BitVec 16) (prio : Fin 32)
  /-- BANY (R103) -/
  | bany (n0 : Stall) (p : PReg) (off : BitVec 16) (prio : Fin 32)
  /-- CALL (R103) -/
  | call (n0 : Stall) (off : BitVec 16) (prio : Fin 32)
  /-- RET (R104) -/
  | ret (n0 : Stall)
  /-- JMP (R104) -/
  | jmp (n0 : Stall) (a : SReg)
  /-- JMPV (R104) -/
  | jmpv (n0 : Stall) (a : VReg)
  /-- EXIT (R105) -/
  | exit (n0 : Stall)
  /-- SETPRIO (R106) -/
  | setprio (n0 : Stall) (n : Fin 32)
  /-- TRAP (R354) -/
  | trap (n0 : Stall) (n : Fin 128)
  /-- RETT (R354) -/
  | rett (n0 : Stall)
  /-- BRK (R354) -/
  | brk (n0 : Stall) (n : BitVec 8)
  /-- YIELD_ALL (R125) -/
  | yieldAll (n0 : Stall) (x : Option SReg) (m : BitVec 16)
  /-- YIELD_ANY (R125) -/
  | yieldAny (n0 : Stall) (x : Option SReg) (m : BitVec 16)
  /-- YIELD_AT (R125) -/
  | yieldAt (n0 : Stall) (x : Option SReg) (m : BitVec 16)
  /-- LIVE (R126) -/
  | live (n0 : Stall) (n : Fin 13)
  /-- FORK (R127) -/
  | fork (n0 : Stall) (p : PReg) (off : BitVec 16) (prio : Fin 32)
  /-- BTS (R80) -/
  | bts (n0 : Stall) (t : TReg) (off : BitVec 16) (prio : Fin 32)
  /-- BTB (R80) -/
  | btb (n0 : Stall) (t : TReg) (off : BitVec 16) (prio : Fin 32)
  /-- BTH (R80) -/
  | bth (n0 : Stall) (t : TReg) (off : BitVec 16) (prio : Fin 32)
  /-- BTL (R80) -/
  | btl (n0 : Stall) (t : TReg) (delta : BitVec 28) (off : BitVec 16) (prio : Fin 32)
  /-- SMOV (R149) -/
  | smov (n0 : Stall) (d : SReg) (a : SReg)
  /-- SLI (R149) -/
  | sli (n0 : Stall) (d : SReg) (imm : BitVec 32)
  /-- SLIH (R149) -/
  | slih (n0 : Stall) (d : SReg) (imm : BitVec 32)
  /-- SADD (R150) -/
  | sadd (n0 : Stall) (d : SReg) (a : SReg) (b : SReg)
  /-- SSUB (R150) -/
  | ssub (n0 : Stall) (d : SReg) (a : SReg) (b : SReg)
  /-- SADDI (R149) -/
  | saddi (n0 : Stall) (d : SReg) (a : SReg) (imm : BitVec 8)
  /-- SMUL (R150) -/
  | smul (n0 : Stall) (d : SReg) (a : SReg) (b : SReg)
  /-- SMULH_I (R150) -/
  | smulhI (n0 : Stall) (d : SReg) (a : SReg) (b : SReg)
  /-- SMULH_N (R150) -/
  | smulhN (n0 : Stall) (d : SReg) (a : SReg) (b : SReg)
  /-- SAND (R150) -/
  | sand (n0 : Stall) (d : SReg) (a : SReg) (b : SReg)
  /-- SOR (R150) -/
  | sor (n0 : Stall) (d : SReg) (a : SReg) (b : SReg)
  /-- SXOR (R150) -/
  | sxor (n0 : Stall) (d : SReg) (a : SReg) (b : SReg)
  /-- SNOT (R150) -/
  | snot (n0 : Stall) (d : SReg) (a : SReg)
  /-- SSHL (R150) -/
  | sshl (n0 : Stall) (d : SReg) (a : SReg) (b : SReg)
  /-- SSHR (R150) -/
  | sshr (n0 : Stall) (d : SReg) (a : SReg) (b : SReg)
  /-- SSRA (R150) -/
  | ssra (n0 : Stall) (d : SReg) (a : SReg) (b : SReg)
  /-- SMIN_I (R150) -/
  | sminI (n0 : Stall) (d : SReg) (a : SReg) (b : SReg)
  /-- SMIN_N (R150) -/
  | sminN (n0 : Stall) (d : SReg) (a : SReg) (b : SReg)
  /-- SMAX_I (R150) -/
  | smaxI (n0 : Stall) (d : SReg) (a : SReg) (b : SReg)
  /-- SMAX_N (R150) -/
  | smaxN (n0 : Stall) (d : SReg) (a : SReg) (b : SReg)
  /-- SCLZ (R150) -/
  | sclz (n0 : Stall) (d : SReg) (a : SReg)
  /-- SPOP (R150) -/
  | spop (n0 : Stall) (d : SReg) (a : SReg)
  /-- SBFX (R151) -/
  | sbfx (n0 : Stall) (d : SReg) (a : SReg) (sg : Bool) (f : BitField)
  /-- SBFI (R151) -/
  | sbfi (n0 : Stall) (d : SReg) (a : SReg) (f : BitField)
  /-- SCMP (R152) -/
  | scmp (n0 : Stall) (d : SReg) (a : SReg) (b : SReg) (cc : Cond) (sg : Bool)
  /-- SSEL (R153) -/
  | ssel (n0 : Stall) (d : SReg) (a : SReg) (b : SReg) (c : SReg)
  /-- SREG (R108) -/
  | sreg (n0 : Stall) (d : SReg) (n : Fin 11)
  /-- VMOV (R154) -/
  | vmov (n0 : Stall) (d : VReg) (a : VSrc)
  /-- VLI (R154) -/
  | vli (n0 : Stall) (d : VReg) (imm : BitVec 32)
  /-- VADD (R155) -/
  | vadd (n0 : Stall) (d : VReg) (a : VSrc) (b : VSrc)
  /-- VSUB (R155) -/
  | vsub (n0 : Stall) (d : VReg) (a : VSrc) (b : VSrc)
  /-- VADDI (R154) -/
  | vaddi (n0 : Stall) (d : VReg) (a : VSrc) (imm : BitVec 8)
  /-- VMUL (R155) -/
  | vmul (n0 : Stall) (d : VReg) (a : VSrc) (b : VSrc)
  /-- VMULH_I (R155) -/
  | vmulhI (n0 : Stall) (d : VReg) (a : VSrc) (b : VSrc)
  /-- VMULH_N (R155) -/
  | vmulhN (n0 : Stall) (d : VReg) (a : VSrc) (b : VSrc)
  /-- VMAD (R156) -/
  | vmad (n0 : Stall) (d : VReg) (a : VSrc) (b : VSrc) (c : VSrc)
  /-- VAND (R155) -/
  | vand (n0 : Stall) (d : VReg) (a : VSrc) (b : VSrc)
  /-- VOR (R155) -/
  | vor (n0 : Stall) (d : VReg) (a : VSrc) (b : VSrc)
  /-- VXOR (R155) -/
  | vxor (n0 : Stall) (d : VReg) (a : VSrc) (b : VSrc)
  /-- VNOT (R155) -/
  | vnot (n0 : Stall) (d : VReg) (a : VSrc)
  /-- VSHL (R155) -/
  | vshl (n0 : Stall) (d : VReg) (a : VSrc) (b : VSrc)
  /-- VSHR (R155) -/
  | vshr (n0 : Stall) (d : VReg) (a : VSrc) (b : VSrc)
  /-- VSRA (R155) -/
  | vsra (n0 : Stall) (d : VReg) (a : VSrc) (b : VSrc)
  /-- VMIN (R156) -/
  | vmin (n0 : Stall) (d : VReg) (a : VSrc) (b : VSrc) (sg : Bool)
  /-- VMAX (R156) -/
  | vmax (n0 : Stall) (d : VReg) (a : VSrc) (b : VSrc) (sg : Bool)
  /-- VABS (R155) -/
  | vabs (n0 : Stall) (d : VReg) (a : VSrc)
  /-- VCLZ (R155) -/
  | vclz (n0 : Stall) (d : VReg) (a : VSrc)
  /-- VPOP (R155) -/
  | vpop (n0 : Stall) (d : VReg) (a : VSrc)
  /-- VBFX (R157) -/
  | vbfx (n0 : Stall) (d : VReg) (a : VSrc) (sg : Bool) (f : BitField)
  /-- VBFI (R157) -/
  | vbfi (n0 : Stall) (d : VReg) (a : VSrc) (f : BitField)
  /-- VCMP (R158) -/
  | vcmp (n0 : Stall) (d : PReg) (a : VSrc) (b : VSrc) (cc : Cond) (sg : Bool)
  /-- VSEL (R158) -/
  | vsel (n0 : Stall) (d : VReg) (a : VSrc) (b : VSrc) (p : PReg)
  /-- FADD (R159) -/
  | fadd (n0 : Stall) (d : VReg) (a : VSrc) (b : VSrc)
  /-- FSUB (R159) -/
  | fsub (n0 : Stall) (d : VReg) (a : VSrc) (b : VSrc)
  /-- FMUL (R159) -/
  | fmul (n0 : Stall) (d : VReg) (a : VSrc) (b : VSrc)
  /-- FFMA (R160) -/
  | ffma (n0 : Stall) (d : VReg) (a : VSrc) (b : VSrc) (c : VSrc) (fv : FmaVar)
  /-- FMIN (R161) -/
  | fmin (n0 : Stall) (d : VReg) (a : VSrc) (b : VSrc)
  /-- FMAX (R161) -/
  | fmax (n0 : Stall) (d : VReg) (a : VSrc) (b : VSrc)
  /-- FABS (R162) -/
  | fabs (n0 : Stall) (d : VReg) (a : VSrc)
  /-- FNEG (R162) -/
  | fneg (n0 : Stall) (d : VReg) (a : VSrc)
  /-- FCMP (R163) -/
  | fcmp (n0 : Stall) (d : PReg) (a : VSrc) (b : VSrc) (cc : Cond)
  /-- FRCP (R164) -/
  | frcp (n0 : Stall) (d : VReg) (a : VSrc)
  /-- FRSQ (R164) -/
  | frsq (n0 : Stall) (d : VReg) (a : VSrc)
  /-- FSQRT (R164) -/
  | fsqrt (n0 : Stall) (d : VReg) (a : VSrc)
  /-- FEX2 (R164) -/
  | fex2 (n0 : Stall) (d : VReg) (a : VSrc)
  /-- FLG2 (R164) -/
  | flg2 (n0 : Stall) (d : VReg) (a : VSrc)
  /-- FSIN (R164) -/
  | fsin (n0 : Stall) (d : VReg) (a : VSrc)
  /-- FCOS (R164) -/
  | fcos (n0 : Stall) (d : VReg) (a : VSrc)
  /-- FRND (R166) -/
  | frnd (n0 : Stall) (d : VReg) (a : VSrc) (rm : Round)
  /-- FCLASS (R167) -/
  | fclass (n0 : Stall) (d : VReg) (a : VSrc)
  /-- CVT (R168) -/
  | cvt (n0 : Stall) (d : VReg) (a : VSrc) (rm : Round) (sat : Bool) (dst : CvtType) (src : CvtType)
  /-- HADD_BF (R169) -/
  | haddBf (n0 : Stall) (d : VReg) (a : VSrc) (b : VSrc)
  /-- HMUL_BF (R169) -/
  | hmulBf (n0 : Stall) (d : VReg) (a : VSrc) (b : VSrc)
  /-- HFMA_BF (R169) -/
  | hfmaBf (n0 : Stall) (d : VReg) (a : VSrc) (b : VSrc) (c : VSrc) (fv : FmaVar)
  /-- HADD_H (R169) -/
  | haddH (n0 : Stall) (d : VReg) (a : VSrc) (b : VSrc)
  /-- HMUL_H (R169) -/
  | hmulH (n0 : Stall) (d : VReg) (a : VSrc) (b : VSrc)
  /-- HFMA_H (R169) -/
  | hfmaH (n0 : Stall) (d : VReg) (a : VSrc) (b : VSrc) (c : VSrc) (fv : FmaVar)
  /-- SHFL_IDX (R170) -/
  | shflIdx (n0 : Stall) (d : VReg) (a : VSrc) (b : VSrc)
  /-- SHFL_N (R170) -/
  | shflN (n0 : Stall) (d : VReg) (a : VSrc) (k : ShflKind) (n : Fin 32)
  /-- BCAST (R171) -/
  | bcast (n0 : Stall) (d : VReg) (a : VSrc) (b : SReg)
  /-- VOTE (R172) -/
  | vote (n0 : Stall) (d : PReg) (a : VSrc)
  /-- VRED (R173) -/
  | vred (n0 : Stall) (d : VReg) (a : VSrc) (op : RedOp)
  /-- VSCAN (R173) -/
  | vscan (n0 : Stall) (d : VReg) (a : VSrc) (op : RedOp) (ex : Bool)
  /-- VLANE (R109) -/
  | vlane (n0 : Stall) (d : VReg)
  /-- PAND (R174) -/
  | pand (n0 : Stall) (d : PReg) (a : PReg) (b : PReg)
  /-- POR (R174) -/
  | por (n0 : Stall) (d : PReg) (a : PReg) (b : PReg)
  /-- PXOR (R174) -/
  | pxor (n0 : Stall) (d : PReg) (a : PReg) (b : PReg)
  /-- PNOT (R174) -/
  | pnot (n0 : Stall) (d : PReg) (a : PReg)
  /-- PMOV (R175) -/
  | pmov (n0 : Stall) (d : PReg) (a : SReg)
  /-- PGET (R175) -/
  | pget (n0 : Stall) (d : VReg) (a : PReg)
  /-- LD (R284) -/
  | ld (n0 : Stall) (m : MemOp)
  /-- ST (R285) -/
  | st (n0 : Stall) (m : MemOp)
  /-- ATOM_ADD (R287) -/
  | atomAdd (n0 : Stall) (m : MemOp)
  /-- ATOM_MIN (R287) -/
  | atomMin (n0 : Stall) (m : MemOp)
  /-- ATOM_MAX (R287) -/
  | atomMax (n0 : Stall) (m : MemOp)
  /-- ATOM_AND (R287) -/
  | atomAnd (n0 : Stall) (m : MemOp)
  /-- ATOM_OR (R287) -/
  | atomOr (n0 : Stall) (m : MemOp)
  /-- ATOM_XOR (R287) -/
  | atomXor (n0 : Stall) (m : MemOp)
  /-- ATOM_XCHG (R287) -/
  | atomXchg (n0 : Stall) (m : MemOp)
  /-- ATOM_CAS (R287) -/
  | atomCas (n0 : Stall) (m : MemOp)
  /-- ATOM_INC (R287) -/
  | atomInc (n0 : Stall) (m : MemOp)
  /-- ATOM_FADD (R287) -/
  | atomFadd (n0 : Stall) (m : MemOp)
  /-- RED_ADD (R289) -/
  | redAdd (n0 : Stall) (m : MemOp)
  /-- RED_MIN (R289) -/
  | redMin (n0 : Stall) (m : MemOp)
  /-- RED_MAX (R289) -/
  | redMax (n0 : Stall) (m : MemOp)
  /-- RED_FADD (R289) -/
  | redFadd (n0 : Stall) (m : MemOp)
  /-- PF (R291) -/
  | pf (n0 : Stall) (m : MemOp)
  /-- BCHK (R292) -/
  | bchk (n0 : Stall) (m : MemOp)
  /-- BMETA (R293) -/
  | bmeta (n0 : Stall) (m : MemOp)
  /-- LDS (R190) -/
  | lds (n0 : Stall) (m : MemOp)
  /-- STS (R190) -/
  | sts (n0 : Stall) (m : MemOp)
  /-- ATOMS_ADD (R191) -/
  | atomsAdd (n0 : Stall) (m : MemOp)
  /-- ATOMS_CAS (R191) -/
  | atomsCas (n0 : Stall) (m : MemOp)
  /-- PLPACK (R192) -/
  | plpack (n0 : Stall) (d : SReg) (a : SReg) (b : SReg) (w : PlaneWidth)
  /-- PLUNPACK (R192) -/
  | plunpack (n0 : Stall) (d : SReg) (a : SReg) (b : SReg) (w : PlaneWidth)
  /-- L1CFG (R193) -/
  | l1cfg (n0 : Stall) (a : SReg) (t : TReg)
  /-- COPY (R220) -/
  | copy (n0 : Stall) (a : SReg) (t : TReg) (sc : Scope) (rel : Bool)
  /-- CWP (R225) -/
  | cwp (n0 : Stall) (d : SReg) (a : SReg)
  /-- FENCE (R327) -/
  | fence (n0 : Stall) (sc : Scope) (k : FenceKind)
  /-- WATCH (R213) -/
  | watch (n0 : Stall) (m : MemOp)
  /-- MLD_A (R255) -/
  | mldA (n0 : Stall) (a : SReg) (t : TReg) (l : Fin 4) (f : Fin 8)
  /-- MLD_B (R255) -/
  | mldB (n0 : Stall) (a : SReg) (t : TReg) (l : Fin 4) (f : Fin 8) (sm : Bool)
  /-- MMA (R257) -/
  | mma (n0 : Stall) (a : SReg) (t : TReg)
  /-- MDRAIN (R259) -/
  | mdrain (n0 : Stall) (a : SReg) (t : TReg) (f : Fin 8)
  /-- MZERO (R260) -/
  | mzero (n0 : Stall) (t : TReg)
  /-- MSTAT (R262) -/
  | mstat (n0 : Stall) (d : SReg) (n : Fin 5)
  /-- LREC (R261) -/
  | lrec (n0 : Stall) (a : SReg) (l : Fin 4)
  /-- LCONF (R262) -/
  | lconf (n0 : Stall) (d : SReg)
  /-- LCONF_CLR (R262) -/
  | lconfClr (n0 : Stall) (d : SReg)
  /-- QNT (R264) -/
  | qnt (n0 : Stall) (d : VReg) (a : VSrc) (b : VSrc) (f : Fin 8)
  /-- QNT_SCALE (R264) -/
  | qntScale (n0 : Stall) (d : VReg) (a : VSrc) (c : VReg) (f : Fin 8)
  /-- DQNT (R265) -/
  | dqnt (n0 : Stall) (d : VReg) (a : VSrc) (b : VSrc) (f : Fin 8)
  /-- BSCALE (R266) -/
  | bscale (n0 : Stall) (d : VReg) (a : VSrc) (f : Fin 8)
  /-- FSLOT (R262) -/
  | fslot (n0 : Stall) (d : SReg) (f : Fin 8) (h : Bool)
  /-- TCOUNT (R267) -/
  | tcount (n0 : Stall) (d : VReg) (a : VSrc) (w : PlaneWidth)
  /-- TNOW (R73) -/
  | tnow (n0 : Stall) (d : SReg)
  /-- TGET (R73) -/
  | tget (n0 : Stall) (d : SReg) (a : TReg)
  /-- TSET (R74) -/
  | tset (n0 : Stall) (d : TReg) (a : SReg)
  /-- TMIN (R75) -/
  | tmin (n0 : Stall) (d : TReg) (a : TReg) (b : TReg)
  /-- TMAX (R75) -/
  | tmax (n0 : Stall) (d : TReg) (a : TReg) (b : TReg)
  /-- TADD (R76) -/
  | tadd (n0 : Stall) (d : TReg) (a : TReg) (b : SReg) (n : BitVec 16)
  /-- TSORT (R77) -/
  | tsort (n0 : Stall) (d : SReg) (a : TReg) (b : TReg)
  /-- TCLR (R78) -/
  | tclr (n0 : Stall) (d : TReg) (l : TReg)
  /-- TREP (R79) -/
  | trep (n0 : Stall) (d : SReg)
  /-- BAR_INIT (R199) -/
  | barInit (n0 : Stall) (d : BReg) (a : SReg) (n : Fin 32)
  /-- BAR_ARRIVE (R200) -/
  | barArrive (n0 : Stall) (d : BReg)
  /-- BAR_WAIT (R201) -/
  | barWait (n0 : Stall) (d : BReg)
  /-- BAR_THEN (R202) -/
  | barThen (n0 : Stall) (d : BReg) (off : BitVec 30)
  /-- BAR_BYTES (R200) -/
  | barBytes (n0 : Stall) (d : BReg) (a : SReg)
  /-- BAR_PHASE (R203) -/
  | barPhase (n0 : Stall) (d : SReg) (a : BReg)
  /-- RING_INIT (R207) -/
  | ringInit (n0 : Stall) (d : SReg) (a : SReg) (n : Fin 64) (strict : Bool) (size : BitVec 24)
  /-- RING_FILL (R208) -/
  | ringFill (n0 : Stall) (a : SReg)
  /-- RING_AWAIT (R209) -/
  | ringAwait (n0 : Stall) (d : SReg) (a : SReg)
  /-- RING_RELEASE (R210) -/
  | ringRelease (n0 : Stall) (a : SReg)
  /-- RING_STATE (R211) -/
  | ringState (n0 : Stall) (d : SReg) (a : SReg)
  /-- MWAIT (R214) -/
  | mwait (n0 : Stall) (n : BitVec 32)
  /-- QBIND_PIN (R343) -/
  | qbindPin (n0 : Stall) (a : SReg)
  /-- QBIND (R343) -/
  | qbind (n0 : Stall) (a : SReg)
  /-- QPUSH (R341 to R343) -/
  | qpush (n0 : Stall) (d : VReg) (a : SReg) (t : TReg)
  /-- QPOP (R341 to R343) -/
  | qpop (n0 : Stall) (d : VReg) (a : SReg) (t : TReg)
  /-- QPEEK (R341 to R343) -/
  | qpeek (n0 : Stall) (d : VReg) (a : SReg) (t : TReg)
  /-- QLEN (R343) -/
  | qlen (n0 : Stall) (d : SReg) (a : SReg)
  /-- BGT (R347) -/
  | bgt (n0 : Stall) (d : SReg)
  /-- DLINE (R347) -/
  | dline (n0 : Stall) (d : SReg)
  /-- ERGR (R380) -/
  | ergr (n0 : Stall) (d : SReg)
  /-- CTRR (R380) -/
  | ctrr (n0 : Stall) (d : SReg) (k : EvReg)
  /-- CTRC_SET (R381) -/
  | ctrcSet (n0 : Stall) (d : EvReg) (a : SReg) (b : SReg)
  /-- CTRC_CLR (R381) -/
  | ctrcClr (n0 : Stall) (d : EvReg)
  /-- CTRC_STOP (R381) -/
  | ctrcStop (n0 : Stall) (d : EvReg)
  /-- CTRC_START (R381) -/
  | ctrcStart (n0 : Stall) (d : EvReg)
  /-- SMARK (R383) -/
  | smark (n0 : Stall) (a : SReg) (n : BitVec 8)
  /-- POWER_ON_RESET (R398) -/
  | powerOnReset
  /-- FUNDAMENTAL_RESET (R398) -/
  | fundamentalReset
  /-- READY_BIT_RISE (R400) -/
  | readyBitRise
  /-- LIFECYCLE_CHANGE (R401) -/
  | lifecycleChange
  /-- BOOTCFG_WRITE (R399) -/
  | bootcfgWrite
  /-- ATTESTATION_REQUEST (R402) -/
  | attestationRequest
  /-- ATTESTATION_REPORT_SIGNED (R402) -/
  | attestationReportSigned
  /-- MAILBOX_DOORBELL_SET (R389) -/
  | mailboxDoorbellSet
  /-- MAILBOX_DOORBELL_CLEAR (R389) -/
  | mailboxDoorbellClear
  /-- HOST_MEMORY_ACCESS (R388) -/
  | hostMemoryAccess
  /-- HOST_QUEUE_PUSH (R344) -/
  | hostQueuePush
  /-- PEER_REQUEST (R397) -/
  | peerRequest
  /-- PEER_REFUSAL (R397) -/
  | peerRefusal
  /-- HOST_COMPLETION (R420) -/
  | hostCompletion
  /-- PATH_ALLOWANCE_OVERRUN (R58) -/
  | pathAllowanceOverrun
  /-- FABRIC_LINK_REPLAY (R395) -/
  | fabricLinkReplay
  /-- DIE_LINK_REPLAY (R11) -/
  | dieLinkReplay
  /-- FABRIC_LINK_DOWN (R395) -/
  | fabricLinkDown
  /-- FABRIC_LINK_UP (R395) -/
  | fabricLinkUp
  /-- FABRIC_LINK_RETRAIN_TIMEOUT (R395) -/
  | fabricLinkRetrainTimeout
  /-- PTP_EVENT_TIMESTAMP (R374) -/
  | ptpEventTimestamp
  /-- INSTRUCTION_FETCH_FILL (R22) -/
  | instructionFetchFill
  /-- CLAUSE_HEADER (R30) -/
  | clauseHeader
  /-- FAIRNESS_TIMER_EXPIRY (R94) -/
  | fairnessTimerExpiry
  /-- RECORD_WRITE_DONE (R111) -/
  | recordWriteDone
  /-- RELAUNCH (R119) -/
  | relaunch
  /-- RELAUNCH_COMPLETE (R119) -/
  | relaunchComplete
  /-- WAKE_TIME_REACHED (R117) -/
  | wakeTimeReached
  /-- MWAIT_TIMEOUT (R214) -/
  | mwaitTimeout
  /-- DETACHED_TIMER_SETTLE (R52) -/
  | detachedTimerSettle
  /-- PROBE_PASS (R54) -/
  | probePass
  /-- REQUEST_LANDING (R50) -/
  | requestLanding
  /-- REQUEST_BREAK (R63) -/
  | requestBreak
  /-- HELD_RESOLUTION (R68) -/
  | heldResolution
  /-- HELD_CONVERT_CLASS3 (R68) -/
  | heldConvertClass3
  /-- STEWARD_LAUNCH_SUBMIT (R82) -/
  | stewardLaunchSubmit
  /-- DISPATCH_TAKE (R345) -/
  | dispatchTake
  /-- CREW_PLACEMENT (R85) -/
  | crewPlacement
  /-- AFFINITY_FALLBACK (R85) -/
  | affinityFallback
  /-- CREW_RETIRE (R100) -/
  | crewRetire
  /-- PARTITION_ZERO_DONE (R178) -/
  | partitionZeroDone
  /-- L1CFG_COMPLETE (R189) -/
  | l1cfgComplete
  /-- CHANNEL_TAKE_COMMAND (R222) -/
  | channelTakeCommand
  /-- COPY_ROW_LANDING (R224) -/
  | copyRowLanding
  /-- LAPIDARY_OP_START (R234) -/
  | lapidaryOpStart
  /-- LAPIDARY_OP_COMPLETE (R241) -/
  | lapidaryOpComplete
  /-- STORE_PERFORMED (R299) -/
  | storePerformed
  /-- ATOMIC_PERFORMED (R290) -/
  | atomicPerformed
  /-- L2_VICTIM_WRITEBACK (R300) -/
  | l2VictimWriteback
  /-- WRITE_THROUGH_PERFORM (R408) -/
  | writeThroughPerform
  /-- MSC_SECTOR_FILL (R308) -/
  | mscSectorFill
  /-- HBM_REFRESH (R304) -/
  | hbmRefresh
  /-- STACK_TEMP_CROSSING (R304) -/
  | stackTempCrossing
  /-- ECC_ERROR (R312) -/
  | eccError
  /-- SCRUB (R312) -/
  | scrub
  /-- HBM_DEAD_MARK (R305) -/
  | hbmDeadMark
  /-- HBM_DEAD_LOAD (R305) -/
  | hbmDeadLoad
  /-- QUEUE_UNIT_REQUEST (R340) -/
  | queueUnitRequest
  /-- QUEUE_REFILL_LANDING (R336) -/
  | queueRefillLanding
  /-- QUEUE_SWAP_IN (R337) -/
  | queueSwapIn
  /-- QUEUE_SWAP_IN_DONE (R337) -/
  | queueSwapInDone
  /-- BUDGET_EXHAUSTED (R346) -/
  | budgetExhausted
  /-- CTX_SWITCH_IN (R357) -/
  | ctxSwitchIn
  /-- CTX_SWITCH_OUT (R357) -/
  | ctxSwitchOut
  /-- CONTEXT_BANK_EXCHANGE (R357) -/
  | contextBankExchange
  /-- LAPIDARY_RESTORE (R249) -/
  | lapidaryRestore
  /-- SCRATCHPAD_SPILL (R357) -/
  | scratchpadSpill
  /-- CTX_KILL (R356) -/
  | ctxKill
  /-- CTX_KILL_CREW (R356) -/
  | ctxKillCrew
  /-- CTX_RESUME_GANG (R356) -/
  | ctxResumeGang
  /-- CTX_MIGRATE_CREW (R361) -/
  | ctxMigrateCrew
  /-- CTX_RAISE_BUDGET (R356) -/
  | ctxRaiseBudget
  /-- CTX_REVOKE_RECORD (R356) -/
  | ctxRevokeRecord
  /-- CTX_REINSTATE_RECORD (R356) -/
  | ctxReinstateRecord
  /-- REVOKE_DONE (R356) -/
  | revokeDone
  /-- HANG_WATCHDOG_EXPIRY (R360) -/
  | hangWatchdogExpiry
  /-- SPILL_WATCHDOG_EXPIRY (R360) -/
  | spillWatchdogExpiry
  /-- THERMAL_THRESHOLD_CROSSING (R362) -/
  | thermalThresholdCrossing
  /-- MIGRATION_REFUSED (R361) -/
  | migrationRefused
  /-- MIGRATION_MOVE_BEGIN (R409) -/
  | migrationMoveBegin
  /-- MIGRATION_REMAP (R409) -/
  | migrationRemap
  /-- TOKEN_PERIOD_BOUNDARY (R364) -/
  | tokenPeriodBoundary
  /-- ARBITER_ROUND (R365) -/
  | arbiterRound
  /-- THROTTLE (R366) -/
  | throttle
  /-- PWR_STAT_LIC_WRITE (R367) -/
  | pwrStatLicWrite
  /-- TOK_OFFER (R368) -/
  | tokOffer
  /-- TOKEN_OFFER_RECEIVED (R368) -/
  | tokenOfferReceived
  /-- TOKEN_ACK_RECEIVED (R368) -/
  | tokenAckReceived
  /-- TOKEN_REFUSE_RECEIVED (R368) -/
  | tokenRefuseReceived
  /-- TOKEN_COMMIT_RECEIVED (R368) -/
  | tokenCommitReceived
  /-- CLK_STEP_ARM (R372) -/
  | clkStepArm
  /-- FREQUENCY_STEP (R372) -/
  | frequencyStep
  /-- FREQUENCY_HOLD_END (R373) -/
  | frequencyHoldEnd
  /-- TIME_ADJ_SLEW (R375) -/
  | timeAdjSlew
  /-- TIME_ADJ_STEP (R375) -/
  | timeAdjStep
  /-- FORWARD_STEP_APPLY (R47) -/
  | forwardStepApply
  /-- BRKC_READ (R378) -/
  | brkcRead
  /-- ERRC_READ (R378) -/
  | errcRead
  /-- CONT_STAT_READ (R124) -/
  | contStatRead
  /-- CONT_OVF_READ (R124) -/
  | contOvfRead
  /-- TRC_CNT_READ (R384) -/
  | trcCntRead
  /-- REGISTER_WRITE (R391) -/
  | registerWrite
  /-- PLPACK_LAST_WRITE (R192) -/
  | plpackLastWrite
  /-- PRELOAD_DONE (R357) -/
  | preloadDone
  /-- SPILL_DONE (R357) -/
  | spillDone
  /-- SENSOR_READS_BELOW_THERM (R362) -/
  | sensorReadsBelowTherm
deriving DecidableEq, Repr

end Sys2Proof
end

