-- ==== Sys2Proof/WellFormed.lean ====
section
/-!
DEFINITION. What an instruction term must satisfy beyond its operand types: the limits of R33 to R39 that join fields.
-/
namespace Sys2Proof

/-- Bytes of an access of width `w` (R276). -/
def Width.size : Width → Nat
  | .b8 => 1 | .i8 => 1 | .b16 => 2 | .i16 => 2 | .b32 => 4 | .b64 => 8 | .b128 => 16

/-- Data registers that a value of width `w` takes: vector, by words (R32). -/
def Width.vregs : Width → Nat
  | .b64 => 2 | .b128 => 4 | _ => 1

/-- Scalar registers that a value of width `w` takes (R32). -/
def Width.sregs : Width → Nat
  | .b128 => 2 | _ => 1

/-- R32, R33: alignment and range of the data registers of a plain access. -/
def DataReg.wf (w : Width) : DataReg → Bool
  | .v n => n.val % w.vregs == 0 && n.val + w.vregs ≤ 192
  | .s n => n.val % w.sregs == 0 && n.val + w.sregs ≤ 64

/-- R37, R287: the data registers of an atomic with `ops` operands follow D consecutively. -/
def DataReg.wfAtom (w : Width) (ops : Nat) : DataReg → Bool
  | .v n => n.val % w.vregs == 0 && n.val + w.vregs * (ops + 1) ≤ 192
  | .s n => n.val + ops + 1 ≤ 64

/-- R39: SEM on a read. -/
def MemOp.semRead (m : MemOp) : Bool := m.sem == .plain || m.sem == .acq
/-- R39: SEM on a write. -/
def MemOp.semWrite (m : MemOp) : Bool := m.sem == .plain || m.sem == .rel
/-- Widths 2 and 3 of R32. -/
def MemOp.w23 (m : MemOp) : Bool := m.w == .b32 || m.w == .b64
/-- R39: a scratchpad word carries H = 0 and SC 0 or 1. -/
def MemOp.inPart (m : MemOp) : Bool := m.h == 0 && (m.sc == .gang || m.sc == .crew)
/-- R39: AV and AT are zero where the instruction does not use them (R291 to R293). -/
def MemOp.noOrder (m : MemOp) : Bool := m.sem == .plain && m.sc == .gang && m.after == false && m.afterT == 0
/-- DS = 1. -/
def MemOp.scalarData (m : MemOp) : Bool := match m.data with | .s _ => true | .v _ => false

/-- R37, R39: an atomic word. -/
def MemOp.wfAtomic (ops : Nat) (m : MemOp) : Bool := m.w23 && m.data.wfAtom m.w ops
/-- R37, R39: a reduction word. -/
def MemOp.wfRed (m : MemOp) : Bool := m.w23 && m.semWrite && m.data.wf m.w
/-- R37, R39, R191: a scratchpad atomic word. -/
def MemOp.wfAtoms (ops : Nat) (m : MemOp) : Bool := m.inPart && m.w == .b32 && m.data.wfAtom m.w ops

/-- The checks that join fields of one instruction (R33, R36 to R39, R72, R264). -/
def wellFormed : Instr → Bool
  | .ld _ m => m.semRead && m.data.wf m.w
  | .st _ m => m.semWrite && m.data.wf m.w
  | .pf _ m => m.data == .v 0 && m.t == 0 && m.w == .b8 && m.noOrder
  | .bchk _ m => m.scalarData && m.noOrder
  | .bmeta _ m => m.scalarData && m.off == .s 0 && m.w == .b8 && m.noOrder && m.imm.toNat ≤ 7
  | .lds _ m => m.inPart && m.semRead && m.data.wf m.w
  | .sts _ m => m.inPart && m.semWrite && m.data.wf m.w
  | .atomsAdd _ m => m.wfAtoms 1
  | .atomsCas _ m => m.wfAtoms 2
  | .watch _ m => m.data == .v 0 && m.t == 0 && m.w23 && m.sem == .plain && m.sc == .dev
  | .atomAdd _ m => m.wfAtomic 1
  | .atomMin _ m => m.wfAtomic 1
  | .atomMax _ m => m.wfAtomic 1
  | .atomAnd _ m => m.wfAtomic 1
  | .atomOr _ m => m.wfAtomic 1
  | .atomXor _ m => m.wfAtomic 1
  | .atomXchg _ m => m.wfAtomic 1
  | .atomInc _ m => m.wfAtomic 1
  | .atomCas _ m => m.wfAtomic 2
  | .atomFadd _ m => m.wfAtomic 1 && m.w == .b32
  | .redAdd _ m => m.wfRed
  | .redMin _ m => m.wfRed
  | .redMax _ m => m.wfRed
  | .redFadd _ m => m.wfRed && m.w == .b32
  | .yieldAll _ x m => m != 0 || x.isSome
  | .yieldAny _ x m => m != 0 || x.isSome
  | .yieldAt _ x _ => x.isSome
  | .sbfx _ _ _ _ f => f.pos.val + f.wid.val + 1 ≤ 64
  | .sbfi _ _ _ f => f.pos.val + f.wid.val + 1 ≤ 64
  | .vbfx _ _ _ _ f => f.pos.val + f.wid.val + 1 ≤ 32
  | .vbfi _ _ _ f => f.pos.val + f.wid.val + 1 ≤ 32
  | .scmp _ _ _ _ cc _ => cc != .ord && cc != .unord
  | .vcmp _ _ _ _ cc _ => cc != .ord && cc != .unord
  | .cvt _ _ _ _ _ dst src => src != dst
  | .tsort _ _ a b => a ≤ b
  | .tclr _ d l => d ≤ l
  | .ringInit _ _ _ _ _ size => size != 0
  | .qntScale _ d _ c _ => d != c
  | .powerOnReset => true
  | .fundamentalReset => true
  | .readyBitRise => true
  | .lifecycleChange => true
  | .bootcfgWrite => true
  | .attestationRequest => true
  | .attestationReportSigned => true
  | .mailboxDoorbellSet => true
  | .mailboxDoorbellClear => true
  | .hostMemoryAccess => true
  | .hostQueuePush => true
  | .peerRequest => true
  | .peerRefusal => true
  | .hostCompletion => true
  | .pathAllowanceOverrun => true
  | .fabricLinkReplay => true
  | .dieLinkReplay => true
  | .fabricLinkDown => true
  | .fabricLinkUp => true
  | .fabricLinkRetrainTimeout => true
  | .ptpEventTimestamp => true
  | .instructionFetchFill => true
  | .clauseHeader => true
  | .fairnessTimerExpiry => true
  | .recordWriteDone => true
  | .relaunch => true
  | .relaunchComplete => true
  | .wakeTimeReached => true
  | .mwaitTimeout => true
  | .detachedTimerSettle => true
  | .probePass => true
  | .requestLanding => true
  | .requestBreak => true
  | .heldResolution => true
  | .heldConvertClass3 => true
  | .stewardLaunchSubmit => true
  | .dispatchTake => true
  | .crewPlacement => true
  | .affinityFallback => true
  | .crewRetire => true
  | .partitionZeroDone => true
  | .l1cfgComplete => true
  | .channelTakeCommand => true
  | .copyRowLanding => true
  | .lapidaryOpStart => true
  | .lapidaryOpComplete => true
  | .storePerformed => true
  | .atomicPerformed => true
  | .l2VictimWriteback => true
  | .writeThroughPerform => true
  | .mscSectorFill => true
  | .hbmRefresh => true
  | .stackTempCrossing => true
  | .eccError => true
  | .scrub => true
  | .hbmDeadMark => true
  | .hbmDeadLoad => true
  | .queueUnitRequest => true
  | .queueRefillLanding => true
  | .queueSwapIn => true
  | .queueSwapInDone => true
  | .budgetExhausted => true
  | .ctxSwitchIn => true
  | .ctxSwitchOut => true
  | .contextBankExchange => true
  | .lapidaryRestore => true
  | .scratchpadSpill => true
  | .ctxKill => true
  | .ctxKillCrew => true
  | .ctxResumeGang => true
  | .ctxMigrateCrew => true
  | .ctxRaiseBudget => true
  | .ctxRevokeRecord => true
  | .ctxReinstateRecord => true
  | .revokeDone => true
  | .hangWatchdogExpiry => true
  | .spillWatchdogExpiry => true
  | .thermalThresholdCrossing => true
  | .migrationRefused => true
  | .migrationMoveBegin => true
  | .migrationRemap => true
  | .tokenPeriodBoundary => true
  | .arbiterRound => true
  | .throttle => true
  | .pwrStatLicWrite => true
  | .tokOffer => true
  | .tokenOfferReceived => true
  | .tokenAckReceived => true
  | .tokenRefuseReceived => true
  | .tokenCommitReceived => true
  | .clkStepArm => true
  | .frequencyStep => true
  | .frequencyHoldEnd => true
  | .timeAdjSlew => true
  | .timeAdjStep => true
  | .forwardStepApply => true
  | .brkcRead => true
  | .errcRead => true
  | .contStatRead => true
  | .contOvfRead => true
  | .trcCntRead => true
  | .registerWrite => true
  | .plpackLastWrite => true
  | .preloadDone => true
  | .spillDone => true
  | .sensorReadsBelowTherm => true
  | .nop .. => true
  | .bra .. => true
  | .bp .. => true
  | .bpz .. => true
  | .ball .. => true
  | .bany .. => true
  | .call .. => true
  | .ret .. => true
  | .jmp .. => true
  | .jmpv .. => true
  | .exit .. => true
  | .setprio .. => true
  | .trap .. => true
  | .rett .. => true
  | .brk .. => true
  | .live .. => true
  | .fork .. => true
  | .bts .. => true
  | .btb .. => true
  | .bth .. => true
  | .btl .. => true
  | .smov .. => true
  | .sli .. => true
  | .slih .. => true
  | .sadd .. => true
  | .ssub .. => true
  | .saddi .. => true
  | .smul .. => true
  | .smulhI .. => true
  | .smulhN .. => true
  | .sand .. => true
  | .sor .. => true
  | .sxor .. => true
  | .snot .. => true
  | .sshl .. => true
  | .sshr .. => true
  | .ssra .. => true
  | .sminI .. => true
  | .sminN .. => true
  | .smaxI .. => true
  | .smaxN .. => true
  | .sclz .. => true
  | .spop .. => true
  | .ssel .. => true
  | .sreg .. => true
  | .vmov .. => true
  | .vli .. => true
  | .vadd .. => true
  | .vsub .. => true
  | .vaddi .. => true
  | .vmul .. => true
  | .vmulhI .. => true
  | .vmulhN .. => true
  | .vmad .. => true
  | .vand .. => true
  | .vor .. => true
  | .vxor .. => true
  | .vnot .. => true
  | .vshl .. => true
  | .vshr .. => true
  | .vsra .. => true
  | .vmin .. => true
  | .vmax .. => true
  | .vabs .. => true
  | .vclz .. => true
  | .vpop .. => true
  | .vsel .. => true
  | .fadd .. => true
  | .fsub .. => true
  | .fmul .. => true
  | .ffma .. => true
  | .fmin .. => true
  | .fmax .. => true
  | .fabs .. => true
  | .fneg .. => true
  | .fcmp .. => true
  | .frcp .. => true
  | .frsq .. => true
  | .fsqrt .. => true
  | .fex2 .. => true
  | .flg2 .. => true
  | .fsin .. => true
  | .fcos .. => true
  | .frnd .. => true
  | .fclass .. => true
  | .haddBf .. => true
  | .hmulBf .. => true
  | .hfmaBf .. => true
  | .haddH .. => true
  | .hmulH .. => true
  | .hfmaH .. => true
  | .shflIdx .. => true
  | .shflN .. => true
  | .bcast .. => true
  | .vote .. => true
  | .vred .. => true
  | .vscan .. => true
  | .vlane .. => true
  | .pand .. => true
  | .por .. => true
  | .pxor .. => true
  | .pnot .. => true
  | .pmov .. => true
  | .pget .. => true
  | .plpack .. => true
  | .plunpack .. => true
  | .l1cfg .. => true
  | .copy .. => true
  | .cwp .. => true
  | .fence .. => true
  | .mldA .. => true
  | .mldB .. => true
  | .mma .. => true
  | .mdrain .. => true
  | .mzero .. => true
  | .mstat .. => true
  | .lrec .. => true
  | .lconf .. => true
  | .lconfClr .. => true
  | .qnt .. => true
  | .dqnt .. => true
  | .bscale .. => true
  | .fslot .. => true
  | .tcount .. => true
  | .tnow .. => true
  | .tget .. => true
  | .tset .. => true
  | .tmin .. => true
  | .tmax .. => true
  | .tadd .. => true
  | .trep .. => true
  | .barInit .. => true
  | .barArrive .. => true
  | .barWait .. => true
  | .barThen .. => true
  | .barBytes .. => true
  | .barPhase .. => true
  | .ringFill .. => true
  | .ringAwait .. => true
  | .ringRelease .. => true
  | .ringState .. => true
  | .mwait .. => true
  | .qbindPin .. => true
  | .qbind .. => true
  | .qpush .. => true
  | .qpop .. => true
  | .qpeek .. => true
  | .qlen .. => true
  | .bgt .. => true
  | .dline .. => true
  | .ergr .. => true
  | .ctrr .. => true
  | .ctrcSet .. => true
  | .ctrcClr .. => true
  | .ctrcStop .. => true
  | .ctrcStart .. => true
  | .smark .. => true

end Sys2Proof
end

