-- ==== Sys2Proof/Decode.lean ====
section
/-!
DEFINITION. Decoding of instruction words, total on any words and rejecting by name, and the encoder, both written from
the forms of R31 and the opcode tables of R37. Words are natural numbers below 2^32; bit 0 is the least significant (R2).
-/
namespace Sys2Proof

/-- Field S of every instruction word (R31). -/
def fS (w : Nat) : Nat := w / 0x40000000 % 4
/-- Field OP of every instruction word (R31). -/
def fOP (w : Nat) : Nat := w / 0x1000000 % 64
/-- Field D (R31). -/
def fD (w : Nat) : Nat := w / 0x10000 % 256
/-- Field A, and O of WM (R31). -/
def fA (w : Nat) : Nat := w / 0x100 % 256
/-- Field B, and IMM8 (R31). -/
def fB (w : Nat) : Nat := w % 256
/-- Field OFF16 of WB and WBE (R31). -/
def fOFF (w : Nat) : Nat := w / 0x100 % 65536
/-- Field P of WB (R31). -/
def fP (w : Nat) : Nat := w / 0x20 % 8
/-- Field PRIO of WB (R31). -/
def fPRIO (w : Nat) : Nat := w % 32
/-- Field TMASK of WY (R31). -/
def fTM (w : Nat) : Nat := w % 65536
/-- Field T of WM and WO (R31). -/
def fT (w : Nat) : Nat := w / 0x10 % 16
/-- Field W of WM, and MOD of WO (R31). -/
def fW (w : Nat) : Nat := w % 16
/-- Field C of a W3E extension word (R31). -/
def eC (e : Nat) : Nat := e / 0x1000000 % 256
/-- Field MOD of a W3E extension word (R31). -/
def eMOD (e : Nat) : Nat := e / 0x10000 % 256
/-- Field IMM16 of a W3E extension word (R31). -/
def eIMM (e : Nat) : Nat := e % 65536
/-- Field T of a WBE extension word (R31). -/
def eT (e : Nat) : Nat := e / 0x10000000 % 16
/-- Field DELTA of a WBE extension word (R31). -/
def eDELTA (e : Nat) : Nat := e % 0x10000000

/-- A W3, WI or WIE word (R31). -/
def w3 (s op d a b : Nat) : Nat :=
  s % 4 * 0x40000000 + op % 64 * 0x1000000 + d % 256 * 0x10000 + a % 256 * 0x100 + b % 256
/-- The extension word of W3E (R31). -/
def w3e (c m i : Nat) : Nat := c % 256 * 0x1000000 + m % 256 * 0x10000 + i % 65536
/-- A WB or WBE word (R31). -/
def wb (s op off p prio : Nat) : Nat :=
  s % 4 * 0x40000000 + op % 64 * 0x1000000 + off % 65536 * 0x100 + p % 8 * 0x20 + prio % 32
/-- The extension word of WBE (R31). -/
def wbe (t delta : Nat) : Nat := t % 16 * 0x10000000 + delta % 0x10000000
/-- A WY word (R31). -/
def wy (s op x m : Nat) : Nat := s % 4 * 0x40000000 + op % 64 * 0x1000000 + x % 256 * 0x10000 + m % 65536
/-- A WM or WO word (R31). -/
def wo (s op d a t m : Nat) : Nat :=
  s % 4 * 0x40000000 + op % 64 * 0x1000000 + d % 256 * 0x10000 + a % 256 * 0x100 + t % 16 * 0x10 + m % 16
/-- The WM extension word (R31, R32). -/
def wme (h ds os av at' sc sem imm : Nat) : Nat :=
  h % 64 * 0x4000000 + ds % 2 * 0x2000000 + os % 2 * 0x1000000 + av % 2 * 0x800000 + at' % 16 * 0x80000
    + sc % 8 * 0x10000 + sem % 4 * 0x4000 + imm % 0x4000

/-- A number below `n`, or nothing. -/
def fin? (n x : Nat) : Option (Fin n) := if h : x < n then some ⟨x, h⟩ else none
/-- A number from 1 to `n`, as its predecessor. -/
def fin1? (n x : Nat) : Option (Fin n) := if x = 0 then none else fin? n (x - 1)
/-- A scalar register field (R33). -/
def sreg? (x : Nat) : Option SReg := fin? 64 x
/-- A vector destination field (R33). -/
def vreg? (x : Nat) : Option VReg := fin? 192 x
/-- A predicate register field (R33). -/
def preg? (x : Nat) : Option PReg := fin? 8 x
/-- A time register field (R33). -/
def treg? (x : Nat) : Option TReg := fin? 16 x
/-- A barrier slot field (R33). -/
def breg? (x : Nat) : Option BReg := fin? 32 x
/-- An event counter field (R33). -/
def evreg? (x : Nat) : Option EvReg := fin? 16 x
/-- A vector source field (R33). -/
def vsrc? (x : Nat) : Option VSrc :=
  if h : x < 192 then some (.v ⟨x, h⟩) else (fin? 64 (x - 192)).map .s
/-- A field that must name a broadcast scalar, 0xC0 to 0xFF (R171, R175). -/
def bsreg? (x : Nat) : Option SReg := if x < 192 then none else fin? 64 (x - 192)
/-- Field X of WY: a scalar register, or 0xFF for none (R31). -/
def xreg? (x : Nat) : Option (Option SReg) := if x = 255 then some none else (fin? 64 x).map some
/-- A one-bit field. -/
def bool? (x : Nat) : Option Bool := if x = 0 then some false else if x = 1 then some true else none
/-- A signed byte offset that is a multiple of 4, as a word count (R198, R202). -/
def words30? (x : Nat) : Option (BitVec 30) := if x % 4 = 0 then some (BitVec.ofNat 30 (x / 4)) else none
/-- IMM16 of a bit field: position in [5:0], width less one in [11:6], [15:12] zero (R36). -/
def bitField? (x : Nat) : Option BitField :=
  if x / 4096 = 0 then some ⟨⟨x % 64, Nat.mod_lt _ (by decide)⟩, ⟨x / 64 % 64, Nat.mod_lt _ (by decide)⟩⟩ else none
/-- A plane width field, width less one, 1 to 15 (R36). -/
def planeWidth? (x : Nat) : Option PlaneWidth := fin1? 15 x
/-- Compare conditions (R36). -/
def cond? : Nat → Option Cond
  | 0 => some .eq | 1 => some .ne | 2 => some .lt | 3 => some .le | 4 => some .gt | 5 => some .ge | 6 => some .ord
  | 7 => some .unord | _ => none
/-- Rounding modes (R36). -/
def round? : Nat → Option Round
  | 0 => some .rn | 1 => some .rz | 2 => some .rm | 3 => some .rp | 4 => some .rna | _ => none
/-- Fused-multiply variants (R36). -/
def fmaVar? : Nat → Option FmaVar
  | 0 => some .plain | 1 => some .fms | 2 => some .fnma | 3 => some .fnms | _ => none
/-- Reduction operations (R36). -/
def redOp? : Nat → Option RedOp
  | 0 => some .add | 1 => some .minI | 2 => some .maxI | 3 => some .minN | 4 => some .maxN | 5 => some .and
  | 6 => some .or | 7 => some .xor | 8 => some .fadd | 9 => some .fmin | 10 => some .fmax | _ => none
/-- `shfl` by a number: 1 up, 2 down, 3 xor (R170). -/
def shflKind? : Nat → Option ShflKind
  | 1 => some .up | 2 => some .down | 3 => some .xor | _ => none
/-- Fence kinds (R327). -/
def fenceKind? : Nat → Option FenceKind
  | 1 => some .acq | 2 => some .rel | 3 => some .full | _ => none
/-- Scopes (R32). -/
def scope? : Nat → Option Scope
  | 0 => some .gang | 1 => some .crew | 2 => some .span | 3 => some .stack | 4 => some .dev | 5 => some .sys | _ => none
/-- Semantics (R32). -/
def sem? : Nat → Option Sem
  | 0 => some .plain | 1 => some .acq | 2 => some .rel | 3 => some .acqRel | _ => none
/-- Access widths (R32). -/
def width? : Nat → Option Width
  | 0 => some .b8 | 1 => some .b16 | 2 => some .b32 | 3 => some .b64 | 4 => some .i8 | 5 => some .i16 | 6 => some .b128
  | _ => none
/-- Type codes of `cvt` (R37, R141). -/
def cvtType? : Nat → Option CvtType
  | 1 => some .f32 | 2 => some .bf16 | 3 => some .f16 | 4 => some .f8e4 | 5 => some .f8e5 | 8 => some .i8 | 9 => some .i16
  | 10 => some .i32 | _ => none

/-- The field value of a vector source (R33). -/
def VSrc.code : VSrc → Nat
  | .v n => n.val | .s n => 192 + n.val
/-- The field value of X in WY (R31). -/
def xcode : Option SReg → Nat
  | none => 255 | some s => s.val
/-- IMM16 of a bit field (R36). -/
def BitField.code (f : BitField) : Nat := f.pos.val + 64 * f.wid.val
/-- Condition codes (R36). -/
def Cond.code : Cond → Nat
  | .eq => 0 | .ne => 1 | .lt => 2 | .le => 3 | .gt => 4 | .ge => 5 | .ord => 6 | .unord => 7
/-- Rounding codes (R36). -/
def Round.code : Round → Nat
  | .rn => 0 | .rz => 1 | .rm => 2 | .rp => 3 | .rna => 4
/-- Variant codes (R36). -/
def FmaVar.code : FmaVar → Nat
  | .plain => 0 | .fms => 1 | .fnma => 2 | .fnms => 3
/-- Reduction codes (R36). -/
def RedOp.code : RedOp → Nat
  | .add => 0 | .minI => 1 | .maxI => 2 | .minN => 3 | .maxN => 4 | .and => 5 | .or => 6 | .xor => 7 | .fadd => 8
  | .fmin => 9 | .fmax => 10
/-- Codes of `shfl` by a number (R170). -/
def ShflKind.code : ShflKind → Nat
  | .up => 1 | .down => 2 | .xor => 3
/-- Fence kind codes (R327). -/
def FenceKind.code : FenceKind → Nat
  | .acq => 1 | .rel => 2 | .full => 3
/-- Scope codes (R32). -/
def Scope.code : Scope → Nat
  | .gang => 0 | .crew => 1 | .span => 2 | .stack => 3 | .dev => 4 | .sys => 5
/-- Semantics codes (R32). -/
def Sem.code : Sem → Nat
  | .plain => 0 | .acq => 1 | .rel => 2 | .acqRel => 3
/-- W codes (R32). -/
def Width.code : Width → Nat
  | .b8 => 0 | .b16 => 1 | .b32 => 2 | .b64 => 3 | .i8 => 4 | .i16 => 5 | .b128 => 6
/-- Type codes of `cvt` (R37, R141). -/
def CvtType.code : CvtType → Nat
  | .f32 => 1 | .bf16 => 2 | .f16 => 3 | .f8e4 => 4 | .f8e5 => 5 | .i8 => 8 | .i16 => 9 | .i32 => 10
/-- Register number of a data register. -/
def DataReg.num : DataReg → Nat
  | .v n => n.val | .s n => n.val
/-- DS of a data register (R32). -/
def DataReg.ds : DataReg → Nat
  | .v _ => 0 | .s _ => 1
/-- Register number of an offset register. -/
def OffReg.num : OffReg → Nat
  | .v n => n.val | .s n => n.val
/-- OS of an offset register (R32). -/
def OffReg.os : OffReg → Nat
  | .v _ => 0 | .s _ => 1
/-- Data register from DS and D (R32, R39). -/
def dataReg? (ds d : Nat) : Option DataReg :=
  if ds = 0 then (vreg? d).map .v else (sreg? d).map .s
/-- Offset register from OS and O (R32, R39). -/
def offReg? (os o : Nat) : Option OffReg :=
  if os = 0 then (vreg? o).map .v else (sreg? o).map .s

/-- The stall count of a word. -/
def stall (w : Nat) : Stall := ⟨fS w, Nat.mod_lt _ (by decide)⟩

/-- The operands of a WM word and its extension word (R31, R32). -/
def memOp? (w e : Nat) : Option MemOp := do
  let data ← dataReg? (e / 0x2000000 % 2) (fD w)
  let off ← offReg? (e / 0x1000000 % 2) (fA w)
  let t ← treg? (fT w)
  let wd ← width? (fW w)
  let h ← sreg? (e / 0x4000000 % 64)
  let av ← bool? (e / 0x800000 % 2)
  let at' ← treg? (e / 0x80000 % 16)
  let sc ← scope? (e / 0x10000 % 8)
  let sem ← sem? (e / 0x4000 % 4)
  some ⟨data, off, t, wd, h, av, at', sc, sem, BitVec.ofNat 14 (e % 0x4000)⟩

/-- The two words of a WM instruction (R31, R32). -/
def encMem (st : Stall) (op : Nat) (m : MemOp) : List Nat :=
  [wo st.val op m.data.num m.off.num m.t.val m.w.code,
   wme m.h.val m.data.ds m.off.os m.after.toNat m.afterT.val m.sc.code m.sem.code m.imm.toNat]

/-- The words of class CTL (class 0) (R37). `w` is the word, `e` the word after it. -/
def parseCtl (w e : Nat) : Option Instr :=
  match fOP w with
  | 0 => do guard (fD w = 0); guard (fA w = 0); guard (fB w = 0); some (.nop (stall w))
  | 1 => do let off ← some (BitVec.ofNat 16 (fOFF w)); guard (fP w = 0); let prio ← fin? 32 (fPRIO w); some (.bra (stall w) off prio)
  | 2 => do let off ← some (BitVec.ofNat 16 (fOFF w)); let p ← preg? (fP w); let prio ← fin? 32 (fPRIO w); some (.bp (stall w) p off prio)
  | 3 => do let off ← some (BitVec.ofNat 16 (fOFF w)); let p ← preg? (fP w); let prio ← fin? 32 (fPRIO w); some (.bpz (stall w) p off prio)
  | 4 => do let off ← some (BitVec.ofNat 16 (fOFF w)); let p ← preg? (fP w); let prio ← fin? 32 (fPRIO w); some (.ball (stall w) p off prio)
  | 5 => do let off ← some (BitVec.ofNat 16 (fOFF w)); let p ← preg? (fP w); let prio ← fin? 32 (fPRIO w); some (.bany (stall w) p off prio)
  | 6 => do let off ← some (BitVec.ofNat 16 (fOFF w)); guard (fP w = 0); let prio ← fin? 32 (fPRIO w); some (.call (stall w) off prio)
  | 7 => do guard (fD w = 0); guard (fA w = 0); guard (fB w = 0); some (.ret (stall w))
  | 8 => do guard (fD w = 0); let a ← sreg? (fA w); guard (fB w = 0); some (.jmp (stall w) a)
  | 9 => do guard (fD w = 0); let a ← vreg? (fA w); guard (fB w = 0); some (.jmpv (stall w) a)
  | 10 => do guard (fD w = 0); guard (fA w = 0); guard (fB w = 0); some (.exit (stall w))
  | 11 => do guard (fD w = 0); guard (fA w = 0); let n ← fin? 32 (fB w); some (.setprio (stall w) n)
  | 12 => do guard (fD w = 0); guard (fA w = 0); let n ← fin? 128 (fB w); some (.trap (stall w) n)
  | 13 => do guard (fD w = 0); guard (fA w = 0); guard (fB w = 0); some (.rett (stall w))
  | 14 => do guard (fD w = 0); guard (fA w = 0); let n ← some (BitVec.ofNat 8 (fB w)); some (.brk (stall w) n)
  | 15 => do let x ← xreg? (fD w); let m ← some (BitVec.ofNat 16 (fTM w)); some (.yieldAll (stall w) x m)
  | 16 => do let x ← xreg? (fD w); let m ← some (BitVec.ofNat 16 (fTM w)); some (.yieldAny (stall w) x m)
  | 17 => do let x ← xreg? (fD w); let m ← some (BitVec.ofNat 16 (fTM w)); some (.yieldAt (stall w) x m)
  | 18 => do guard (fD w = 0); guard (fA w = 0); let n ← fin? 13 (fB w); some (.live (stall w) n)
  | 19 => do let off ← some (BitVec.ofNat 16 (fOFF w)); let p ← preg? (fP w); let prio ← fin? 32 (fPRIO w); some (.fork (stall w) p off prio)
  | 20 => do let off ← some (BitVec.ofNat 16 (fOFF w)); guard (fP w = 0); let prio ← fin? 32 (fPRIO w); let t ← treg? (eT e); guard (eDELTA e = 0); some (.bts (stall w) t off prio)
  | 21 => do let off ← some (BitVec.ofNat 16 (fOFF w)); guard (fP w = 0); let prio ← fin? 32 (fPRIO w); let t ← treg? (eT e); guard (eDELTA e = 0); some (.btb (stall w) t off prio)
  | 22 => do let off ← some (BitVec.ofNat 16 (fOFF w)); guard (fP w = 0); let prio ← fin? 32 (fPRIO w); let t ← treg? (eT e); guard (eDELTA e = 0); some (.bth (stall w) t off prio)
  | 23 => do let off ← some (BitVec.ofNat 16 (fOFF w)); guard (fP w = 0); let prio ← fin? 32 (fPRIO w); let t ← treg? (eT e); let delta ← some (BitVec.ofNat 28 (eDELTA e)); some (.btl (stall w) t delta off prio)
  | _ => none

/-- The words of class UNI (class 1) (R37). `w` is the word, `e` the word after it. -/
def parseUni (w e : Nat) : Option Instr :=
  match fOP w with
  | 0 => do let d ← sreg? (fD w); let a ← sreg? (fA w); guard (fB w = 0); some (.smov (stall w) d a)
  | 1 => do let d ← sreg? (fD w); guard (fA w = 0); guard (fB w = 0); let imm ← some (BitVec.ofNat 32 e); some (.sli (stall w) d imm)
  | 2 => do let d ← sreg? (fD w); guard (fA w = 0); guard (fB w = 0); let imm ← some (BitVec.ofNat 32 e); some (.slih (stall w) d imm)
  | 3 => do let d ← sreg? (fD w); let a ← sreg? (fA w); let b ← sreg? (fB w); some (.sadd (stall w) d a b)
  | 4 => do let d ← sreg? (fD w); let a ← sreg? (fA w); let b ← sreg? (fB w); some (.ssub (stall w) d a b)
  | 5 => do let d ← sreg? (fD w); let a ← sreg? (fA w); let imm ← some (BitVec.ofNat 8 (fB w)); some (.saddi (stall w) d a imm)
  | 6 => do let d ← sreg? (fD w); let a ← sreg? (fA w); let b ← sreg? (fB w); some (.smul (stall w) d a b)
  | 7 => do let d ← sreg? (fD w); let a ← sreg? (fA w); let b ← sreg? (fB w); some (.smulhI (stall w) d a b)
  | 8 => do let d ← sreg? (fD w); let a ← sreg? (fA w); let b ← sreg? (fB w); some (.smulhN (stall w) d a b)
  | 9 => do let d ← sreg? (fD w); let a ← sreg? (fA w); let b ← sreg? (fB w); some (.sand (stall w) d a b)
  | 10 => do let d ← sreg? (fD w); let a ← sreg? (fA w); let b ← sreg? (fB w); some (.sor (stall w) d a b)
  | 11 => do let d ← sreg? (fD w); let a ← sreg? (fA w); let b ← sreg? (fB w); some (.sxor (stall w) d a b)
  | 12 => do let d ← sreg? (fD w); let a ← sreg? (fA w); guard (fB w = 0); some (.snot (stall w) d a)
  | 13 => do let d ← sreg? (fD w); let a ← sreg? (fA w); let b ← sreg? (fB w); some (.sshl (stall w) d a b)
  | 14 => do let d ← sreg? (fD w); let a ← sreg? (fA w); let b ← sreg? (fB w); some (.sshr (stall w) d a b)
  | 15 => do let d ← sreg? (fD w); let a ← sreg? (fA w); let b ← sreg? (fB w); some (.ssra (stall w) d a b)
  | 16 => do let d ← sreg? (fD w); let a ← sreg? (fA w); let b ← sreg? (fB w); some (.sminI (stall w) d a b)
  | 17 => do let d ← sreg? (fD w); let a ← sreg? (fA w); let b ← sreg? (fB w); some (.sminN (stall w) d a b)
  | 18 => do let d ← sreg? (fD w); let a ← sreg? (fA w); let b ← sreg? (fB w); some (.smaxI (stall w) d a b)
  | 19 => do let d ← sreg? (fD w); let a ← sreg? (fA w); let b ← sreg? (fB w); some (.smaxN (stall w) d a b)
  | 20 => do let d ← sreg? (fD w); let a ← sreg? (fA w); guard (fB w = 0); some (.sclz (stall w) d a)
  | 21 => do let d ← sreg? (fD w); let a ← sreg? (fA w); guard (fB w = 0); some (.spop (stall w) d a)
  | 22 => do let d ← sreg? (fD w); let a ← sreg? (fA w); guard (fB w = 0); guard (eC e = 0); let sg ← bool? (eMOD e); let f ← bitField? (eIMM e); some (.sbfx (stall w) d a sg f)
  | 23 => do let d ← sreg? (fD w); let a ← sreg? (fA w); guard (fB w = 0); guard (eC e = 0); guard (eMOD e = 0); let f ← bitField? (eIMM e); some (.sbfi (stall w) d a f)
  | 24 => do let d ← sreg? (fD w); let a ← sreg? (fA w); let b ← sreg? (fB w); guard (eC e = 0); let cc ← cond? (eMOD e / 1 % 8); let sg ← bool? (eMOD e / 8 % 32); guard (eIMM e = 0); some (.scmp (stall w) d a b cc sg)
  | 25 => do let d ← sreg? (fD w); let a ← sreg? (fA w); let b ← sreg? (fB w); let c ← sreg? (eC e); guard (eMOD e = 0); guard (eIMM e = 0); some (.ssel (stall w) d a b c)
  | 26 => do let d ← sreg? (fD w); guard (fA w = 0); let n ← fin? 11 (fB w); some (.sreg (stall w) d n)
  | _ => none

/-- The words of class VEC (class 2) (R37). `w` is the word, `e` the word after it. -/
def parseVec (w e : Nat) : Option Instr :=
  match fOP w with
  | 0 => do let d ← vreg? (fD w); let a ← vsrc? (fA w); guard (fB w = 0); some (.vmov (stall w) d a)
  | 1 => do let d ← vreg? (fD w); guard (fA w = 0); guard (fB w = 0); let imm ← some (BitVec.ofNat 32 e); some (.vli (stall w) d imm)
  | 2 => do let d ← vreg? (fD w); let a ← vsrc? (fA w); let b ← vsrc? (fB w); some (.vadd (stall w) d a b)
  | 3 => do let d ← vreg? (fD w); let a ← vsrc? (fA w); let b ← vsrc? (fB w); some (.vsub (stall w) d a b)
  | 4 => do let d ← vreg? (fD w); let a ← vsrc? (fA w); let imm ← some (BitVec.ofNat 8 (fB w)); some (.vaddi (stall w) d a imm)
  | 5 => do let d ← vreg? (fD w); let a ← vsrc? (fA w); let b ← vsrc? (fB w); some (.vmul (stall w) d a b)
  | 6 => do let d ← vreg? (fD w); let a ← vsrc? (fA w); let b ← vsrc? (fB w); some (.vmulhI (stall w) d a b)
  | 7 => do let d ← vreg? (fD w); let a ← vsrc? (fA w); let b ← vsrc? (fB w); some (.vmulhN (stall w) d a b)
  | 8 => do let d ← vreg? (fD w); let a ← vsrc? (fA w); let b ← vsrc? (fB w); let c ← vsrc? (eC e); guard (eMOD e = 0); guard (eIMM e = 0); some (.vmad (stall w) d a b c)
  | 9 => do let d ← vreg? (fD w); let a ← vsrc? (fA w); let b ← vsrc? (fB w); some (.vand (stall w) d a b)
  | 10 => do let d ← vreg? (fD w); let a ← vsrc? (fA w); let b ← vsrc? (fB w); some (.vor (stall w) d a b)
  | 11 => do let d ← vreg? (fD w); let a ← vsrc? (fA w); let b ← vsrc? (fB w); some (.vxor (stall w) d a b)
  | 12 => do let d ← vreg? (fD w); let a ← vsrc? (fA w); guard (fB w = 0); some (.vnot (stall w) d a)
  | 13 => do let d ← vreg? (fD w); let a ← vsrc? (fA w); let b ← vsrc? (fB w); some (.vshl (stall w) d a b)
  | 14 => do let d ← vreg? (fD w); let a ← vsrc? (fA w); let b ← vsrc? (fB w); some (.vshr (stall w) d a b)
  | 15 => do let d ← vreg? (fD w); let a ← vsrc? (fA w); let b ← vsrc? (fB w); some (.vsra (stall w) d a b)
  | 16 => do let d ← vreg? (fD w); let a ← vsrc? (fA w); let b ← vsrc? (fB w); guard (eC e = 0); let sg ← bool? (eMOD e); guard (eIMM e = 0); some (.vmin (stall w) d a b sg)
  | 17 => do let d ← vreg? (fD w); let a ← vsrc? (fA w); let b ← vsrc? (fB w); guard (eC e = 0); let sg ← bool? (eMOD e); guard (eIMM e = 0); some (.vmax (stall w) d a b sg)
  | 18 => do let d ← vreg? (fD w); let a ← vsrc? (fA w); guard (fB w = 0); some (.vabs (stall w) d a)
  | 19 => do let d ← vreg? (fD w); let a ← vsrc? (fA w); guard (fB w = 0); some (.vclz (stall w) d a)
  | 20 => do let d ← vreg? (fD w); let a ← vsrc? (fA w); guard (fB w = 0); some (.vpop (stall w) d a)
  | 21 => do let d ← vreg? (fD w); let a ← vsrc? (fA w); guard (fB w = 0); guard (eC e = 0); let sg ← bool? (eMOD e); let f ← bitField? (eIMM e); some (.vbfx (stall w) d a sg f)
  | 22 => do let d ← vreg? (fD w); let a ← vsrc? (fA w); guard (fB w = 0); guard (eC e = 0); guard (eMOD e = 0); let f ← bitField? (eIMM e); some (.vbfi (stall w) d a f)
  | 23 => do let d ← preg? (fD w); let a ← vsrc? (fA w); let b ← vsrc? (fB w); guard (eC e = 0); let cc ← cond? (eMOD e / 1 % 8); let sg ← bool? (eMOD e / 8 % 32); guard (eIMM e = 0); some (.vcmp (stall w) d a b cc sg)
  | 24 => do let d ← vreg? (fD w); let a ← vsrc? (fA w); let b ← vsrc? (fB w); guard (eC e = 0); let p ← preg? (eMOD e); guard (eIMM e = 0); some (.vsel (stall w) d a b p)
  | 25 => do let d ← vreg? (fD w); let a ← vsrc? (fA w); let b ← vsrc? (fB w); some (.fadd (stall w) d a b)
  | 26 => do let d ← vreg? (fD w); let a ← vsrc? (fA w); let b ← vsrc? (fB w); some (.fsub (stall w) d a b)
  | 27 => do let d ← vreg? (fD w); let a ← vsrc? (fA w); let b ← vsrc? (fB w); some (.fmul (stall w) d a b)
  | 28 => do let d ← vreg? (fD w); let a ← vsrc? (fA w); let b ← vsrc? (fB w); let c ← vsrc? (eC e); let fv ← fmaVar? (eMOD e); guard (eIMM e = 0); some (.ffma (stall w) d a b c fv)
  | 29 => do let d ← vreg? (fD w); let a ← vsrc? (fA w); let b ← vsrc? (fB w); some (.fmin (stall w) d a b)
  | 30 => do let d ← vreg? (fD w); let a ← vsrc? (fA w); let b ← vsrc? (fB w); some (.fmax (stall w) d a b)
  | 31 => do let d ← vreg? (fD w); let a ← vsrc? (fA w); guard (fB w = 0); some (.fabs (stall w) d a)
  | 32 => do let d ← vreg? (fD w); let a ← vsrc? (fA w); guard (fB w = 0); some (.fneg (stall w) d a)
  | 33 => do let d ← preg? (fD w); let a ← vsrc? (fA w); let b ← vsrc? (fB w); guard (eC e = 0); let cc ← cond? (eMOD e); guard (eIMM e = 0); some (.fcmp (stall w) d a b cc)
  | 34 => do let d ← vreg? (fD w); let a ← vsrc? (fA w); guard (fB w = 0); some (.frcp (stall w) d a)
  | 35 => do let d ← vreg? (fD w); let a ← vsrc? (fA w); guard (fB w = 0); some (.frsq (stall w) d a)
  | 36 => do let d ← vreg? (fD w); let a ← vsrc? (fA w); guard (fB w = 0); some (.fsqrt (stall w) d a)
  | 37 => do let d ← vreg? (fD w); let a ← vsrc? (fA w); guard (fB w = 0); some (.fex2 (stall w) d a)
  | 38 => do let d ← vreg? (fD w); let a ← vsrc? (fA w); guard (fB w = 0); some (.flg2 (stall w) d a)
  | 39 => do let d ← vreg? (fD w); let a ← vsrc? (fA w); guard (fB w = 0); some (.fsin (stall w) d a)
  | 40 => do let d ← vreg? (fD w); let a ← vsrc? (fA w); guard (fB w = 0); some (.fcos (stall w) d a)
  | 41 => do let d ← vreg? (fD w); let a ← vsrc? (fA w); guard (fB w = 0); guard (eC e = 0); let rm ← round? (eMOD e); guard (eIMM e = 0); some (.frnd (stall w) d a rm)
  | 42 => do let d ← vreg? (fD w); let a ← vsrc? (fA w); guard (fB w = 0); some (.fclass (stall w) d a)
  | 43 => do let d ← vreg? (fD w); let a ← vsrc? (fA w); guard (fB w = 0); guard (eC e = 0); let rm ← round? (eMOD e / 1 % 8); let sat ← bool? (eMOD e / 8 % 32); let dst ← cvtType? (eIMM e / 1 % 256); let src ← cvtType? (eIMM e / 256 % 256); some (.cvt (stall w) d a rm sat dst src)
  | 44 => do let d ← vreg? (fD w); let a ← vsrc? (fA w); let b ← vsrc? (fB w); some (.haddBf (stall w) d a b)
  | 45 => do let d ← vreg? (fD w); let a ← vsrc? (fA w); let b ← vsrc? (fB w); some (.hmulBf (stall w) d a b)
  | 46 => do let d ← vreg? (fD w); let a ← vsrc? (fA w); let b ← vsrc? (fB w); let c ← vsrc? (eC e); let fv ← fmaVar? (eMOD e); guard (eIMM e = 0); some (.hfmaBf (stall w) d a b c fv)
  | 47 => do let d ← vreg? (fD w); let a ← vsrc? (fA w); let b ← vsrc? (fB w); some (.haddH (stall w) d a b)
  | 48 => do let d ← vreg? (fD w); let a ← vsrc? (fA w); let b ← vsrc? (fB w); some (.hmulH (stall w) d a b)
  | 49 => do let d ← vreg? (fD w); let a ← vsrc? (fA w); let b ← vsrc? (fB w); let c ← vsrc? (eC e); let fv ← fmaVar? (eMOD e); guard (eIMM e = 0); some (.hfmaH (stall w) d a b c fv)
  | 50 => (do let d ← vreg? (fD w); let a ← vsrc? (fA w); let b ← vsrc? (fB w); guard (eC e = 0); guard (eMOD e = 0); guard (eIMM e = 0); some (.shflIdx (stall w) d a b)) <|> (do let d ← vreg? (fD w); let a ← vsrc? (fA w); guard (fB w = 0); guard (eC e = 0); let k ← shflKind? (eMOD e); let n ← fin? 32 (eIMM e); some (.shflN (stall w) d a k n))
  | 51 => do let d ← vreg? (fD w); let a ← vsrc? (fA w); let b ← bsreg? (fB w); some (.bcast (stall w) d a b)
  | 52 => do let d ← preg? (fD w); let a ← vsrc? (fA w); guard (fB w = 0); some (.vote (stall w) d a)
  | 53 => do let d ← vreg? (fD w); let a ← vsrc? (fA w); guard (fB w = 0); guard (eC e = 0); let op ← redOp? (eMOD e); guard (eIMM e = 0); some (.vred (stall w) d a op)
  | 54 => do let d ← vreg? (fD w); let a ← vsrc? (fA w); guard (fB w = 0); guard (eC e = 0); let op ← redOp? (eMOD e / 1 % 16); let ex ← bool? (eMOD e / 16 % 16); guard (eIMM e = 0); some (.vscan (stall w) d a op ex)
  | 55 => do let d ← vreg? (fD w); guard (fA w = 0); guard (fB w = 0); some (.vlane (stall w) d)
  | 56 => do let d ← preg? (fD w); let a ← preg? (fA w); let b ← preg? (fB w); some (.pand (stall w) d a b)
  | 57 => do let d ← preg? (fD w); let a ← preg? (fA w); let b ← preg? (fB w); some (.por (stall w) d a b)
  | 58 => do let d ← preg? (fD w); let a ← preg? (fA w); let b ← preg? (fB w); some (.pxor (stall w) d a b)
  | 59 => do let d ← preg? (fD w); let a ← preg? (fA w); guard (fB w = 0); some (.pnot (stall w) d a)
  | 60 => do let d ← preg? (fD w); let a ← bsreg? (fA w); guard (fB w = 0); some (.pmov (stall w) d a)
  | 61 => do let d ← vreg? (fD w); let a ← preg? (fA w); guard (fB w = 0); some (.pget (stall w) d a)
  | _ => none

/-- The words of class MEM (class 3) (R37). `w` is the word, `e` the word after it. -/
def parseMem (w e : Nat) : Option Instr :=
  match fOP w with
  | 0 => do let m ← memOp? w e; some (.ld (stall w) m)
  | 1 => do let m ← memOp? w e; some (.st (stall w) m)
  | 2 => do let m ← memOp? w e; some (.atomAdd (stall w) m)
  | 3 => do let m ← memOp? w e; some (.atomMin (stall w) m)
  | 4 => do let m ← memOp? w e; some (.atomMax (stall w) m)
  | 5 => do let m ← memOp? w e; some (.atomAnd (stall w) m)
  | 6 => do let m ← memOp? w e; some (.atomOr (stall w) m)
  | 7 => do let m ← memOp? w e; some (.atomXor (stall w) m)
  | 8 => do let m ← memOp? w e; some (.atomXchg (stall w) m)
  | 9 => do let m ← memOp? w e; some (.atomCas (stall w) m)
  | 10 => do let m ← memOp? w e; some (.atomInc (stall w) m)
  | 11 => do let m ← memOp? w e; some (.atomFadd (stall w) m)
  | 12 => do let m ← memOp? w e; some (.redAdd (stall w) m)
  | 13 => do let m ← memOp? w e; some (.redMin (stall w) m)
  | 14 => do let m ← memOp? w e; some (.redMax (stall w) m)
  | 15 => do let m ← memOp? w e; some (.redFadd (stall w) m)
  | 16 => do let m ← memOp? w e; some (.pf (stall w) m)
  | 17 => do let m ← memOp? w e; some (.bchk (stall w) m)
  | 18 => do let m ← memOp? w e; some (.bmeta (stall w) m)
  | 19 => do let m ← memOp? w e; some (.lds (stall w) m)
  | 20 => do let m ← memOp? w e; some (.sts (stall w) m)
  | 21 => do let m ← memOp? w e; some (.atomsAdd (stall w) m)
  | 22 => do let m ← memOp? w e; some (.atomsCas (stall w) m)
  | 23 => do let d ← sreg? (fD w); let a ← sreg? (fA w); let b ← sreg? (fB w); guard (eC e = 0); guard (eMOD e = 0); let pw ← planeWidth? (eIMM e); some (.plpack (stall w) d a b pw)
  | 24 => do let d ← sreg? (fD w); let a ← sreg? (fA w); let b ← sreg? (fB w); guard (eC e = 0); guard (eMOD e = 0); let pw ← planeWidth? (eIMM e); some (.plunpack (stall w) d a b pw)
  | 25 => do guard (fD w = 0); let a ← sreg? (fA w); let t ← treg? (fT w); guard (fW w = 0); some (.l1cfg (stall w) a t)
  | 26 => do guard (fD w = 0); let a ← sreg? (fA w); let t ← treg? (fT w); guard (fW w = 0); let sc ← scope? (e / 1 % 8); let rel ← bool? (e / 8 % 536870912); some (.copy (stall w) a t sc rel)
  | 27 => do let d ← sreg? (fD w); let a ← sreg? (fA w); guard (fT w = 0); guard (fW w = 0); some (.cwp (stall w) d a)
  | 28 => do guard (fD w = 0); guard (fA w = 0); let sc ← scope? (fB w / 1 % 8); let k ← fenceKind? (fB w / 8 % 32); some (.fence (stall w) sc k)
  | 29 => do let m ← memOp? w e; some (.watch (stall w) m)
  | _ => none

/-- The words of class MTX (class 4) (R37). `w` is the word, `e` the word after it. -/
def parseMtx (w e : Nat) : Option Instr :=
  match fOP w with
  | 0 => do guard (fD w = 0); let a ← sreg? (fA w); let t ← treg? (fT w); guard (fW w = 0); let l ← fin? 4 (e / 1 % 4); let f ← fin? 8 (e / 4 % 1073741824); some (.mldA (stall w) a t l f)
  | 1 => do guard (fD w = 0); let a ← sreg? (fA w); let t ← treg? (fT w); guard (fW w = 0); let l ← fin? 4 (e / 1 % 4); let f ← fin? 8 (e / 4 % 8); let sm ← bool? (e / 32 % 134217728); some (.mldB (stall w) a t l f sm)
  | 2 => do guard (fD w = 0); let a ← sreg? (fA w); let t ← treg? (fT w); guard (fW w = 0); some (.mma (stall w) a t)
  | 3 => do guard (fD w = 0); let a ← sreg? (fA w); let t ← treg? (fT w); guard (fW w = 0); let f ← fin? 8 e; some (.mdrain (stall w) a t f)
  | 4 => do guard (fD w = 0); guard (fA w = 0); let t ← treg? (fT w); guard (fW w = 0); some (.mzero (stall w) t)
  | 5 => do let d ← sreg? (fD w); guard (fA w = 0); let n ← fin? 5 (fB w); some (.mstat (stall w) d n)
  | 6 => do guard (fD w = 0); let a ← sreg? (fA w); guard (fT w = 0); let l ← fin? 4 (fW w); some (.lrec (stall w) a l)
  | 7 => (do let d ← sreg? (fD w); guard (fA w = 0); guard (fB w = 0); some (.lconf (stall w) d)) <|> (do let d ← sreg? (fD w); guard (fA w = 0); guard (fB w = 1); some (.lconfClr (stall w) d))
  | 8 => (do let d ← vreg? (fD w); let a ← vsrc? (fA w); let b ← vsrc? (fB w); guard (eC e = 0); let f ← fin? 8 (eMOD e); guard (eIMM e = 0); some (.qnt (stall w) d a b f)) <|> (do let d ← vreg? (fD w); let a ← vsrc? (fA w); guard (fB w = 0); let c ← vreg? (eC e); let f ← fin? 8 (eMOD e / 1 % 8); guard (eMOD e / 8 % 32 = 1); guard (eIMM e = 0); some (.qntScale (stall w) d a c f))
  | 9 => do let d ← vreg? (fD w); let a ← vsrc? (fA w); let b ← vsrc? (fB w); guard (eC e = 0); let f ← fin? 8 (eMOD e); guard (eIMM e = 0); some (.dqnt (stall w) d a b f)
  | 10 => do let d ← vreg? (fD w); let a ← vsrc? (fA w); guard (fB w = 0); guard (eC e = 0); let f ← fin? 8 (eMOD e); guard (eIMM e = 0); some (.bscale (stall w) d a f)
  | 11 => do let d ← sreg? (fD w); guard (fA w = 0); let f ← fin? 8 (fB w / 1 % 8); let h ← bool? (fB w / 8 % 32); some (.fslot (stall w) d f h)
  | 12 => do let d ← vreg? (fD w); let a ← vsrc? (fA w); guard (fB w = 0); guard (eC e = 0); guard (eMOD e = 0); let pw ← planeWidth? (eIMM e); some (.tcount (stall w) d a pw)
  | _ => none

/-- The words of class SYN (class 5) (R37). `w` is the word, `e` the word after it. -/
def parseSyn (w e : Nat) : Option Instr :=
  match fOP w with
  | 0 => do let d ← sreg? (fD w); guard (fA w = 0); guard (fB w = 0); some (.tnow (stall w) d)
  | 1 => do let d ← sreg? (fD w); let a ← treg? (fA w); guard (fB w = 0); some (.tget (stall w) d a)
  | 2 => do let d ← treg? (fD w); let a ← sreg? (fA w); guard (fB w = 0); some (.tset (stall w) d a)
  | 3 => do let d ← treg? (fD w); let a ← treg? (fA w); let b ← treg? (fB w); some (.tmin (stall w) d a b)
  | 4 => do let d ← treg? (fD w); let a ← treg? (fA w); let b ← treg? (fB w); some (.tmax (stall w) d a b)
  | 5 => do let d ← treg? (fD w); let a ← treg? (fA w); let b ← sreg? (fB w); guard (eC e = 0); guard (eMOD e = 0); let n ← some (BitVec.ofNat 16 (eIMM e)); some (.tadd (stall w) d a b n)
  | 6 => do let d ← sreg? (fD w); let a ← treg? (fA w); let b ← treg? (fB w); guard (eC e = 0); guard (eMOD e = 0); guard (eIMM e = 0); some (.tsort (stall w) d a b)
  | 7 => do let d ← treg? (fD w); guard (fA w = 0); let l ← treg? (fB w); some (.tclr (stall w) d l)
  | 8 => do let d ← sreg? (fD w); guard (fA w = 0); guard (fB w = 0); some (.trep (stall w) d)
  | 9 => do let d ← breg? (fD w); let a ← sreg? (fA w); guard (fT w = 0); guard (fW w = 0); let n ← fin1? 32 e; some (.barInit (stall w) d a n)
  | 10 => do let d ← breg? (fD w); guard (fA w = 0); guard (fT w = 0); guard (fW w = 0); some (.barArrive (stall w) d)
  | 11 => do let d ← breg? (fD w); guard (fA w = 0); guard (fT w = 0); guard (fW w = 0); some (.barWait (stall w) d)
  | 12 => do let d ← breg? (fD w); guard (fA w = 0); guard (fT w = 0); guard (fW w = 0); let off ← words30? e; some (.barThen (stall w) d off)
  | 13 => do let d ← breg? (fD w); let a ← sreg? (fA w); guard (fT w = 0); guard (fW w = 0); some (.barBytes (stall w) d a)
  | 14 => do let d ← sreg? (fD w); let a ← breg? (fA w); guard (fT w = 0); guard (fW w = 0); some (.barPhase (stall w) d a)
  | 15 => do let d ← sreg? (fD w); let a ← sreg? (fA w); guard (fT w = 0); guard (fW w = 0); let n ← fin1? 64 (e / 1 % 128); let strict ← bool? (e / 128 % 2); let size ← some (BitVec.ofNat 24 (e / 256 % 16777216)); some (.ringInit (stall w) d a n strict size)
  | 16 => do guard (fD w = 0); let a ← sreg? (fA w); guard (fT w = 0); guard (fW w = 0); some (.ringFill (stall w) a)
  | 17 => do let d ← sreg? (fD w); let a ← sreg? (fA w); guard (fT w = 0); guard (fW w = 0); some (.ringAwait (stall w) d a)
  | 18 => do guard (fD w = 0); let a ← sreg? (fA w); guard (fT w = 0); guard (fW w = 0); some (.ringRelease (stall w) a)
  | 19 => do let d ← sreg? (fD w); let a ← sreg? (fA w); guard (fT w = 0); guard (fW w = 0); some (.ringState (stall w) d a)
  | 20 => do guard (fD w = 0); guard (fA w = 0); guard (fT w = 0); guard (fW w = 0); let n ← some (BitVec.ofNat 32 e); some (.mwait (stall w) n)
  | 21 => (do guard (fD w = 0); let a ← sreg? (fA w); guard (fT w = 0); guard (fW w = 1); some (.qbindPin (stall w) a)) <|> (do guard (fD w = 0); let a ← sreg? (fA w); guard (fT w = 0); guard (fW w = 0); some (.qbind (stall w) a))
  | 22 => do let d ← vreg? (fD w); let a ← sreg? (fA w); let t ← treg? (fT w); guard (fW w = 0); some (.qpush (stall w) d a t)
  | 23 => do let d ← vreg? (fD w); let a ← sreg? (fA w); let t ← treg? (fT w); guard (fW w = 0); some (.qpop (stall w) d a t)
  | 24 => do let d ← vreg? (fD w); let a ← sreg? (fA w); let t ← treg? (fT w); guard (fW w = 0); some (.qpeek (stall w) d a t)
  | 25 => do let d ← sreg? (fD w); let a ← sreg? (fA w); guard (fT w = 0); guard (fW w = 0); some (.qlen (stall w) d a)
  | 26 => do let d ← sreg? (fD w); guard (fA w = 0); guard (fB w = 0); some (.bgt (stall w) d)
  | 27 => do let d ← sreg? (fD w); guard (fA w = 0); guard (fB w = 0); some (.dline (stall w) d)
  | 28 => do let d ← sreg? (fD w); guard (fA w = 0); guard (fB w = 0); some (.ergr (stall w) d)
  | 29 => do let d ← sreg? (fD w); guard (fA w = 0); let k ← evreg? (fB w); some (.ctrr (stall w) d k)
  | 30 => (do let d ← evreg? (fD w); let a ← sreg? (fA w); let b ← sreg? (fB w); guard (eC e = 0); guard (eMOD e = 0); guard (eIMM e = 0); some (.ctrcSet (stall w) d a b)) <|> (do let d ← evreg? (fD w); guard (fA w = 0); guard (fB w = 0); guard (eC e = 0); guard (eMOD e = 1); guard (eIMM e = 0); some (.ctrcClr (stall w) d)) <|> (do let d ← evreg? (fD w); guard (fA w = 0); guard (fB w = 0); guard (eC e = 0); guard (eMOD e = 2); guard (eIMM e = 0); some (.ctrcStop (stall w) d)) <|> (do let d ← evreg? (fD w); guard (fA w = 0); guard (fB w = 0); guard (eC e = 0); guard (eMOD e = 3); guard (eIMM e = 0); some (.ctrcStart (stall w) d))
  | 31 => do guard (fD w = 0); let a ← sreg? (fA w); let n ← some (BitVec.ofNat 8 (fB w)); some (.smark (stall w) a n)
  | _ => none

/-- One word of a clause of class `c`, with the word after it (R31 to R39). -/
def parse (c : Cls) (w e : Nat) : Option Instr :=
  match c with
  | .ctl => parseCtl w e | .uni => parseUni w e | .vec => parseVec w e
  | .mem => parseMem w e | .mtx => parseMtx w e | .syn => parseSyn w e

/-- The instruction that a word of a clause of class `c` holds, with the word after it; nothing where the word raises
trap 0x01 by its encoding (R33, R36 to R39, R41). -/
def decode (c : Cls) (w e : Nat) : Option Instr :=
  (parse c w e).filter wellFormed

/-- The number of opcodes assigned in a class, from 0 up (R41). -/
def Cls.opcodes : Cls → Nat
  | .ctl => 24
  | .uni => 27
  | .vec => 62
  | .mem => 30
  | .mtx => 13
  | .syn => 32

/-- Whether opcode `op` of a class takes an extension word (R37). -/
def Cls.extended : Cls → Nat → Bool
  | .ctl, op => [20, 21, 22, 23].contains op
  | .uni, op => [1, 2, 22, 23, 24, 25].contains op
  | .vec, op => [1, 8, 16, 17, 21, 22, 23, 24, 28, 33, 41, 43, 46, 49, 50, 53, 54].contains op
  | .mem, op => [0, 1, 2, 3, 4, 5, 6, 7, 8, 9, 10, 11, 12, 13, 14, 15, 16, 17, 18, 19, 20, 21, 22, 23, 24, 26, 29].contains op
  | .mtx, op => [0, 1, 3, 8, 9, 10, 12].contains op
  | .syn, op => [5, 6, 9, 12, 15, 20, 30].contains op

/-- The CLASS field of a header (R19). -/
def cls? : Nat → Option Cls
  | 0 => some .ctl | 1 => some .uni | 2 => some .vec | 3 => some .mem | 4 => some .mtx | 5 => some .syn | _ => none

/-- The CLASS code (R19). -/
def Cls.code : Cls → Nat
  | .ctl => 0 | .uni => 1 | .vec => 2 | .mem => 3 | .mtx => 4 | .syn => 5

/-- The class of an instruction row; none for an event row. -/
def Instr.cls? : Instr → Option Cls
  | .powerOnReset => none
  | .fundamentalReset => none
  | .readyBitRise => none
  | .lifecycleChange => none
  | .bootcfgWrite => none
  | .attestationRequest => none
  | .attestationReportSigned => none
  | .mailboxDoorbellSet => none
  | .mailboxDoorbellClear => none
  | .hostMemoryAccess => none
  | .hostQueuePush => none
  | .peerRequest => none
  | .peerRefusal => none
  | .hostCompletion => none
  | .pathAllowanceOverrun => none
  | .fabricLinkReplay => none
  | .dieLinkReplay => none
  | .fabricLinkDown => none
  | .fabricLinkUp => none
  | .fabricLinkRetrainTimeout => none
  | .ptpEventTimestamp => none
  | .instructionFetchFill => none
  | .clauseHeader => none
  | .fairnessTimerExpiry => none
  | .recordWriteDone => none
  | .relaunch => none
  | .relaunchComplete => none
  | .wakeTimeReached => none
  | .mwaitTimeout => none
  | .detachedTimerSettle => none
  | .probePass => none
  | .requestLanding => none
  | .requestBreak => none
  | .heldResolution => none
  | .heldConvertClass3 => none
  | .stewardLaunchSubmit => none
  | .dispatchTake => none
  | .crewPlacement => none
  | .affinityFallback => none
  | .crewRetire => none
  | .partitionZeroDone => none
  | .l1cfgComplete => none
  | .channelTakeCommand => none
  | .copyRowLanding => none
  | .lapidaryOpStart => none
  | .lapidaryOpComplete => none
  | .storePerformed => none
  | .atomicPerformed => none
  | .l2VictimWriteback => none
  | .writeThroughPerform => none
  | .mscSectorFill => none
  | .hbmRefresh => none
  | .stackTempCrossing => none
  | .eccError => none
  | .scrub => none
  | .hbmDeadMark => none
  | .hbmDeadLoad => none
  | .queueUnitRequest => none
  | .queueRefillLanding => none
  | .queueSwapIn => none
  | .queueSwapInDone => none
  | .budgetExhausted => none
  | .ctxSwitchIn => none
  | .ctxSwitchOut => none
  | .contextBankExchange => none
  | .lapidaryRestore => none
  | .scratchpadSpill => none
  | .ctxKill => none
  | .ctxKillCrew => none
  | .ctxResumeGang => none
  | .ctxMigrateCrew => none
  | .ctxRaiseBudget => none
  | .ctxRevokeRecord => none
  | .ctxReinstateRecord => none
  | .revokeDone => none
  | .hangWatchdogExpiry => none
  | .spillWatchdogExpiry => none
  | .thermalThresholdCrossing => none
  | .migrationRefused => none
  | .migrationMoveBegin => none
  | .migrationRemap => none
  | .tokenPeriodBoundary => none
  | .arbiterRound => none
  | .throttle => none
  | .pwrStatLicWrite => none
  | .tokOffer => none
  | .tokenOfferReceived => none
  | .tokenAckReceived => none
  | .tokenRefuseReceived => none
  | .tokenCommitReceived => none
  | .clkStepArm => none
  | .frequencyStep => none
  | .frequencyHoldEnd => none
  | .timeAdjSlew => none
  | .timeAdjStep => none
  | .forwardStepApply => none
  | .brkcRead => none
  | .errcRead => none
  | .contStatRead => none
  | .contOvfRead => none
  | .trcCntRead => none
  | .registerWrite => none
  | .plpackLastWrite => none
  | .preloadDone => none
  | .spillDone => none
  | .sensorReadsBelowTherm => none
  | .nop .. => some .ctl
  | .bra .. => some .ctl
  | .bp .. => some .ctl
  | .bpz .. => some .ctl
  | .ball .. => some .ctl
  | .bany .. => some .ctl
  | .call .. => some .ctl
  | .ret .. => some .ctl
  | .jmp .. => some .ctl
  | .jmpv .. => some .ctl
  | .exit .. => some .ctl
  | .setprio .. => some .ctl
  | .trap .. => some .ctl
  | .rett .. => some .ctl
  | .brk .. => some .ctl
  | .yieldAll .. => some .ctl
  | .yieldAny .. => some .ctl
  | .yieldAt .. => some .ctl
  | .live .. => some .ctl
  | .fork .. => some .ctl
  | .bts .. => some .ctl
  | .btb .. => some .ctl
  | .bth .. => some .ctl
  | .btl .. => some .ctl
  | .smov .. => some .uni
  | .sli .. => some .uni
  | .slih .. => some .uni
  | .sadd .. => some .uni
  | .ssub .. => some .uni
  | .saddi .. => some .uni
  | .smul .. => some .uni
  | .smulhI .. => some .uni
  | .smulhN .. => some .uni
  | .sand .. => some .uni
  | .sor .. => some .uni
  | .sxor .. => some .uni
  | .snot .. => some .uni
  | .sshl .. => some .uni
  | .sshr .. => some .uni
  | .ssra .. => some .uni
  | .sminI .. => some .uni
  | .sminN .. => some .uni
  | .smaxI .. => some .uni
  | .smaxN .. => some .uni
  | .sclz .. => some .uni
  | .spop .. => some .uni
  | .sbfx .. => some .uni
  | .sbfi .. => some .uni
  | .scmp .. => some .uni
  | .ssel .. => some .uni
  | .sreg .. => some .uni
  | .vmov .. => some .vec
  | .vli .. => some .vec
  | .vadd .. => some .vec
  | .vsub .. => some .vec
  | .vaddi .. => some .vec
  | .vmul .. => some .vec
  | .vmulhI .. => some .vec
  | .vmulhN .. => some .vec
  | .vmad .. => some .vec
  | .vand .. => some .vec
  | .vor .. => some .vec
  | .vxor .. => some .vec
  | .vnot .. => some .vec
  | .vshl .. => some .vec
  | .vshr .. => some .vec
  | .vsra .. => some .vec
  | .vmin .. => some .vec
  | .vmax .. => some .vec
  | .vabs .. => some .vec
  | .vclz .. => some .vec
  | .vpop .. => some .vec
  | .vbfx .. => some .vec
  | .vbfi .. => some .vec
  | .vcmp .. => some .vec
  | .vsel .. => some .vec
  | .fadd .. => some .vec
  | .fsub .. => some .vec
  | .fmul .. => some .vec
  | .ffma .. => some .vec
  | .fmin .. => some .vec
  | .fmax .. => some .vec
  | .fabs .. => some .vec
  | .fneg .. => some .vec
  | .fcmp .. => some .vec
  | .frcp .. => some .vec
  | .frsq .. => some .vec
  | .fsqrt .. => some .vec
  | .fex2 .. => some .vec
  | .flg2 .. => some .vec
  | .fsin .. => some .vec
  | .fcos .. => some .vec
  | .frnd .. => some .vec
  | .fclass .. => some .vec
  | .cvt .. => some .vec
  | .haddBf .. => some .vec
  | .hmulBf .. => some .vec
  | .hfmaBf .. => some .vec
  | .haddH .. => some .vec
  | .hmulH .. => some .vec
  | .hfmaH .. => some .vec
  | .shflIdx .. => some .vec
  | .shflN .. => some .vec
  | .bcast .. => some .vec
  | .vote .. => some .vec
  | .vred .. => some .vec
  | .vscan .. => some .vec
  | .vlane .. => some .vec
  | .pand .. => some .vec
  | .por .. => some .vec
  | .pxor .. => some .vec
  | .pnot .. => some .vec
  | .pmov .. => some .vec
  | .pget .. => some .vec
  | .ld .. => some .mem
  | .st .. => some .mem
  | .atomAdd .. => some .mem
  | .atomMin .. => some .mem
  | .atomMax .. => some .mem
  | .atomAnd .. => some .mem
  | .atomOr .. => some .mem
  | .atomXor .. => some .mem
  | .atomXchg .. => some .mem
  | .atomCas .. => some .mem
  | .atomInc .. => some .mem
  | .atomFadd .. => some .mem
  | .redAdd .. => some .mem
  | .redMin .. => some .mem
  | .redMax .. => some .mem
  | .redFadd .. => some .mem
  | .pf .. => some .mem
  | .bchk .. => some .mem
  | .bmeta .. => some .mem
  | .lds .. => some .mem
  | .sts .. => some .mem
  | .atomsAdd .. => some .mem
  | .atomsCas .. => some .mem
  | .plpack .. => some .mem
  | .plunpack .. => some .mem
  | .l1cfg .. => some .mem
  | .copy .. => some .mem
  | .cwp .. => some .mem
  | .fence .. => some .mem
  | .watch .. => some .mem
  | .mldA .. => some .mtx
  | .mldB .. => some .mtx
  | .mma .. => some .mtx
  | .mdrain .. => some .mtx
  | .mzero .. => some .mtx
  | .mstat .. => some .mtx
  | .lrec .. => some .mtx
  | .lconf .. => some .mtx
  | .lconfClr .. => some .mtx
  | .qnt .. => some .mtx
  | .qntScale .. => some .mtx
  | .dqnt .. => some .mtx
  | .bscale .. => some .mtx
  | .fslot .. => some .mtx
  | .tcount .. => some .mtx
  | .tnow .. => some .syn
  | .tget .. => some .syn
  | .tset .. => some .syn
  | .tmin .. => some .syn
  | .tmax .. => some .syn
  | .tadd .. => some .syn
  | .tsort .. => some .syn
  | .tclr .. => some .syn
  | .trep .. => some .syn
  | .barInit .. => some .syn
  | .barArrive .. => some .syn
  | .barWait .. => some .syn
  | .barThen .. => some .syn
  | .barBytes .. => some .syn
  | .barPhase .. => some .syn
  | .ringInit .. => some .syn
  | .ringFill .. => some .syn
  | .ringAwait .. => some .syn
  | .ringRelease .. => some .syn
  | .ringState .. => some .syn
  | .mwait .. => some .syn
  | .qbindPin .. => some .syn
  | .qbind .. => some .syn
  | .qpush .. => some .syn
  | .qpop .. => some .syn
  | .qpeek .. => some .syn
  | .qlen .. => some .syn
  | .bgt .. => some .syn
  | .dline .. => some .syn
  | .ergr .. => some .syn
  | .ctrr .. => some .syn
  | .ctrcSet .. => some .syn
  | .ctrcClr .. => some .syn
  | .ctrcStop .. => some .syn
  | .ctrcStart .. => some .syn
  | .smark .. => some .syn

/-- The words of an instruction, the first word first; an event row has none. -/
def encode : Instr → List Nat
  | .nop n0  => [w3 n0.val 0 0 0 0]
  | .bra n0 off prio => [wb n0.val 1 off.toNat 0 prio.val]
  | .bp n0 p off prio => [wb n0.val 2 off.toNat p.val prio.val]
  | .bpz n0 p off prio => [wb n0.val 3 off.toNat p.val prio.val]
  | .ball n0 p off prio => [wb n0.val 4 off.toNat p.val prio.val]
  | .bany n0 p off prio => [wb n0.val 5 off.toNat p.val prio.val]
  | .call n0 off prio => [wb n0.val 6 off.toNat 0 prio.val]
  | .ret n0  => [w3 n0.val 7 0 0 0]
  | .jmp n0 a => [w3 n0.val 8 0 a.val 0]
  | .jmpv n0 a => [w3 n0.val 9 0 a.val 0]
  | .exit n0  => [w3 n0.val 10 0 0 0]
  | .setprio n0 n => [w3 n0.val 11 0 0 n.val]
  | .trap n0 n => [w3 n0.val 12 0 0 n.val]
  | .rett n0  => [w3 n0.val 13 0 0 0]
  | .brk n0 n => [w3 n0.val 14 0 0 n.toNat]
  | .yieldAll n0 x m => [wy n0.val 15 (xcode x) m.toNat]
  | .yieldAny n0 x m => [wy n0.val 16 (xcode x) m.toNat]
  | .yieldAt n0 x m => [wy n0.val 17 (xcode x) m.toNat]
  | .live n0 n => [w3 n0.val 18 0 0 n.val]
  | .fork n0 p off prio => [wb n0.val 19 off.toNat p.val prio.val]
  | .bts n0 t off prio => [wb n0.val 20 off.toNat 0 prio.val, wbe t.val 0]
  | .btb n0 t off prio => [wb n0.val 21 off.toNat 0 prio.val, wbe t.val 0]
  | .bth n0 t off prio => [wb n0.val 22 off.toNat 0 prio.val, wbe t.val 0]
  | .btl n0 t delta off prio => [wb n0.val 23 off.toNat 0 prio.val, wbe t.val delta.toNat]
  | .smov n0 d a => [w3 n0.val 0 d.val a.val 0]
  | .sli n0 d imm => [w3 n0.val 1 d.val 0 0, imm.toNat]
  | .slih n0 d imm => [w3 n0.val 2 d.val 0 0, imm.toNat]
  | .sadd n0 d a b => [w3 n0.val 3 d.val a.val b.val]
  | .ssub n0 d a b => [w3 n0.val 4 d.val a.val b.val]
  | .saddi n0 d a imm => [w3 n0.val 5 d.val a.val imm.toNat]
  | .smul n0 d a b => [w3 n0.val 6 d.val a.val b.val]
  | .smulhI n0 d a b => [w3 n0.val 7 d.val a.val b.val]
  | .smulhN n0 d a b => [w3 n0.val 8 d.val a.val b.val]
  | .sand n0 d a b => [w3 n0.val 9 d.val a.val b.val]
  | .sor n0 d a b => [w3 n0.val 10 d.val a.val b.val]
  | .sxor n0 d a b => [w3 n0.val 11 d.val a.val b.val]
  | .snot n0 d a => [w3 n0.val 12 d.val a.val 0]
  | .sshl n0 d a b => [w3 n0.val 13 d.val a.val b.val]
  | .sshr n0 d a b => [w3 n0.val 14 d.val a.val b.val]
  | .ssra n0 d a b => [w3 n0.val 15 d.val a.val b.val]
  | .sminI n0 d a b => [w3 n0.val 16 d.val a.val b.val]
  | .sminN n0 d a b => [w3 n0.val 17 d.val a.val b.val]
  | .smaxI n0 d a b => [w3 n0.val 18 d.val a.val b.val]
  | .smaxN n0 d a b => [w3 n0.val 19 d.val a.val b.val]
  | .sclz n0 d a => [w3 n0.val 20 d.val a.val 0]
  | .spop n0 d a => [w3 n0.val 21 d.val a.val 0]
  | .sbfx n0 d a sg f => [w3 n0.val 22 d.val a.val 0, w3e 0 sg.toNat f.code]
  | .sbfi n0 d a f => [w3 n0.val 23 d.val a.val 0, w3e 0 0 f.code]
  | .scmp n0 d a b cc sg => [w3 n0.val 24 d.val a.val b.val, w3e 0 (cc.code + (sg.toNat) * 8) 0]
  | .ssel n0 d a b c => [w3 n0.val 25 d.val a.val b.val, w3e c.val 0 0]
  | .sreg n0 d n => [w3 n0.val 26 d.val 0 n.val]
  | .vmov n0 d a => [w3 n0.val 0 d.val a.code 0]
  | .vli n0 d imm => [w3 n0.val 1 d.val 0 0, imm.toNat]
  | .vadd n0 d a b => [w3 n0.val 2 d.val a.code b.code]
  | .vsub n0 d a b => [w3 n0.val 3 d.val a.code b.code]
  | .vaddi n0 d a imm => [w3 n0.val 4 d.val a.code imm.toNat]
  | .vmul n0 d a b => [w3 n0.val 5 d.val a.code b.code]
  | .vmulhI n0 d a b => [w3 n0.val 6 d.val a.code b.code]
  | .vmulhN n0 d a b => [w3 n0.val 7 d.val a.code b.code]
  | .vmad n0 d a b c => [w3 n0.val 8 d.val a.code b.code, w3e c.code 0 0]
  | .vand n0 d a b => [w3 n0.val 9 d.val a.code b.code]
  | .vor n0 d a b => [w3 n0.val 10 d.val a.code b.code]
  | .vxor n0 d a b => [w3 n0.val 11 d.val a.code b.code]
  | .vnot n0 d a => [w3 n0.val 12 d.val a.code 0]
  | .vshl n0 d a b => [w3 n0.val 13 d.val a.code b.code]
  | .vshr n0 d a b => [w3 n0.val 14 d.val a.code b.code]
  | .vsra n0 d a b => [w3 n0.val 15 d.val a.code b.code]
  | .vmin n0 d a b sg => [w3 n0.val 16 d.val a.code b.code, w3e 0 sg.toNat 0]
  | .vmax n0 d a b sg => [w3 n0.val 17 d.val a.code b.code, w3e 0 sg.toNat 0]
  | .vabs n0 d a => [w3 n0.val 18 d.val a.code 0]
  | .vclz n0 d a => [w3 n0.val 19 d.val a.code 0]
  | .vpop n0 d a => [w3 n0.val 20 d.val a.code 0]
  | .vbfx n0 d a sg f => [w3 n0.val 21 d.val a.code 0, w3e 0 sg.toNat f.code]
  | .vbfi n0 d a f => [w3 n0.val 22 d.val a.code 0, w3e 0 0 f.code]
  | .vcmp n0 d a b cc sg => [w3 n0.val 23 d.val a.code b.code, w3e 0 (cc.code + (sg.toNat) * 8) 0]
  | .vsel n0 d a b p => [w3 n0.val 24 d.val a.code b.code, w3e 0 p.val 0]
  | .fadd n0 d a b => [w3 n0.val 25 d.val a.code b.code]
  | .fsub n0 d a b => [w3 n0.val 26 d.val a.code b.code]
  | .fmul n0 d a b => [w3 n0.val 27 d.val a.code b.code]
  | .ffma n0 d a b c fv => [w3 n0.val 28 d.val a.code b.code, w3e c.code fv.code 0]
  | .fmin n0 d a b => [w3 n0.val 29 d.val a.code b.code]
  | .fmax n0 d a b => [w3 n0.val 30 d.val a.code b.code]
  | .fabs n0 d a => [w3 n0.val 31 d.val a.code 0]
  | .fneg n0 d a => [w3 n0.val 32 d.val a.code 0]
  | .fcmp n0 d a b cc => [w3 n0.val 33 d.val a.code b.code, w3e 0 cc.code 0]
  | .frcp n0 d a => [w3 n0.val 34 d.val a.code 0]
  | .frsq n0 d a => [w3 n0.val 35 d.val a.code 0]
  | .fsqrt n0 d a => [w3 n0.val 36 d.val a.code 0]
  | .fex2 n0 d a => [w3 n0.val 37 d.val a.code 0]
  | .flg2 n0 d a => [w3 n0.val 38 d.val a.code 0]
  | .fsin n0 d a => [w3 n0.val 39 d.val a.code 0]
  | .fcos n0 d a => [w3 n0.val 40 d.val a.code 0]
  | .frnd n0 d a rm => [w3 n0.val 41 d.val a.code 0, w3e 0 rm.code 0]
  | .fclass n0 d a => [w3 n0.val 42 d.val a.code 0]
  | .cvt n0 d a rm sat dst src => [w3 n0.val 43 d.val a.code 0, w3e 0 (rm.code + (sat.toNat) * 8) (dst.code + (src.code) * 256)]
  | .haddBf n0 d a b => [w3 n0.val 44 d.val a.code b.code]
  | .hmulBf n0 d a b => [w3 n0.val 45 d.val a.code b.code]
  | .hfmaBf n0 d a b c fv => [w3 n0.val 46 d.val a.code b.code, w3e c.code fv.code 0]
  | .haddH n0 d a b => [w3 n0.val 47 d.val a.code b.code]
  | .hmulH n0 d a b => [w3 n0.val 48 d.val a.code b.code]
  | .hfmaH n0 d a b c fv => [w3 n0.val 49 d.val a.code b.code, w3e c.code fv.code 0]
  | .shflIdx n0 d a b => [w3 n0.val 50 d.val a.code b.code, w3e 0 0 0]
  | .shflN n0 d a k n => [w3 n0.val 50 d.val a.code 0, w3e 0 k.code n.val]
  | .bcast n0 d a b => [w3 n0.val 51 d.val a.code (192 + b.val)]
  | .vote n0 d a => [w3 n0.val 52 d.val a.code 0]
  | .vred n0 d a op => [w3 n0.val 53 d.val a.code 0, w3e 0 op.code 0]
  | .vscan n0 d a op ex => [w3 n0.val 54 d.val a.code 0, w3e 0 (op.code + (ex.toNat) * 16) 0]
  | .vlane n0 d => [w3 n0.val 55 d.val 0 0]
  | .pand n0 d a b => [w3 n0.val 56 d.val a.val b.val]
  | .por n0 d a b => [w3 n0.val 57 d.val a.val b.val]
  | .pxor n0 d a b => [w3 n0.val 58 d.val a.val b.val]
  | .pnot n0 d a => [w3 n0.val 59 d.val a.val 0]
  | .pmov n0 d a => [w3 n0.val 60 d.val (192 + a.val) 0]
  | .pget n0 d a => [w3 n0.val 61 d.val a.val 0]
  | .ld n0 m => encMem n0 0 m
  | .st n0 m => encMem n0 1 m
  | .atomAdd n0 m => encMem n0 2 m
  | .atomMin n0 m => encMem n0 3 m
  | .atomMax n0 m => encMem n0 4 m
  | .atomAnd n0 m => encMem n0 5 m
  | .atomOr n0 m => encMem n0 6 m
  | .atomXor n0 m => encMem n0 7 m
  | .atomXchg n0 m => encMem n0 8 m
  | .atomCas n0 m => encMem n0 9 m
  | .atomInc n0 m => encMem n0 10 m
  | .atomFadd n0 m => encMem n0 11 m
  | .redAdd n0 m => encMem n0 12 m
  | .redMin n0 m => encMem n0 13 m
  | .redMax n0 m => encMem n0 14 m
  | .redFadd n0 m => encMem n0 15 m
  | .pf n0 m => encMem n0 16 m
  | .bchk n0 m => encMem n0 17 m
  | .bmeta n0 m => encMem n0 18 m
  | .lds n0 m => encMem n0 19 m
  | .sts n0 m => encMem n0 20 m
  | .atomsAdd n0 m => encMem n0 21 m
  | .atomsCas n0 m => encMem n0 22 m
  | .plpack n0 d a b w => [w3 n0.val 23 d.val a.val b.val, w3e 0 0 (w.val + 1)]
  | .plunpack n0 d a b w => [w3 n0.val 24 d.val a.val b.val, w3e 0 0 (w.val + 1)]
  | .l1cfg n0 a t => [wo n0.val 25 0 a.val t.val 0]
  | .copy n0 a t sc rel => [wo n0.val 26 0 a.val t.val 0, sc.code + (rel.toNat) * 8]
  | .cwp n0 d a => [wo n0.val 27 d.val a.val 0 0]
  | .fence n0 sc k => [w3 n0.val 28 0 0 (sc.code + (k.code) * 8)]
  | .watch n0 m => encMem n0 29 m
  | .mldA n0 a t l f => [wo n0.val 0 0 a.val t.val 0, l.val + (f.val) * 4]
  | .mldB n0 a t l f sm => [wo n0.val 1 0 a.val t.val 0, l.val + (f.val) * 4 + (sm.toNat) * 32]
  | .mma n0 a t => [wo n0.val 2 0 a.val t.val 0]
  | .mdrain n0 a t f => [wo n0.val 3 0 a.val t.val 0, f.val]
  | .mzero n0 t => [wo n0.val 4 0 0 t.val 0]
  | .mstat n0 d n => [w3 n0.val 5 d.val 0 n.val]
  | .lrec n0 a l => [wo n0.val 6 0 a.val 0 l.val]
  | .lconf n0 d => [w3 n0.val 7 d.val 0 0]
  | .lconfClr n0 d => [w3 n0.val 7 d.val 0 1]
  | .qnt n0 d a b f => [w3 n0.val 8 d.val a.code b.code, w3e 0 f.val 0]
  | .qntScale n0 d a c f => [w3 n0.val 8 d.val a.code 0, w3e c.val (f.val + 8) 0]
  | .dqnt n0 d a b f => [w3 n0.val 9 d.val a.code b.code, w3e 0 f.val 0]
  | .bscale n0 d a f => [w3 n0.val 10 d.val a.code 0, w3e 0 f.val 0]
  | .fslot n0 d f h => [w3 n0.val 11 d.val 0 (f.val + (h.toNat) * 8)]
  | .tcount n0 d a w => [w3 n0.val 12 d.val a.code 0, w3e 0 0 (w.val + 1)]
  | .tnow n0 d => [w3 n0.val 0 d.val 0 0]
  | .tget n0 d a => [w3 n0.val 1 d.val a.val 0]
  | .tset n0 d a => [w3 n0.val 2 d.val a.val 0]
  | .tmin n0 d a b => [w3 n0.val 3 d.val a.val b.val]
  | .tmax n0 d a b => [w3 n0.val 4 d.val a.val b.val]
  | .tadd n0 d a b n => [w3 n0.val 5 d.val a.val b.val, w3e 0 0 n.toNat]
  | .tsort n0 d a b => [w3 n0.val 6 d.val a.val b.val, w3e 0 0 0]
  | .tclr n0 d l => [w3 n0.val 7 d.val 0 l.val]
  | .trep n0 d => [w3 n0.val 8 d.val 0 0]
  | .barInit n0 d a n => [wo n0.val 9 d.val a.val 0 0, n.val + 1]
  | .barArrive n0 d => [wo n0.val 10 d.val 0 0 0]
  | .barWait n0 d => [wo n0.val 11 d.val 0 0 0]
  | .barThen n0 d off => [wo n0.val 12 d.val 0 0 0, 4 * off.toNat]
  | .barBytes n0 d a => [wo n0.val 13 d.val a.val 0 0]
  | .barPhase n0 d a => [wo n0.val 14 d.val a.val 0 0]
  | .ringInit n0 d a n strict size => [wo n0.val 15 d.val a.val 0 0, n.val + 1 + (strict.toNat) * 128 + (size.toNat) * 256]
  | .ringFill n0 a => [wo n0.val 16 0 a.val 0 0]
  | .ringAwait n0 d a => [wo n0.val 17 d.val a.val 0 0]
  | .ringRelease n0 a => [wo n0.val 18 0 a.val 0 0]
  | .ringState n0 d a => [wo n0.val 19 d.val a.val 0 0]
  | .mwait n0 n => [wo n0.val 20 0 0 0 0, n.toNat]
  | .qbindPin n0 a => [wo n0.val 21 0 a.val 0 1]
  | .qbind n0 a => [wo n0.val 21 0 a.val 0 0]
  | .qpush n0 d a t => [wo n0.val 22 d.val a.val t.val 0]
  | .qpop n0 d a t => [wo n0.val 23 d.val a.val t.val 0]
  | .qpeek n0 d a t => [wo n0.val 24 d.val a.val t.val 0]
  | .qlen n0 d a => [wo n0.val 25 d.val a.val 0 0]
  | .bgt n0 d => [w3 n0.val 26 d.val 0 0]
  | .dline n0 d => [w3 n0.val 27 d.val 0 0]
  | .ergr n0 d => [w3 n0.val 28 d.val 0 0]
  | .ctrr n0 d k => [w3 n0.val 29 d.val 0 k.val]
  | .ctrcSet n0 d a b => [w3 n0.val 30 d.val a.val b.val, w3e 0 0 0]
  | .ctrcClr n0 d => [w3 n0.val 30 d.val 0 0, w3e 0 1 0]
  | .ctrcStop n0 d => [w3 n0.val 30 d.val 0 0, w3e 0 2 0]
  | .ctrcStart n0 d => [w3 n0.val 30 d.val 0 0, w3e 0 3 0]
  | .smark n0 a n => [w3 n0.val 31 0 a.val n.toNat]
  | .powerOnReset => []
  | .fundamentalReset => []
  | .readyBitRise => []
  | .lifecycleChange => []
  | .bootcfgWrite => []
  | .attestationRequest => []
  | .attestationReportSigned => []
  | .mailboxDoorbellSet => []
  | .mailboxDoorbellClear => []
  | .hostMemoryAccess => []
  | .hostQueuePush => []
  | .peerRequest => []
  | .peerRefusal => []
  | .hostCompletion => []
  | .pathAllowanceOverrun => []
  | .fabricLinkReplay => []
  | .dieLinkReplay => []
  | .fabricLinkDown => []
  | .fabricLinkUp => []
  | .fabricLinkRetrainTimeout => []
  | .ptpEventTimestamp => []
  | .instructionFetchFill => []
  | .clauseHeader => []
  | .fairnessTimerExpiry => []
  | .recordWriteDone => []
  | .relaunch => []
  | .relaunchComplete => []
  | .wakeTimeReached => []
  | .mwaitTimeout => []
  | .detachedTimerSettle => []
  | .probePass => []
  | .requestLanding => []
  | .requestBreak => []
  | .heldResolution => []
  | .heldConvertClass3 => []
  | .stewardLaunchSubmit => []
  | .dispatchTake => []
  | .crewPlacement => []
  | .affinityFallback => []
  | .crewRetire => []
  | .partitionZeroDone => []
  | .l1cfgComplete => []
  | .channelTakeCommand => []
  | .copyRowLanding => []
  | .lapidaryOpStart => []
  | .lapidaryOpComplete => []
  | .storePerformed => []
  | .atomicPerformed => []
  | .l2VictimWriteback => []
  | .writeThroughPerform => []
  | .mscSectorFill => []
  | .hbmRefresh => []
  | .stackTempCrossing => []
  | .eccError => []
  | .scrub => []
  | .hbmDeadMark => []
  | .hbmDeadLoad => []
  | .queueUnitRequest => []
  | .queueRefillLanding => []
  | .queueSwapIn => []
  | .queueSwapInDone => []
  | .budgetExhausted => []
  | .ctxSwitchIn => []
  | .ctxSwitchOut => []
  | .contextBankExchange => []
  | .lapidaryRestore => []
  | .scratchpadSpill => []
  | .ctxKill => []
  | .ctxKillCrew => []
  | .ctxResumeGang => []
  | .ctxMigrateCrew => []
  | .ctxRaiseBudget => []
  | .ctxRevokeRecord => []
  | .ctxReinstateRecord => []
  | .revokeDone => []
  | .hangWatchdogExpiry => []
  | .spillWatchdogExpiry => []
  | .thermalThresholdCrossing => []
  | .migrationRefused => []
  | .migrationMoveBegin => []
  | .migrationRemap => []
  | .tokenPeriodBoundary => []
  | .arbiterRound => []
  | .throttle => []
  | .pwrStatLicWrite => []
  | .tokOffer => []
  | .tokenOfferReceived => []
  | .tokenAckReceived => []
  | .tokenRefuseReceived => []
  | .tokenCommitReceived => []
  | .clkStepArm => []
  | .frequencyStep => []
  | .frequencyHoldEnd => []
  | .timeAdjSlew => []
  | .timeAdjStep => []
  | .forwardStepApply => []
  | .brkcRead => []
  | .errcRead => []
  | .contStatRead => []
  | .contOvfRead => []
  | .trcCntRead => []
  | .registerWrite => []
  | .plpackLastWrite => []
  | .preloadDone => []
  | .spillDone => []
  | .sensorReadsBelowTherm => []

/-- The stall count of an instruction row (R31). -/
def Instr.stall : Instr → Nat
  | .nop n0 => n0.val
  | .bra n0 _ _ => n0.val
  | .bp n0 _ _ _ => n0.val
  | .bpz n0 _ _ _ => n0.val
  | .ball n0 _ _ _ => n0.val
  | .bany n0 _ _ _ => n0.val
  | .call n0 _ _ => n0.val
  | .ret n0 => n0.val
  | .jmp n0 _ => n0.val
  | .jmpv n0 _ => n0.val
  | .exit n0 => n0.val
  | .setprio n0 _ => n0.val
  | .trap n0 _ => n0.val
  | .rett n0 => n0.val
  | .brk n0 _ => n0.val
  | .yieldAll n0 _ _ => n0.val
  | .yieldAny n0 _ _ => n0.val
  | .yieldAt n0 _ _ => n0.val
  | .live n0 _ => n0.val
  | .fork n0 _ _ _ => n0.val
  | .bts n0 _ _ _ => n0.val
  | .btb n0 _ _ _ => n0.val
  | .bth n0 _ _ _ => n0.val
  | .btl n0 _ _ _ _ => n0.val
  | .smov n0 _ _ => n0.val
  | .sli n0 _ _ => n0.val
  | .slih n0 _ _ => n0.val
  | .sadd n0 _ _ _ => n0.val
  | .ssub n0 _ _ _ => n0.val
  | .saddi n0 _ _ _ => n0.val
  | .smul n0 _ _ _ => n0.val
  | .smulhI n0 _ _ _ => n0.val
  | .smulhN n0 _ _ _ => n0.val
  | .sand n0 _ _ _ => n0.val
  | .sor n0 _ _ _ => n0.val
  | .sxor n0 _ _ _ => n0.val
  | .snot n0 _ _ => n0.val
  | .sshl n0 _ _ _ => n0.val
  | .sshr n0 _ _ _ => n0.val
  | .ssra n0 _ _ _ => n0.val
  | .sminI n0 _ _ _ => n0.val
  | .sminN n0 _ _ _ => n0.val
  | .smaxI n0 _ _ _ => n0.val
  | .smaxN n0 _ _ _ => n0.val
  | .sclz n0 _ _ => n0.val
  | .spop n0 _ _ => n0.val
  | .sbfx n0 _ _ _ _ => n0.val
  | .sbfi n0 _ _ _ => n0.val
  | .scmp n0 _ _ _ _ _ => n0.val
  | .ssel n0 _ _ _ _ => n0.val
  | .sreg n0 _ _ => n0.val
  | .vmov n0 _ _ => n0.val
  | .vli n0 _ _ => n0.val
  | .vadd n0 _ _ _ => n0.val
  | .vsub n0 _ _ _ => n0.val
  | .vaddi n0 _ _ _ => n0.val
  | .vmul n0 _ _ _ => n0.val
  | .vmulhI n0 _ _ _ => n0.val
  | .vmulhN n0 _ _ _ => n0.val
  | .vmad n0 _ _ _ _ => n0.val
  | .vand n0 _ _ _ => n0.val
  | .vor n0 _ _ _ => n0.val
  | .vxor n0 _ _ _ => n0.val
  | .vnot n0 _ _ => n0.val
  | .vshl n0 _ _ _ => n0.val
  | .vshr n0 _ _ _ => n0.val
  | .vsra n0 _ _ _ => n0.val
  | .vmin n0 _ _ _ _ => n0.val
  | .vmax n0 _ _ _ _ => n0.val
  | .vabs n0 _ _ => n0.val
  | .vclz n0 _ _ => n0.val
  | .vpop n0 _ _ => n0.val
  | .vbfx n0 _ _ _ _ => n0.val
  | .vbfi n0 _ _ _ => n0.val
  | .vcmp n0 _ _ _ _ _ => n0.val
  | .vsel n0 _ _ _ _ => n0.val
  | .fadd n0 _ _ _ => n0.val
  | .fsub n0 _ _ _ => n0.val
  | .fmul n0 _ _ _ => n0.val
  | .ffma n0 _ _ _ _ _ => n0.val
  | .fmin n0 _ _ _ => n0.val
  | .fmax n0 _ _ _ => n0.val
  | .fabs n0 _ _ => n0.val
  | .fneg n0 _ _ => n0.val
  | .fcmp n0 _ _ _ _ => n0.val
  | .frcp n0 _ _ => n0.val
  | .frsq n0 _ _ => n0.val
  | .fsqrt n0 _ _ => n0.val
  | .fex2 n0 _ _ => n0.val
  | .flg2 n0 _ _ => n0.val
  | .fsin n0 _ _ => n0.val
  | .fcos n0 _ _ => n0.val
  | .frnd n0 _ _ _ => n0.val
  | .fclass n0 _ _ => n0.val
  | .cvt n0 _ _ _ _ _ _ => n0.val
  | .haddBf n0 _ _ _ => n0.val
  | .hmulBf n0 _ _ _ => n0.val
  | .hfmaBf n0 _ _ _ _ _ => n0.val
  | .haddH n0 _ _ _ => n0.val
  | .hmulH n0 _ _ _ => n0.val
  | .hfmaH n0 _ _ _ _ _ => n0.val
  | .shflIdx n0 _ _ _ => n0.val
  | .shflN n0 _ _ _ _ => n0.val
  | .bcast n0 _ _ _ => n0.val
  | .vote n0 _ _ => n0.val
  | .vred n0 _ _ _ => n0.val
  | .vscan n0 _ _ _ _ => n0.val
  | .vlane n0 _ => n0.val
  | .pand n0 _ _ _ => n0.val
  | .por n0 _ _ _ => n0.val
  | .pxor n0 _ _ _ => n0.val
  | .pnot n0 _ _ => n0.val
  | .pmov n0 _ _ => n0.val
  | .pget n0 _ _ => n0.val
  | .ld n0 _ => n0.val
  | .st n0 _ => n0.val
  | .atomAdd n0 _ => n0.val
  | .atomMin n0 _ => n0.val
  | .atomMax n0 _ => n0.val
  | .atomAnd n0 _ => n0.val
  | .atomOr n0 _ => n0.val
  | .atomXor n0 _ => n0.val
  | .atomXchg n0 _ => n0.val
  | .atomCas n0 _ => n0.val
  | .atomInc n0 _ => n0.val
  | .atomFadd n0 _ => n0.val
  | .redAdd n0 _ => n0.val
  | .redMin n0 _ => n0.val
  | .redMax n0 _ => n0.val
  | .redFadd n0 _ => n0.val
  | .pf n0 _ => n0.val
  | .bchk n0 _ => n0.val
  | .bmeta n0 _ => n0.val
  | .lds n0 _ => n0.val
  | .sts n0 _ => n0.val
  | .atomsAdd n0 _ => n0.val
  | .atomsCas n0 _ => n0.val
  | .plpack n0 _ _ _ _ => n0.val
  | .plunpack n0 _ _ _ _ => n0.val
  | .l1cfg n0 _ _ => n0.val
  | .copy n0 _ _ _ _ => n0.val
  | .cwp n0 _ _ => n0.val
  | .fence n0 _ _ => n0.val
  | .watch n0 _ => n0.val
  | .mldA n0 _ _ _ _ => n0.val
  | .mldB n0 _ _ _ _ _ => n0.val
  | .mma n0 _ _ => n0.val
  | .mdrain n0 _ _ _ => n0.val
  | .mzero n0 _ => n0.val
  | .mstat n0 _ _ => n0.val
  | .lrec n0 _ _ => n0.val
  | .lconf n0 _ => n0.val
  | .lconfClr n0 _ => n0.val
  | .qnt n0 _ _ _ _ => n0.val
  | .qntScale n0 _ _ _ _ => n0.val
  | .dqnt n0 _ _ _ _ => n0.val
  | .bscale n0 _ _ _ => n0.val
  | .fslot n0 _ _ _ => n0.val
  | .tcount n0 _ _ _ => n0.val
  | .tnow n0 _ => n0.val
  | .tget n0 _ _ => n0.val
  | .tset n0 _ _ => n0.val
  | .tmin n0 _ _ _ => n0.val
  | .tmax n0 _ _ _ => n0.val
  | .tadd n0 _ _ _ _ => n0.val
  | .tsort n0 _ _ _ => n0.val
  | .tclr n0 _ _ => n0.val
  | .trep n0 _ => n0.val
  | .barInit n0 _ _ _ => n0.val
  | .barArrive n0 _ => n0.val
  | .barWait n0 _ => n0.val
  | .barThen n0 _ _ => n0.val
  | .barBytes n0 _ _ => n0.val
  | .barPhase n0 _ _ => n0.val
  | .ringInit n0 _ _ _ _ _ => n0.val
  | .ringFill n0 _ => n0.val
  | .ringAwait n0 _ _ => n0.val
  | .ringRelease n0 _ => n0.val
  | .ringState n0 _ _ => n0.val
  | .mwait n0 _ => n0.val
  | .qbindPin n0 _ => n0.val
  | .qbind n0 _ => n0.val
  | .qpush n0 _ _ _ => n0.val
  | .qpop n0 _ _ _ => n0.val
  | .qpeek n0 _ _ _ => n0.val
  | .qlen n0 _ _ => n0.val
  | .bgt n0 _ => n0.val
  | .dline n0 _ => n0.val
  | .ergr n0 _ => n0.val
  | .ctrr n0 _ _ => n0.val
  | .ctrcSet n0 _ _ _ => n0.val
  | .ctrcClr n0 _ => n0.val
  | .ctrcStop n0 _ => n0.val
  | .ctrcStart n0 _ => n0.val
  | .smark n0 _ _ => n0.val
  | .powerOnReset => 0
  | .fundamentalReset => 0
  | .readyBitRise => 0
  | .lifecycleChange => 0
  | .bootcfgWrite => 0
  | .attestationRequest => 0
  | .attestationReportSigned => 0
  | .mailboxDoorbellSet => 0
  | .mailboxDoorbellClear => 0
  | .hostMemoryAccess => 0
  | .hostQueuePush => 0
  | .peerRequest => 0
  | .peerRefusal => 0
  | .hostCompletion => 0
  | .pathAllowanceOverrun => 0
  | .fabricLinkReplay => 0
  | .dieLinkReplay => 0
  | .fabricLinkDown => 0
  | .fabricLinkUp => 0
  | .fabricLinkRetrainTimeout => 0
  | .ptpEventTimestamp => 0
  | .instructionFetchFill => 0
  | .clauseHeader => 0
  | .fairnessTimerExpiry => 0
  | .recordWriteDone => 0
  | .relaunch => 0
  | .relaunchComplete => 0
  | .wakeTimeReached => 0
  | .mwaitTimeout => 0
  | .detachedTimerSettle => 0
  | .probePass => 0
  | .requestLanding => 0
  | .requestBreak => 0
  | .heldResolution => 0
  | .heldConvertClass3 => 0
  | .stewardLaunchSubmit => 0
  | .dispatchTake => 0
  | .crewPlacement => 0
  | .affinityFallback => 0
  | .crewRetire => 0
  | .partitionZeroDone => 0
  | .l1cfgComplete => 0
  | .channelTakeCommand => 0
  | .copyRowLanding => 0
  | .lapidaryOpStart => 0
  | .lapidaryOpComplete => 0
  | .storePerformed => 0
  | .atomicPerformed => 0
  | .l2VictimWriteback => 0
  | .writeThroughPerform => 0
  | .mscSectorFill => 0
  | .hbmRefresh => 0
  | .stackTempCrossing => 0
  | .eccError => 0
  | .scrub => 0
  | .hbmDeadMark => 0
  | .hbmDeadLoad => 0
  | .queueUnitRequest => 0
  | .queueRefillLanding => 0
  | .queueSwapIn => 0
  | .queueSwapInDone => 0
  | .budgetExhausted => 0
  | .ctxSwitchIn => 0
  | .ctxSwitchOut => 0
  | .contextBankExchange => 0
  | .lapidaryRestore => 0
  | .scratchpadSpill => 0
  | .ctxKill => 0
  | .ctxKillCrew => 0
  | .ctxResumeGang => 0
  | .ctxMigrateCrew => 0
  | .ctxRaiseBudget => 0
  | .ctxRevokeRecord => 0
  | .ctxReinstateRecord => 0
  | .revokeDone => 0
  | .hangWatchdogExpiry => 0
  | .spillWatchdogExpiry => 0
  | .thermalThresholdCrossing => 0
  | .migrationRefused => 0
  | .migrationMoveBegin => 0
  | .migrationRemap => 0
  | .tokenPeriodBoundary => 0
  | .arbiterRound => 0
  | .throttle => 0
  | .pwrStatLicWrite => 0
  | .tokOffer => 0
  | .tokenOfferReceived => 0
  | .tokenAckReceived => 0
  | .tokenRefuseReceived => 0
  | .tokenCommitReceived => 0
  | .clkStepArm => 0
  | .frequencyStep => 0
  | .frequencyHoldEnd => 0
  | .timeAdjSlew => 0
  | .timeAdjStep => 0
  | .forwardStepApply => 0
  | .brkcRead => 0
  | .errcRead => 0
  | .contStatRead => 0
  | .contOvfRead => 0
  | .trcCntRead => 0
  | .registerWrite => 0
  | .plpackLastWrite => 0
  | .preloadDone => 0
  | .spillDone => 0
  | .sensorReadsBelowTherm => 0

/-- The instruction that the decoder reads from a table word: bits 31..0 are the first word, bits 63..32 the second. The
classes share their opcodes and the class stands in the clause header, which a table word does not hold; the classes are
tried in the order of R19. -/
def decodeTableWord (_nbits w : Nat) : Option Instr :=
  let lo := w % 0x100000000
  let hi := w / 0x100000000 % 0x100000000
  [Cls.ctl, .uni, .vec, .mem, .mtx, .syn].findSome? fun c => decode c lo hi

end Sys2Proof
end

