-- ==== Sys2Proof/Config.lean ====
section
/-!
DEFINITION. What the manual leaves open, as constants without a body: nothing in the model or in a proof can see
their values, so a claim holds whatever they are. Each is named in an assumption row.
-/
namespace Sys2Proof.Config

/-- R25: for a read made before a fixed-latency result is due, whether the lane returns the new value. Arguments: the
free-value counter of the state, the register's number, the lane. -/
opaque earlyNew : Nat → Nat → Nat → Bool
/-- R25: where two writes to one register overlap, whether the lane ends with the later write's value. -/
opaque overlapLater : Nat → Nat → Nat → Bool
/-- R164: 2^x where the manual gives no exact result (within 2 ulp). -/
opaque fex2 : Word → Word
/-- R164: log2 x where the manual gives no exact result (within 2 ulp). -/
opaque flg2 : Word → Word
/-- R164: sin x where the manual gives no exact result (within 2 ulp, magnitude at most 1). -/
opaque fsin : Word → Word
/-- R164: cos x where the manual gives no exact result (within 2 ulp, magnitude at most 1). -/
opaque fcos : Word → Word
/-- R285: clocks after the probe passes at which a store reads its data registers; the model reads them within 0 to 8. -/
opaque storeReadDelay : Nat → Nat
/-- R22: ticks an instruction-cache fill takes. -/
opaque fetchTicks : Nat → Nat
/-- R291: whether a prefetch fills the line into the core's L1. -/
opaque prefetchFills : Nat → Bool
/-- R1: a byte of a value that the manual leaves unspecified for an offending context. -/
opaque unspecifiedByte : Nat → Byte
/-- R370: energy of one arbiter round charged to a launch, in units of 1/65,536 µJ: counter, launch. -/
opaque roundEnergy : Nat → Nat → Nat
/-- R370: energy of one arbiter round charged to no launch, in µJ. -/
opaque unattributedEnergy : Nat → Nat
/-- R365: the energy, in tokens, that a consumer measured in a round: counter, consumer. -/
opaque consumerEnergy : Nat → Nat → Nat
/-- R365: a consumer's demand for the next round: counter, consumer. -/
opaque consumerDemand : Nat → Nat → Nat
/-- R365: a consumer's idle floor, in tokens per round. -/
opaque idleFloor : Nat → Nat
/-- R366: the frequency code to which the arbiter steps a die down at a round boundary, if it does: counter, die. -/
opaque arbiterStep : Nat → Nat → Option Nat
/-- R349, R356: the address, in units of 64 bytes, of the record that a command names for a context the hub does not hold. -/
opaque ctxRecord : Nat → Nat
/-- R402: a signed attestation report's byte: report number, offset. -/
opaque reportByte : Nat → Nat → Byte
/-- R402: a byte of the device serial number. -/
opaque serialByte : Nat → Byte
/-- R398, R402: the SHA3-512 digest that extends a measurement register: old value, number of the image. -/
opaque measure : BitVec 512 → Nat → BitVec 512
/-- R68, R419: the page-request number that the steward's software gives to a page: context, page, counter. -/
opaque pageTicket : Nat → Nat → Nat → Word
/-- Whether the base die's metadata cache holds the state of a block of a lossless buffer (R301). -/
opaque metaHit : Nat → Bool
/-- The ticks by which a lossless read that needs less than it booked arrives early, before its bound is put on it (R296, R301). -/
opaque metaGain : Nat → Nat
/-- The state of a block of 512 bytes after its recompression (R301). -/
opaque blockState : Nat → BitVec 2
/-- Byte `i` of the lapidary's image in a save area, whose inner layout the spec does not give (R248, R358). -/
opaque imageByte : Nat → Nat → Byte

end Sys2Proof.Config
end

