-- ==== Sys2Proof/Machine/State.lean ====
section
/-!
DEFINITION. The state of the LZ-9400 as plain data, the reasons a step can stop, and the state right after reset.
Device times of bookings are natural numbers (ticks since reset); a register or record that shows one holds it modulo
2^56 or 2^64 (R48). Where the manual numbers or packs a register's bits, the register stays a bit vector.
-/
namespace Sys2Proof.Machine

/-! ## Time registers, frontier, traps -/

/-- A time register: its 64-bit image (R49), whether software wrote it last (R52: detached), and breaks(tN) (R50). -/
structure TimeReg where
  val    : DWord
  soft   : Bool
  breaks : Nat
deriving DecidableEq, Repr

/-- A frontier entry (R91). -/
structure Entry where
  pc   : Pc
  prio : Fin 32
  mask : Mask
deriving DecidableEq, Repr

/-- The clause that the selected entry is issuing: its header, the next word, the words left, its class (R19, R92). -/
structure Clause where
  hdr  : Pc
  next : Pc
  left : Nat
  cls  : Cls
deriving DecidableEq, Repr

/-- The trap block (R112 to R114, R351); `hdr` is the header of the clause that trapped. -/
structure TrapBlk where
  pc        : Pc
  hdr       : Pc
  cause     : Byte
  info      : Word
  inHandler : Bool
deriving DecidableEq, Repr

/-- Gang roles, in the code order of R112. -/
inductive Role where
  | general | copy | matrix | vector
deriving DecidableEq, Repr

/-- A fixed-latency result that is not yet due (R24, R25): the register, the clock it is due, the lanes written, the value
before. -/
inductive Pending where
  | s (n : SReg) (due : Nat) (old : DWord)
  | v (n : VReg) (due : Nat) (m : Mask) (old : Lanes)
  | p (n : PReg) (due : Nat) (m : Mask) (old : Mask)
deriving DecidableEq, Repr

/-- The header fields of a continuation record that the gang's own state does not hold (R112, R113), the order key once
the record is eligible (R117), and whether its image is malformed (R116): the image is then kept in `raw`. `written` is the
tick at which the last of a record's lines is written to the overflow ring, once they are booked (R417). -/
structure Rec where
  kind   : Byte
  seq    : Word
  wake   : BitVec 4
  wtick  : Tick
  tmask  : BitVec 16
  object : BitVec 16
  arg    : Word
  lastq  : Byte
  rot    : Bool
  bound  : Bool
  floor  : Bool
  key    : Option Tick
  bad    : Bool
  raw    : List DWord
  written : Option Nat
deriving DecidableEq, Repr

/-- Where a gang is: in a gang slot; leaving it while its record is written to the store, or to some slots of the overflow ring;
a record in the store; a record in the overflow ring (first slot, slots); being relaunched into a slot from the store or from
the ring; saved with its context, with its record's address once it is spilled; moving to another core. -/
inductive Place where
  | slot     (q : Fin 4) (n : Fin 16)
  | leaving  (q : Fin 4) (n : Fin 16) (ring : Option (Nat × Nat))
  | store
  | ring     (pos len : Nat)
  | entering (q : Fin 4) (n : Fin 16) (ring : Option (Nat × Nat))
  | saved (at_ : Nat)
  | moving
deriving DecidableEq, Repr

/-- An order that a fence left for later accesses (R327): its kind, scope, the first request number after it, and whether it
has yet to invalidate L1. -/
structure FenceMark where
  kind  : FenceKind
  scope : Scope
  upTo  : Nat
  flush : Bool
deriving DecidableEq, Repr

/-- A register as an operand. -/
inductive RegRef where
  | s (n : SReg) | v (n : VReg) | p (n : PReg)
deriving DecidableEq, Repr

/-- A gang, resident or as a record (R90, R112, R114). `front` leaves out the entry `sel` that is issuing a clause;
`probing` is the word whose probe the gang waits for (R54), with its address and whether its next attempt starts anew, `opnd` and `block` the operand and the record that the
word has read, `marks` the registers that it will write once its probe passes, `probeAt` the tick and clock of the first probe of a word on an object, and `stall` the
event code of what it waits for (R377); `obsT` and `obs` are the ticks at
which what settled a register, and what the gang has observed settled, is performed beyond the core (R316, R319). -/
structure Gang where
  key      : GangKey
  ctx      : CtxId
  core     : CoreId
  place    : Place
  role     : Role
  live     : Nat
  s        : Vector DWord 64
  v        : Vector Lanes 192
  p        : Vector Mask 8
  t        : Vector TimeReg 16
  front    : List Entry
  sel      : Option Entry
  clause   : Option Clause
  lastPc   : Option Pc
  rotPoint : Bool
  fair     : Nat
  rotPend  : Bool
  round    : Option (List Pc)
  trap     : Option TrapBlk
  hmask    : Mask
  strict   : Option (TReg × BitVec 4)
  budgeted : Bool
  timedOut : Bool
  readyAt  : Nat
  wait     : Bool
  stall    : Nat
  probing  : Option (Instr × Pc × Bool)
  opnd     : DWord
  block    : List DWord
  marks    : List RegRef
  probeAt  : Nat × Nat
  pend     : List Pending
  fences   : List FenceMark
  obsT     : Vector Nat 16
  obs      : Nat
  hd       : Rec
deriving DecidableEq, Repr

/-! ## Crews and slices -/

/-- How far a crew's migration has come (R361). -/
inductive MigStage where
  | asked | stopping | moving
deriving DecidableEq, Repr

/-- A migration under way: target core, sequence number, stage, and the device time of the request (R361). -/
structure Migration where
  target : CoreId
  seq    : Word
  stage  : MigStage
  since  : Nat
deriving DecidableEq, Repr

/-- A `bar.then` registration: slot, gang index, resume PC (R202). -/
structure Registration where
  slot : BReg
  gang : Fin 32
  pc   : Pc
deriving DecidableEq, Repr

/-- A placed crew (R84, R101, R195). `partBase` and `partLen` are its scratchpad run and SCRATCH (R178, R179).
`resident` is that its context is not saved, `held` that a saved crew's partition still stands in its core (R357). -/
structure Crew where
  key      : CrewKey
  ctx      : CtxId
  index    : Word
  core     : CoreId
  partBase : Nat
  partLen  : Nat
  bars     : Nat
  bind     : Vector Nat 32
  regs     : List Registration
  reserve  : Nat
  mig      : Option Migration
  killed   : Bool
  resident : Bool
  held     : Bool
deriving DecidableEq, Repr

/-- A job slice: the launch record as the hub read it, and the slice's own counts (R81, R345, R346, R370). `limited` is
BUDGET ≠ 0 and `spent` that the slice is exhausted; `tries` counts the clocks of affinity placement (R85). -/
structure Slice where
  id       : LaunchId
  ctx      : CtxId
  record   : Vector DWord 32
  args     : Vector Word 3
  deadline : DWord
  budget   : DWord
  limited  : Bool
  count    : Nat
  acc      : DWord
  accShown : DWord
  accRem   : Nat
  nextCrew : Nat
  rr       : CoreId
  tries    : Nat
  fallback : Bool
  spent    : Bool
deriving DecidableEq, Repr

/-! ## Requests -/

/-- What a booking uses (R295, R340, R420). -/
inductive Res where
  | link (l : DieLink)
  | bank (slice : Fin 64) (b : Fin 4)
  | hbm (stack : Fin 16) (ch : Fin 32)
  | cap (ch : Fin 32)
  | decomp (stack : Fin 16)
  | hostOut | hostIn
  | fabOut (l : Fin 12) | fabIn (l : Fin 12)
  | queueUnit
deriving DecidableEq, Repr

/-- Which slots a booking may take: ordinary ones; also the reserved ones for urgent reads; only the reserved ones for
write-backs (R60, R295, R300). -/
inductive SlotClass where
  | ordinary | urgent | writeBack
deriving DecidableEq, Repr

/-- A booked slot: the resource, the tick the slot begins, the units of it that are taken (R295). -/
structure Slot where
  res   : Res
  tick  : Nat
  units : Nat
deriving DecidableEq, Repr

/-- One stage of a path (R296): the resource, the ticks between what precedes it and its arrival (after the completion of
the path so far, or, where `fromSlot` is n > 0, after the slot of the n-th stage before), a tick it may not precede, the ticks from its
slot to its completion, whether the path goes on from it (`main`) or it is booked beside the path, the units it takes,
its slot class, whether the request is performed at its completion, and its level in a report (R64). -/
structure Stage where
  res      : Res
  gap      : Nat
  fromSlot : Nat
  floor    : Nat
  done     : Nat
  main     : Bool
  units    : Nat
  cls      : SlotClass
  perf     : Bool
  level    : Level
deriving DecidableEq, Repr

/-- One lane's access (or one word's): the lane, the home address, the size, and the bytes it writes or compares with. -/
structure Piece where
  lane  : Nat
  addr  : Nat
  size  : Nat
  data  : List Byte
  data2 : List Byte
deriving DecidableEq, Repr

/-- The operations of the atomics and reductions (R287, R289). -/
inductive AtomOp where
  | add | min | max | and | or | xor | xchg | cas | inc | fadd
deriving DecidableEq, Repr

/-- The queue operations (R339). -/
inductive QueueOp where
  | push (w : Vector Word 8) | pop (d : VReg) | peek (d : VReg) | len (d : SReg) | pin | unpin
deriving DecidableEq, Repr

/-- What a request does when it is performed and when it lands (R56). -/
inductive Effect where
  | load   (dst : DataReg) (w : Width)
  | store
  | atomic (op : AtomOp) (dst : Option DataReg) (w : Width)
  | scalar (dst : SReg) (v : DWord)
  | lanes  (dst : DataReg) (w : Width)
  | arm
  | l1cfg  (count : Nat)
  | copy   (group : Fin 32)
  | engine (op : Nat)
  | queue  (op : QueueOp) (handle : QHandle)
deriving DecidableEq, Repr

/-- Where a request's home is: the home slice's line, the host, a peer, a bank of the core, or nothing outside the core. -/
inductive Home where
  | hbm (slice : Fin 64) (stack : Fin 16) (lossless : Bool)
  | cap (slice : Fin 64) (ch : Fin 32)
  | host
  | peer (dev : Fin 256)
  | core
deriving DecidableEq, Repr

/-- What a sampled instruction's requests carry (R385, R386): a number that they share, the sectors, the extra line
requests, the active lanes, the first promise, and the ticks that this request waited for its slots, level by level. -/
structure Sample where
  no      : Nat
  sectors : Nat
  extra   : Nat
  lanes   : Nat
  first   : Nat
  waits   : List Nat
deriving DecidableEq, Repr

/-- A request (R50). `prom` is its promised tick and `arrive` the tick at which it will land, `perf` the tick at which it is
performed at its point of performance and `perfDone` whether it has been; `clk` is the clock of its settling event where
that is counted in clocks (R182, R55), `pclk` that of its probe; `srcs` and `readAt` are a store's data registers and the clock in which it
reads them (R285); `held` is its held class and ticket, since tick `heldAt`; `after` the requests it is ordered behind, each
with the scope (R328); `supply` the queued stores that gave it bytes (R298); `flush` whether it is an acquire that has yet
to invalidate L1 (R321); `got` the bytes it read and `fill` the line it brings to L1; `path` and `slots` its booking. A queue request also has the
tick of the reply that its gang's probe waits for, whether the gang has it, the trap that it brings, and in `site` whether a
pop has joined the waiters (R341, R342). `withdrawn` is a held request of a saved context (R69); `orphan` that its gang has exited (R99), so that it belongs to no gang
that takes the index later; `mixed` are the registers, with their lanes, that another write has reached since the
request was made (R25). -/
structure Req where
  id       : Nat
  owner    : GangKey
  ctx      : CtxId
  core     : CoreId
  pc       : Pc
  treg     : TReg
  tracked  : Bool
  handle   : Nat
  offset   : Nat
  home     : Home
  line     : Nat
  scope    : Scope
  sem      : Sem
  effect   : Effect
  pieces   : List Piece
  srcs     : List DataReg
  readAt   : Nat
  mask     : Mask
  probed   : Nat
  pclk     : Nat
  start    : Nat
  prom     : Nat
  arrive   : Nat
  perf     : Nat
  perfDone : Bool
  clk      : Nat
  fromL1   : Bool
  site     : Bool
  urgent   : Bool
  ctype    : Byte
  got      : List (Nat × List Byte)
  fill     : List Byte
  supply   : List Nat
  flush    : Bool
  held     : Option (HeldClass × Word)
  heldAt   : Nat
  after    : List (Nat × Scope)
  path     : List Stage
  slots    : List Slot
  reply    : Nat
  replied  : Bool
  refused  : Option (Byte × Word)
  withdrawn : Bool
  orphan   : Bool
  level    : Level
  sample   : Option Sample
  mixed    : List (RegRef × Mask)
deriving DecidableEq, Repr

/-! ## Core hardware -/

/-- A line of L1 (R297): its home address, its way, its bytes, its hold count, the tick its last
booked delivery is due, its last use, and whether it is invalidated once that delivery lands. -/
structure L1Line where
  addr : Nat
  way  : Nat
  data : List Byte
  hold : Nat
  till : Nat
  used : Nat
  kill : Bool
deriving DecidableEq, Repr

/-- A line of the instruction cache: its context, its virtual address and its 32 words (R22). -/
structure ILine where
  ctx   : CtxId
  va    : Nat
  words : List Word
deriving DecidableEq, Repr

/-- A TLB entry (R278, R279): the page's virtual and physical address, its size in bits, D, and the leaf entry's place. -/
structure TlbEntry where
  ctx   : CtxId
  va    : Nat
  pa    : Nat
  bits  : Nat
  dirty : Bool
  leaf  : Nat
  used  : Nat
deriving DecidableEq, Repr

/-- An entry of the record cache (R279). -/
structure RecEntry where
  ctx    : CtxId
  handle : Nat
  used   : Nat
deriving DecidableEq, Repr

/-- An active ring entry (R204). -/
structure RingEnt where
  num  : Fin 64
  crew : CrewKey
  off  : Nat
deriving DecidableEq, Repr

/-- A monitor (R212): its number, its gang, the watched word, its size, HIT. -/
structure Monitor where
  num    : Fin 64
  gang   : GangKey
  addr   : Nat
  size   : Nat
  armed  : Bool
  hit    : Bool
deriving DecidableEq, Repr

/-- One slice of a copy command (R218), as its probe read it: source and destination, with buffers already translated
row by row when the channel books them. `dbuf` is that its own DKIND named a destination buffer, whose range was probed (R219). -/
structure CopySlice where
  index  : Nat
  gang   : GangKey
  req    : Nat
  skind  : Nat
  soff   : Nat
  doff   : Nat
  sh     : Nat
  dh     : Nat
  len    : Nat
  sMap   : List TlbEntry
  dMap   : List TlbEntry
  sRec   : Vector DWord 8
  dRec   : Vector DWord 8
  dbuf   : Bool
deriving DecidableEq, Repr

/-- A row of a command on a channel: its number, its slice and place in it; the tick its data is at the channel, the clock of its
read from a partition, the allowance of its read outside the device, the bytes read so far by their place in the row, the slots and
the number of the booking of its read; the tick of its last write to a buffer, the tick and, in a partition, the clock it is booked to
land (0 while it is not booked), the slots and the number of that booking. -/
structure CopyRow where
  no      : Nat
  slice   : Nat
  off     : Nat
  len     : Nat
  dataAt  : Nat
  dataClk : Nat
  alw     : Nat
  got     : List (Nat × List Byte)
  slots   : List Slot
  gen     : Nat
  ready   : Nat
  landAt  : Nat
  landClk : Nat
  back    : List Slot
  turn    : Nat
deriving DecidableEq, Repr

/-- A copy command (R217, R219): gathering until `complete`, its tick and clock; on a channel from `chan`, its rows in landing order.
`halt` is that a save has stopped it, or that its destination is saved: it books nothing beyond the row in progress (R229). -/
structure CopyCmd where
  group    : Fin 32
  crew     : CrewKey
  slices   : Nat
  bv       : Bool
  bar      : BReg
  dkind    : Nat
  dcore    : Nat
  dcrew    : BitVec 16
  ring     : Nat
  rel      : Bool
  scope    : Scope
  parts    : List CopySlice
  complete : Option (Nat × Nat)
  entry    : Bool
  chan     : Option (Fin 8)
  resume   : Bool
  halt     : Bool
  rows     : List CopyRow
  landed   : Nat
  fillDone : Nat
  holding  : Bool
  done     : Bool
deriving DecidableEq, Repr

/-- The staged term operand (R233, R236, R238, R239): elements by column, raw block scales, element type, census. -/
structure TermOp where
  slot   : Fin 8
  k      : Nat
  n      : Nat
  typ    : Byte
  spn    : Nat
  elems  : List (List (Nat × Nat))
  scales : List (List Nat)
  census : List (List Nat)
deriving DecidableEq, Repr

/-- The staged plane operand (R233, R235): elements by row, raw block scales. -/
structure PlaneOp where
  slot   : Fin 8
  m      : Nat
  k      : Nat
  typ    : Byte
  elems  : List (List Int)
  scales : List (List Nat)
deriving DecidableEq, Repr

/-- The kinds of lapidary operation (R251). -/
inductive LapKind where
  | mldA (m k : Nat) | mldB (k n : Nat) (smooth : Bool)
  | mma (m n k r : Nat) (acc : Bool)
  | mdrain (m n dest : Nat) (stride : Nat)
  | mzero
deriving DecidableEq, Repr

/-- An accepted lapidary operation (R234): its request, its format slot, the walk it captured, the clocks of its probe, of
its start F and of its completion, the bytes that a staging has read, the plane waits of an `mma` so far, the offset of its
parameter block, and the clocks of a throttle since it began (R247). -/
structure LapOp where
  id      : Nat
  req     : Nat
  gang    : GangKey
  kind    : LapKind
  fslot   : Vector DWord 2
  slotNo  : Fin 8
  walk    : Vector DWord 4
  arg     : Nat
  probe   : Nat
  begin   : Nat
  finish  : Nat
  started : Bool
  got     : List Byte
  waits   : Nat
  lost    : Nat
deriving DecidableEq, Repr

/-- The lapidary of a core for one context (R233, R246), and the crew that issued the last accepted operation (R361).
Accumulator cell 256 m + n. `loading` is that its image moves to or from a save area (R248, R249); `stop` is block B of the running
`mma` of a save or a migration, with the clock in which its resume k is written (R248); `gateTill` the last clock that a throttle
gates (R247). -/
structure Lapidary where
  acc      : List (Nat × Word)
  term     : Option TermOp
  plane    : Option PlaneOp
  slots    : Vector (Vector DWord 4) 4
  counters : Vector DWord 5
  ops      : List LapOp
  last     : Option CrewKey
  loading  : Bool
  stop     : Option (Nat × Nat)
  gateTill : Nat
deriving DecidableEq, Repr

/-- An event counter (R376, R381): selector, the launch that LF names, COUNT, OVF, RUN. For the same-clock rules of R379
it keeps the first clock whose events count while it runs, the clock before which events count although it is stopped, the
last clock in which it changed with COUNT, OVF and RUN as they stood before that clock, whether it wrapped in it, and the
registers that `ctrr` wrote in it. -/
structure Counter where
  sel     : BitVec 21
  owner   : LaunchId
  count   : BitVec 48
  ovf     : Bool
  run     : Bool
  first   : Nat
  till    : Nat
  clk     : Nat
  before  : BitVec 48
  ovf0    : Bool
  run0    : Bool
  wrapped : Bool
  readers : List (GangKey × SReg)
deriving DecidableEq, Repr

/-- The trace registers (R384) and the count of sampled instructions (R385). -/
structure Trace where
  base   : DWord
  ctl    : DWord
  writes : Word
  drops  : Word
  read   : Word
  seen   : Nat
deriving DecidableEq, Repr

/-- The state of a core that belongs to one context and changes places with it (R357, R358). `highWas` is the value of
CONT_STAT.HIGH before the reads of the tick before `highAt` cleared it (R6). -/
structure CoreCtx where
  conv     : Nat
  conflict : Word
  confNew  : List (Nat × Nat)
  lap      : Lapidary
  ev       : Vector Counter 16
  brkc     : Vector Word 8
  trc      : Trace
  rings    : List RingEnt
  mons     : List Monitor
  cmds     : List CopyCmd
  high     : Nat
  highWas  : Nat
  highAt   : Nat
  spills   : Word
  ringHead : Nat
  ringTail : Nat
deriving DecidableEq, Repr

/-- A switch under way on a core (R357): the incoming context, and whether a command asked for it. -/
structure Switch where
  incoming : Option CtxId
  cmd      : Bool
deriving DecidableEq, Repr

/-- A spill under way (R357 step 3): the outgoing context, the device time of its last progress, whether a command waits for
it. -/
structure Spill where
  ctx  : CtxId
  last : Nat
  cmd  : Bool
deriving DecidableEq, Repr

/-- One core (R9, R14, R177, R297, R217, R233). `lapHeld` is the saved context whose lapidary has not gone to its save area yet
(R357 step 4); `stopped` is that its quarters have stopped for a switch (R357), `since` the
number of its first clock after it left reset (R97). -/
structure Core where
  active   : Option CtxId
  shadow   : Option CtxId
  stopped  : Bool
  swap     : Option Switch
  spill    : Option Spill
  cc       : CoreCtx
  l1       : List L1Line
  icache   : List ILine
  tlb      : List TlbEntry
  recs     : List RecEntry
  spad     : List Host.Cell
  zeroing  : List (Nat × Nat)
  laneFree : Nat
  laneHold : Nat
  plane    : List Nat
  storeFree: Nat
  draining : List (GangKey × Fin 4 × Nat)
  seq      : Word
  limit    : Byte
  temp     : Byte
  armed    : Bool
  hangMark : Nat
  gated    : Bool
  since    : Nat
  lapHeld  : Option CtxId
deriving DecidableEq, Repr

/-! ## Clocks, hierarchy, contexts, hub -/

/-- A compute die's core clock (R3, R97, R372): frequency code, phase against the ticks in MHz, the number of the tick's
first clock, the clock edges in this tick, and the end of a frequency hold. -/
structure Die where
  freq  : BitVec 6
  phase : Nat
  clk   : Nat
  edge  : Nat
  hold  : Nat
deriving DecidableEq, Repr

/-- The time base and its registers (R46, R47, R372, R374, R375). -/
structure Clocks where
  now      : Nat
  dies     : Vector Die 4
  clkStep  : DWord
  clkGrp   : BitVec 16
  timeAdj  : DWord
  rate     : Word
  steps    : Nat
  timeLog  : DWord
  timeWr   : DWord
  ptpIn    : DWord
  ptpOut   : DWord
deriving DecidableEq, Repr

/-- A line of an L2 slice (R299): its home address, valid and dirty sectors, sectors written since it came in, hold count, the tick its last
booked delivery is due, recency, the tick its booked fill completes, tolerant element type (0 none), whether it lies in a buffer with
lossless compression (R301), and the bytes below it while it is dirty. -/
structure L2Line where
  slice  : Fin 64
  addr   : Nat
  valid  : BitVec 4
  dirty  : BitVec 4
  fresh  : BitVec 4
  hold   : Nat
  till   : Nat
  used   : Nat
  fill   : Nat
  cap    : Option (Fin 32)
  ctype  : Byte
  lossless : Bool
  below  : List Byte
deriving DecidableEq, Repr

/-- A victim waiting for its write-back slot (R300). -/
structure Victim where
  line : L2Line
  slot : Nat
deriving DecidableEq, Repr

/-- A sector of the memory-side cache (R307, R309): its index, V, D, TAG, and the base die's booking. -/
structure Sector where
  idx     : Nat
  valid   : Bool
  dirty   : Bool
  tag     : BitVec 4
  target  : BitVec 4
  release : Nat
deriving DecidableEq, Repr

/-- One HBM5 stack's registers (R304, R305, R392): HBM_DEAD, the dead ranges, the skip bits, the 16 ms window. -/
structure Stack where
  deadReg : DWord
  dead    : List Nat
  skip    : List Nat
  hot     : Bool
deriving DecidableEq, Repr

/-- The memory hierarchy beyond the cores (R295 to R311). `states` are the states of blocks of 512 bytes that are not plain (R301),
`fails` bytes with an uncorrectable error (R312). -/
structure Hier where
  slots   : List Slot
  l2      : List L2Line
  victims : List Victim
  msc     : List Sector
  stks  : Vector Stack 16
  spanTlb : Vector (List TlbEntry) 64
  states  : List (Nat × BitVec 2)
  fails   : List (Nat × Nat × Word)
deriving DecidableEq, Repr

/-- A context as the hub keeps it (R349): the 16 doublewords of its record, the record's address, the logical core map
(R13), the revoked handles (R356), and the pages requested from the steward (R280). -/
structure Ctx where
  id      : CtxId
  record  : Vector DWord 16
  addr    : Nat
  map     : Vector CoreId 256
  revoked : List Nat
  pages   : List (Nat × Word)
  killing : Bool
  resolved : List (HeldClass × Word)
deriving DecidableEq, Repr

/-- A record in a resident slot: its words, and for a refill in flight the tick at which it lands (R335, R336). -/
structure QRec where
  words : Vector Word 8
  due   : Nat
deriving DecidableEq, Repr

/-- How far a resident slot's queue has come (R337): being read in, resident, being written out. -/
inductive QPhase where
  | reading | ready | leaving
deriving DecidableEq, Repr

/-- A queue in a resident slot (R335, R336): its records there, HEAD and TAIL, the requests of its waiting poppers in order
(R342), the tick of its last access (R337). -/
structure Queue where
  ctx     : CtxId
  handle  : QHandle
  phase   : QPhase
  recs    : List QRec
  head    : Word
  tail    : Word
  waiters : List Nat
  used    : Nat
deriving DecidableEq, Repr

/-- The hub's queue unit (R335 to R344): the resident slots, the pinned queues, the host pushes that wait for a swap-in, the
queues that wait for a slot. -/
structure Queues where
  resident : List Queue
  pins     : List (CtxId × QHandle)
  hostWait : List (CtxId × QHandle × Vector Word 8)
  wanted   : List (CtxId × QHandle)
deriving DecidableEq, Repr

/-- A trade of watts (R368): the peer, whether this device gives, and what was agreed. -/
structure Trade where
  peer    : Fin 256
  giver   : Bool
  sq      : Word
  watts   : BitVec 16
  first   : BitVec 48
  periods : BitVec 16
  acked   : Bool
  firm    : Bool
deriving DecidableEq, Repr

/-- The power arbiter (R364 to R371). Consumers 0 to 3 dies, 4 hub, 5 to 20 stacks, 21 capacity tier. -/
structure Power where
  lic     : BitVec 16
  licNext : BitVec 16
  eff     : BitVec 16
  net     : BitVec 16
  offer   : DWord
  tokLog  : DWord
  tokWr   : DWord
  sq      : Word
  trades  : List Trade
  engTbl  : DWord
  unattr  : DWord
  left    : Nat
  round   : Nat
  grants  : Vector Nat 22
  demands : Vector Nat 22
  used    : Vector Nat 22
  step    : Vector Nat 22
deriving DecidableEq, Repr

/-- A mailbox (R389): its doorbell word and its message bytes; the ticks at which HOST and DEV were last set, and the doorbell
before the clears of the tick before `clrAt` (R6). -/
structure Mailbox where
  bell   : Word
  msg    : List Host.Cell
  hostAt : Nat
  devAt  : Nat
  was    : Word
  clrAt  : Nat
deriving DecidableEq, Repr

/-- An entry of a peer export table (R397). -/
structure Export where
  src   : Fin 256
  ctx   : CtxId
  base  : Nat
  len   : Nat
  r     : Bool
  w     : Bool
  a     : Bool
deriving DecidableEq, Repr

/-- Host, fabric and start-up registers (R388 to R403). `stuck` are the links that stay down until the steward restarts them;
`aperture` maps 1 GiB pages of BAR 4; `pushLog` counts the accesses of the host that were logged and not performed; `hostPerf` is
the tick at which the last posted write of the host is performed; `readBack` is what the last register read returned and
`hostData` what the last host or peer read of memory returned. -/
structure Sys where
  bootCfg  : DWord
  bootNext : DWord
  ready    : DWord
  lc       : BitVec 2
  ext      : Byte
  reports  : Word
  meas     : Vector (BitVec 512) 8
  nonces   : List (BitVec 512)
  lastRep  : List Host.Cell
  boxes    : Vector Mailbox 8
  msix     : Byte
  fabId    : Byte
  route    : Vector (BitVec 12) 256
  fabAlw   : Vector Word 12
  hostAlw  : Word
  links    : BitVec 12
  stuck    : BitVec 12
  exports  : List Export
  aperture : List (Nat × Nat)
  errLog   : DWord
  errWr    : DWord
  errcDie  : Vector Word 4
  errcHub  : Word
  errcHbm  : Vector Word 16
  errcCap  : Vector Word 32
  ctxCmd   : DWord
  ctxArg0  : DWord
  ctxArg1  : DWord
  pushLog  : Nat
  hostPerf : Nat
  readBack : DWord
  hostData : List Byte
deriving DecidableEq, Repr

/-! ## The agenda -/

/-- What an event acts on, put here by the agenda entry that brings it about; `clk` is the clock of a core in which it comes due,
where it is counted in clocks (R3). -/
structure EvArg where
  core   : CoreId
  key    : GangKey
  launch : LaunchId
  req    : Nat
  ctx    : CtxId
  handle : QHandle
  treg   : TReg
  die    : DieLink
  cause  : BreakCause
  level  : Level
  cls    : HeldClass
  ticket : Word
  flag   : Bool
  n      : Nat
  m      : Nat
  v      : DWord
  wide   : BitVec 512
  words  : Vector Word 8
  bytes  : List Byte
  write  : Bool
  place  : EccPlace
  kind   : EccKind
  reg    : CtrlAddr
  pairs  : List (Nat × Nat)
  clk    : Option (CoreId × Nat)
deriving DecidableEq, Repr

/-- What the agenda brings about: an event row, the performance of a read at its point of
performance, the tag read of a memory-side cache sector (R308), the read or the write of a line of a copy row (R223), a
plane-port read of a staging operation (R269), a write of the hub to memory at its home; the booking of a record's lines on
their way to the overflow ring, the write of one of them (R417), the delivery of a line that no request waits for (R59); the end of
the walk of a held request that is probed again (R280); the rows of a copy booked again behind what they follow (R226); the test of a
barrier slot after the landings and arrivals of a clock (R216). -/
inductive Task where
  | ev (i : Instr)
  | perform
  | tagRead
  | rowRead
  | rowWrite
  | stageRead
  | hubWrite
  | ringOut
  | ringWrite
  | lineDone
  | reprobe
  | copyAgain
  | barTest
deriving DecidableEq, Repr

/-- An agenda entry: the device time at which it comes due, its rank among entries of one tick (0 reads of scratchpad, 1 ring
words, 2 landings of copies, 3 everything else, 4 timeouts and barrier tests, 5 a `bar.wait`: R184, R194, R214, R216), the task, what
it acts on. -/
structure Due where
  tick : Nat
  rank : Nat
  task : Task
  arg  : EvArg
deriving DecidableEq, Repr

/-- A break that has been reported: its gang and register, tick and clock, level, request, the place of its record and the record (R65). -/
structure Noted where
  key   : GangKey
  reg   : TReg
  time  : Nat × Nat
  level : Nat
  req   : Nat
  at_   : Nat
  image : List DWord
deriving DecidableEq, Repr

/-- The model's own fields (assumption rows 6 and 8): the next request number (from 1), the free-value counter, the gang now
issuing, the place in the round of issue within the tick (round, position of core and quarter), and the quarters that have
issued in the present clock, with their gangs; the hub's next launch id and migration number (R419); the ticks from which
the hub may next place crews (R85) and take a record (R345); the breaks reported in the present clock (R65). -/
structure Model where
  nextReq : Nat
  free    : Nat
  cur     : GangKey
  round   : Nat
  pos     : Nat
  issued  : List (CoreId × Fin 4 × GangKey)
  launch  : LaunchId
  migSeq  : Word
  placing : Nat
  taking  : Nat
  noted   : List Noted
deriving DecidableEq, Repr

/-- The whole device. -/
structure State where
  time   : Clocks
  mem    : List Host.Cell
  hier   : Hier
  cores  : Vector Core 256
  saved  : List (CtxId × CoreId × CoreCtx)
  gangs  : List Gang
  crews  : List Crew
  slices : List Slice
  reqs   : List Req
  ctxs   : List Ctx
  queues : Queues
  power  : Power
  sys    : Sys
  agenda : List Due
  arg    : EvArg
  own    : Model
deriving DecidableEq, Repr

/-! ## Stops -/

/-- Why a run stops with a fault. -/
inductive Fault where
  /-- Raised by an instruction row when no gang is mid-clause at the issuing place: no hardware state corresponds
  (only `step` dispatches words, and it sets the gang first). Safe: no next state is claimed. -/
  | noIssuingGang
deriving DecidableEq, Repr

/-- Why a step is refused. -/
inductive Refusal where
  /-- Raised by a dispatch arm whose instruction has no meaning in the model yet. Safe: no next state is claimed. -/
  | notModelled (mnemonic : String)
deriving DecidableEq, Repr

/-! ## Reset -/

/-- A time register at its reset value (R49). -/
def TimeReg.reset : TimeReg := ⟨0, false, 0⟩

/-- A record header with nothing in it. -/
def Rec.reset : Rec := ⟨1, 0, 8, 0, 0, 0, 0, 0, false, false, false, none, false, [], none⟩

/-- A trace unit that is off (R384). -/
def Trace.reset : Trace := ⟨0, 0, 0, 0, 0, 0⟩

/-- A lapidary of a context that has just been created (R233). -/
def Lapidary.reset : Lapidary :=
  ⟨[], none, none, Vector.replicate 4 (Vector.replicate 4 0), Vector.replicate 5 0, [], none, false, none, 0⟩

/-- An event counter of a context that has just been created (R376). -/
def Counter.reset : Counter := ⟨0, 0, 0, false, false, 0, 0, 0, 0, false, false, false, []⟩

/-- The per-context state of a core for a context that has just been created (R177, R233, R376). -/
def CoreCtx.reset : CoreCtx :=
  ⟨0, 0, [], Lapidary.reset, Vector.replicate 16 Counter.reset, Vector.replicate 8 0, Trace.reset, [], [], [], 0, 0, 0, 0, 0, 0⟩

/-- A core after reset: idle, its SRAMs wiped (R398), THERM at 95 (R392). -/
def Core.reset : Core :=
  ⟨none, none, false, none, none, CoreCtx.reset, [], [], [], [], [], [], 0, 0, [], 0, [], 0, 95, 0, true, 0, false, 0, none⟩

/-- A die's clock after reset: 2.0 GHz, FREQ 48 (R372). -/
def Die.reset : Die := ⟨48, 0, 0, 1, 0⟩

/-- The time base after reset: device time 0 (R46), CLK_STEP idle with FREQ 48 (R372). -/
def Clocks.reset : Clocks :=
  ⟨0, Vector.replicate 4 Die.reset, 0x3000000000000000, 0, 0, 0, 0, 0, 0, 0, 0⟩

/-- A stack after reset: every range live (R305), no skip bit (R392), the 32 ms window (R304). -/
def Stack.reset : Stack := ⟨0, [], [], false⟩

/-- The hierarchy after reset: nothing cached, nothing booked, every cache sector invalid (R306, R398). -/
def Hier.reset : Hier :=
  ⟨[], [], [], [], Vector.replicate 16 Stack.reset, Vector.replicate 64 [], [], []⟩

/-- The arbiter after reset: EFF and LIC 1,500 (R367). -/
def Power.reset : Power :=
  ⟨1500, 1500, 1500, 0, 0, 0, 0, 0, [], 0, 0, 1500, 0, Vector.replicate 22 0, Vector.replicate 22 0, Vector.replicate 22 0,
    Vector.replicate 22 0⟩

/-- Host, fabric and start-up registers after reset (R389, R392, R396, R399, R400, R402). -/
def Sys.reset : Sys :=
  { bootCfg := 0, bootNext := 0, ready := 0, lc := 1, ext := 0, reports := 0, meas := Vector.replicate 8 0, nonces := []
    lastRep := [], boxes := Vector.replicate 8 ⟨0, [], 0, 0, 0, 0⟩, msix := 0, fabId := 0, route := Vector.replicate 256 0
    fabAlw := Vector.replicate 12 20000, hostAlw := 20000, links := 0xFFF, stuck := 0, exports := [], aperture := [], errLog := 0
    errWr := 0, errcDie := Vector.replicate 4 0, errcHub := 0, errcHbm := Vector.replicate 16 0
    errcCap := Vector.replicate 32 0, ctxCmd := 0, ctxArg0 := 0, ctxArg1 := 0, pushLog := 0, hostPerf := 0, readBack := 0, hostData := [] }

/-- An event argument with nothing in it. -/
def EvArg.none : EvArg :=
  { core := 0, key := ⟨0, 0, 0⟩, launch := 0, req := 0, ctx := 0, handle := 0, treg := 0, die := ⟨.hub, .hub⟩
    cause := .reRead, level := 0, cls := .page, ticket := 0, flag := false, n := 0, m := 0, v := 0, wide := 0
    words := Vector.replicate 8 0, bytes := [], write := false, place := .hubSram, kind := .corrected, reg := .hub 0
    pairs := [], clk := Option.none }

/-- The model's own fields at reset (assumption rows 6 and 8); launch ids and migration numbers start at 0 (R419). -/
def Model.reset : Model := ⟨1, 0, ⟨0, 0, 0⟩, 0, 0, [], 0, 0, 0, 0, []⟩

/-- The machine right after reset (R398, R419): everything wiped, device time 0. The agenda holds the first token period
and arbiter round, which begin at multiples of their lengths (R364, R365). -/
def State.reset : State :=
  { time := Clocks.reset, mem := [], hier := Hier.reset, cores := Vector.replicate 256 Core.reset, saved := []
    gangs := [], crews := [], slices := [], reqs := [], ctxs := [], queues := ⟨[], [], [], []⟩, power := Power.reset
    sys := Sys.reset
    agenda := [⟨20000, 3, .ev .arbiterRound, EvArg.none⟩, ⟨2000000, 3, .ev .tokenPeriodBoundary, EvArg.none⟩]
    arg := EvArg.none, own := Model.reset }

end Sys2Proof.Machine
end

