-- ==== Sys2Proof/Machine/Cells.lean ====
section
/-!
DEFINITION. Byte memories as sorted lists of cells, little-endian access (R2), and small list helpers. An address that
is not listed reads as zero: every memory of the device is wiped at reset (R178, R398; assumption row 1).
-/
namespace Sys2Proof.Machine

/-- The byte at `a`. -/
def memGet : List Host.Cell → Nat → Byte
  | [], _ => 0
  | (k, b) :: m, a => if k = a then b else memGet m a

/-- Memory with byte `b` at `a`; a zero is not listed. -/
def memSet : List Host.Cell → Nat → Byte → List Host.Cell
  | [], a, b => if b = 0 then [] else [(a, b)]
  | (k, c) :: m, a, b =>
    if a < k then (if b = 0 then (k, c) :: m else (a, b) :: (k, c) :: m)
    else if a = k then (if b = 0 then m else (a, b) :: m)
    else (k, c) :: memSet m a b

/-- The canonical form: addresses strictly rising, no zero listed. -/
def Memory.wf : List Host.Cell → Bool
  | [] => true
  | (k, b) :: m => b != 0 && (match m with | [] => true | (k', _) :: _ => k < k') && Memory.wf m

/-- `n` bytes from `a` upward. -/
def memBytes (m : List Host.Cell) (a n : Nat) : List Byte := (List.range n).map fun i => memGet m (a + i)

/-- Memory with the bytes `bs` from `a` upward. -/
def memWrite : List Host.Cell → Nat → List Byte → List Host.Cell
  | m, _, [] => m
  | m, a, b :: bs => memWrite (memSet m a b) (a + 1) bs

/-- Memory with zeros in `[a, a + n)`. -/
def memZero (m : List Host.Cell) (a n : Nat) : List Host.Cell := m.filter fun c => c.1 < a || a + n ≤ c.1

/-- The cells of `[a, a + n)`, moved so that `a` becomes `b`. -/
def memSlice (m : List Host.Cell) (a n b : Nat) : List Host.Cell :=
  (m.filter fun c => a ≤ c.1 && c.1 < a + n).map fun c => (c.1 - a + b, c.2)

/-- Writes a list of cells. -/
def memPut : List Host.Cell → List Host.Cell → List Host.Cell
  | m, [] => m
  | m, c :: cs => memPut (memSet m c.1 c.2) cs

/-- The number that a little-endian byte string holds (R2). -/
def leNat : List Byte → Nat
  | [] => 0
  | b :: bs => b.toNat + 256 * leNat bs

/-- `n` bytes of a number, little-endian (R2). -/
def natLe : Nat → Nat → List Byte
  | 0, _ => []
  | n + 1, x => BitVec.ofNat 8 x :: natLe n (x / 256)

/-- The word at `a`. -/
def memWord (m : List Host.Cell) (a : Nat) : Word := BitVec.ofNat 32 (leNat (memBytes m a 4))
/-- The doubleword at `a`. -/
def memDWord (m : List Host.Cell) (a : Nat) : DWord := BitVec.ofNat 64 (leNat (memBytes m a 8))
/-- Memory with a doubleword at `a`. -/
def memSetDWord (m : List Host.Cell) (a : Nat) (v : DWord) : List Host.Cell := memWrite m a (natLe 8 v.toNat)
/-- Memory with a word at `a`. -/
def memSetWord (m : List Host.Cell) (a : Nat) (v : Word) : List Host.Cell := memWrite m a (natLe 4 v.toNat)

/-- Bits `[hi:lo]` of a doubleword, as a number (R1's bit ranges). -/
def bits (x : DWord) (hi lo : Nat) : Nat := x.toNat / 2 ^ lo % 2 ^ (hi - lo + 1)

/-- A doubleword with bits `[hi:lo]` replaced. -/
def setBits (x : DWord) (hi lo v : Nat) : DWord :=
  let w := hi - lo + 1
  BitVec.ofNat 64 (x.toNat - x.toNat / 2 ^ lo % 2 ^ w * 2 ^ lo + v % 2 ^ w * 2 ^ lo)

/-- The value sign-extended from 32 bits, as an integer. -/
def sext32 (x : Word) : Int := x.toInt

/-- Ceiling of `a / b`. -/
def ceilDiv (a b : Nat) : Nat := (a + b - 1) / b

/-- The number of bits set in a word. -/
def popcount {n : Nat} (x : BitVec n) : Nat := ((List.range n).filter fun i => x.getLsbD i).length

/-- The lanes of a mask, ascending. -/
def lanesOf (m : Mask) : List Nat := (List.range 32).filter fun i => m.getLsbD i

/-- The first list element that `lt` ranks before every other one (the earlier in the list on a tie). -/
def firstBy {α : Type} (lt : α → α → Bool) : List α → Option α
  | [] => none
  | a :: as => match firstBy lt as with
    | none => some a
    | some b => if lt b a then some b else some a

/-- Stable insertion into a sorted list. -/
def insertBy {α : Type} (lt : α → α → Bool) (a : α) : List α → List α
  | [] => [a]
  | b :: bs => if lt a b then a :: b :: bs else b :: insertBy lt a bs

/-- Stable sort. -/
def sortBy {α : Type} (lt : α → α → Bool) : List α → List α
  | [] => []
  | a :: as => insertBy (fun x y => !lt y x) a (sortBy lt as)

/-- A vector entry by number, the last entry standing for numbers outside it. -/
def vget {α : Type} {n : Nat} (v : Vector α (n + 1)) (i : Nat) : α := v[min i n]'(by omega)

/-- A vector with entry `i` replaced; numbers outside it change nothing. -/
def vset {α : Type} {n : Nat} (v : Vector α n) (i : Nat) (a : α) : Vector α n := v.setIfInBounds i a

end Sys2Proof.Machine
end

