-- ==== Sys2Proof/Machine/Access.lean ====
section
/-!
DEFINITION. Accessors of the state: device time and clocks (R3, R46, R48), cores, gangs, crews, slices, contexts, the
agenda, free values. Every reader and writer of these goes through here.
-/
namespace Sys2Proof.Machine

/-! ## Numbers of units (R10) -/

/-- The compute die of a core. -/
def dieOf (c : CoreId) : Fin 4 := ⟨c.val / 64, by omega⟩
/-- The span of a core, which is also the number of the L2 slice it shares. -/
def spanOf (c : CoreId) : Fin 64 := ⟨c.val / 4, by omega⟩
/-- The stack group of a core, which is also the number of its nearest HBM5 stack. -/
def stackOf (c : CoreId) : Fin 16 := ⟨c.val / 16, by omega⟩
/-- The die of an L2 slice. -/
def dieOfSlice (l : Fin 64) : Fin 4 := ⟨l.val / 16, by omega⟩
/-- The die of an HBM5 stack. -/
def dieOfStack (k : Fin 16) : Fin 4 := ⟨k.val / 4, by omega⟩
/-- A core number from any number (R10). -/
def coreNo (n : Nat) : CoreId := ⟨n % 256, Nat.mod_lt _ (by decide)⟩

/-! ## Time -/

/-- 56-bit tick of a device time (R48). -/
def tickOf (t : Nat) : Tick := BitVec.ofNat 56 t
/-- `later(a, b)` of R48. -/
def later (a b : Tick) : Bool := let d := (a - b).toNat; 1 ≤ d && d ≤ 2 ^ 55 - 1
/-- The tick that stands for never (R48). -/
def never : Tick := BitVec.allOnes 56
/-- Order of ticks with never last (R48). -/
def tickAfter (a b : Tick) : Bool := if b = never then false else if a = never then true else later a b
/-- A tick recorded in a record: never is recorded as one less (R48). -/
def recordable (t : Tick) : Tick := if t = never then never - 1 else t

/-- The fields of a context record that the steward may write while the context is resident (R349), from memory. -/
def Ctx.refresh (c : Ctx) (m : List Host.Cell) : Ctx :=
  let r := c.record
  { c with record := (((r.set 0 (setBits r[0] 47 0 (bits (memDWord m c.addr) 47 0))).set 9 (memDWord m (c.addr + 72))).set 11
      (setBits r[11] 1 0 (bits (memDWord m (c.addr + 88)) 1 0))).set 12 (memDWord m (c.addr + 96)) }

namespace State

/-- Device time in ticks since reset. -/
def now (s : State) : Nat := s.time.now
/-- The 64-bit device time (R46). -/
def time64 (s : State) : DWord := BitVec.ofNat 64 s.time.now
/-- `dist(a)` of R48 at the present device time. -/
def dist (s : State) (a : Tick) : Int := (a - tickOf s.now).toInt
/-- Whether device time has reached tick `a` (R48); never is not reached. -/
def reached (s : State) (a : Tick) : Bool := a != never && s.dist a ≤ 0
/-- The device time, from now on, at which a 56-bit tick comes (now when it has passed). -/
def whenTick (s : State) (a : Tick) : Nat := s.now + (s.dist a).toNat

/-- The clock domain of a core. -/
def die (s : State) (c : CoreId) : Die := s.time.dies[dieOf c]
/-- Core clock in MHz (R372). -/
def mhz (s : State) (c : CoreId) : Nat := 800 + 25 * (s.die c).freq.toNat
/-- The number of the present clock of a core: the clock whose edge fell last. -/
def clock (s : State) (c : CoreId) : Nat :=
  let d := s.die c
  if d.edge = 0 then d.clk - 1 else d.clk + min s.own.round (d.edge - 1)
/-- Ticks of `n` clocks at the core's present frequency, rounded up (R3). -/
def ticksOf (s : State) (c : CoreId) (n : Nat) : Nat := ceilDiv (n * 2000) (s.mhz c)
/-- The edges that a core's die still has in the present tick. -/
def edgesHere (s : State) (c : CoreId) : Nat := (s.die c).edge - 1 - s.own.round
/-- The edges of a core's die after the present tick up to tick `t`, by the die's phase; a die in a hold has its next edge where the
hold ends (R3, R372). -/
def edgesBy (s : State) (c : CoreId) (t : Nat) : Nat :=
  let d := s.die c
  if s.now < d.hold then (if t < d.hold then 0 else 1 + (t - d.hold) * s.mhz c / 2000)
  else (d.phase + (t - s.now) * s.mhz c) / 2000
/-- The device time of clock `n` of a core: the tick in which its edge falls (R3), or now where it has come. -/
def edgeTick (s : State) (c : CoreId) (n : Nat) : Nat :=
  let d := s.die c
  let m := n - s.clock c - s.edgesHere c
  if m = 0 then s.now
  else if s.now < d.hold then d.hold + ceilDiv ((m - 1) * 2000) (s.mhz c)
  else s.now + ceilDiv (m * 2000 - d.phase) (s.mhz c)
/-- The device time `n` clocks from now (R3); in a frequency hold the next clock begins where the hold ends (R372). -/
def afterClocks (s : State) (c : CoreId) (n : Nat) : Nat :=
  if s.now < (s.die c).hold then (s.die c).hold + s.ticksOf c (n - 1) else s.now + s.ticksOf c n

/-! ## Top-level fields -/

def setTime (s : State) (x : Clocks) : State := { s with time := x }
def setMem (s : State) (x : List Host.Cell) : State := { s with mem := x }
def setHier (s : State) (x : Hier) : State := { s with hier := x }
def setCores (s : State) (x : Vector Core 256) : State := { s with cores := x }
def setSaved (s : State) (x : List (CtxId × CoreId × CoreCtx)) : State := { s with saved := x }
def setGangs (s : State) (x : List Gang) : State := { s with gangs := x }
def setCrews (s : State) (x : List Crew) : State := { s with crews := x }
def setSlices (s : State) (x : List Slice) : State := { s with slices := x }
def setReqs (s : State) (x : List Req) : State := { s with reqs := x }
def setCtxs (s : State) (x : List Ctx) : State := { s with ctxs := x }
def setQueues (s : State) (x : Queues) : State := { s with queues := x }
def setPower (s : State) (x : Power) : State := { s with power := x }
def setSys (s : State) (x : Sys) : State := { s with sys := x }
def setAgenda (s : State) (x : List Due) : State := { s with agenda := x }
def setArg (s : State) (x : EvArg) : State := { s with arg := x }
def setOwn (s : State) (x : Model) : State := { s with own := x }

/-! ## Agenda and free values -/

/-- Puts an entry on the agenda, after every entry that is due no later by tick and rank. -/
def scheduleTask (s : State) (d : Due) : State :=
  s.setAgenda (insertBy (fun x y => x.tick < y.tick || (x.tick = y.tick && x.rank < y.rank)) d s.agenda)

/-- Puts an event on the agenda with the common rank. -/
def schedule (s : State) (tick : Nat) (i : Instr) (a : EvArg) : State := s.scheduleTask ⟨tick, 3, .ev i, a⟩

/-- Puts an entry on the agenda for clock `n` of a core (R3): its tick is that of the clock's edge. -/
def dueIn (s : State) (c : CoreId) (n rank : Nat) (t : Task) (a : EvArg) : State :=
  s.scheduleTask ⟨s.edgeTick c n, rank, t, { a with clk := some (c, n) }⟩

/-- Puts an event on the agenda `n` clocks of a core after the present one. -/
def inClocks (s : State) (c : CoreId) (n : Nat) (i : Instr) (a : EvArg) : State := s.dueIn c (s.clock c + n) 3 (.ev i) a

/-- Whether the time of an agenda entry has come: its tick, and its clock where it has one. -/
def comes (s : State) (d : Due) : Bool :=
  d.tick ≤ s.now && (match d.arg.clk with | some (k, n) => n ≤ s.clock k | none => true)

/-- Takes agenda entries away. -/
def unschedule (s : State) (drop : Due → Bool) : State := s.setAgenda (s.agenda.filter fun d => !drop d)

/-- The number of a fresh free value (assumption row 6). -/
def freeNo (s : State) : Nat := s.own.free
/-- The state with `n` free values used. -/
def useFree (s : State) (n : Nat) : State := s.setOwn { s.own with free := s.own.free + n }

/-! ## Cores -/

def core (s : State) (c : CoreId) : Core := s.cores[c]
def setCore (s : State) (c : CoreId) (x : Core) : State := s.setCores (s.cores.set c x)
/-- The active context's state on a core. -/
def cc (s : State) (c : CoreId) : CoreCtx := (s.core c).cc
def setCc (s : State) (c : CoreId) (x : CoreCtx) : State := s.setCore c { s.core c with cc := x }

/-! ## Gangs -/

/-- The gang of a key. -/
def gang? (s : State) (k : GangKey) : Option Gang := s.gangs.find? fun g => g.key = k
/-- Replaces the gang of the same key. -/
def putGang (s : State) (g : Gang) : State := s.setGangs (s.gangs.map fun x => if x.key = g.key then g else x)
/-- Adds a gang behind the others. -/
def addGang (s : State) (g : Gang) : State := s.setGangs (s.gangs ++ [g])
/-- Takes a gang away. -/
def dropGang (s : State) (k : GangKey) : State := s.setGangs (s.gangs.filter fun g => g.key != k)
/-- Replaces every gang by its image. -/
def mapGangs (s : State) (f : Gang → Gang) : State := s.setGangs (s.gangs.map f)

/-! ## Crews, slices, contexts, requests -/

def crew? (s : State) (k : CrewKey) : Option Crew := s.crews.find? fun c => c.key = k
def putCrew (s : State) (c : Crew) : State := s.setCrews (s.crews.map fun x => if x.key = c.key then c else x)
def slice? (s : State) (l : LaunchId) : Option Slice := s.slices.find? fun c => c.id = l
def putSlice (s : State) (c : Slice) : State := s.setSlices (s.slices.map fun x => if x.id = c.id then c else x)
/-- A context as the hub sees it now: the steward may write HANDLER, RRREAD, NOMIG, BRKHALT and EVREAD of its record in
memory at any time (R349). -/
def ctx? (s : State) (c : CtxId) : Option Ctx := (s.ctxs.find? fun x => x.id = c).map fun x => x.refresh s.mem
def putCtx (s : State) (c : Ctx) : State := s.setCtxs (s.ctxs.map fun x => if x.id = c.id then c else x)
def req? (s : State) (n : Nat) : Option Req := s.reqs.find? fun r => r.id = n
def putReq (s : State) (r : Req) : State := s.setReqs (s.reqs.map fun x => if x.id = r.id then r else x)
def dropReq (s : State) (n : Nat) : State := s.setReqs (s.reqs.filter fun r => r.id != n)

end State

/-- The crew of a gang. -/
def crewKeyOf (k : GangKey) : CrewKey := ⟨k.launch, k.crew⟩
def Gang.crewKey (g : Gang) : CrewKey := crewKeyOf g.key

/-! ## The launch record's fields (R81) -/

namespace Slice
def dw (l : Slice) (i : Fin 32) : DWord := l.record[i]
def entry (l : Slice) : Pc := BitVec.ofNat 48 (bits (l.dw 0) 47 0)
def gx (l : Slice) : Nat := bits (l.dw 1) 15 0
def gy (l : Slice) : Nat := bits (l.dw 1) 31 16
def gz (l : Slice) : Nat := bits (l.dw 1) 47 32
def crewSize (l : Slice) : Nat := bits (l.dw 2) 55 48
def regs (l : Slice) : Nat := bits (l.dw 2) 47 40
def rcopy (l : Slice) : Nat := bits (l.dw 2) 39 32
def rmtx (l : Slice) : Nat := bits (l.dw 2) 31 24
def rvec (l : Slice) : Nat := bits (l.dw 2) 23 16
def bars (l : Slice) : Nat := bits (l.dw 2) 15 8
def scratch (l : Slice) : Nat := bits (l.dw 3) 31 0
def c0 (l : Slice) : Nat := bits (l.dw 4) 63 48
def c1 (l : Slice) : Nat := bits (l.dw 4) 47 32
def c2 (l : Slice) : Nat := bits (l.dw 4) 31 16
def shift (l : Slice) : Nat := bits (l.dw 4) 15 8
def aff (l : Slice) : Bool := bits (l.dw 4) 0 0 = 1
def priority (l : Slice) : Nat := bits (l.dw 5) 47 40
def check (l : Slice) : Bool := bits (l.dw 5) 33 33 = 1
def strict (l : Slice) : Bool := bits (l.dw 5) 32 32 = 1
/-- The fairness period in clocks; 0 selects 4,096 (R81, R108). -/
def fair (l : Slice) : Nat := if bits (l.dw 5) 31 0 = 0 then 4096 else bits (l.dw 5) 31 0
def energy (l : Slice) : Nat := bits (l.dw 6) 31 0
def argsHandle (l : Slice) : DWord := BitVec.ofNat 64 (bits (l.dw 7) 19 0)
def crews (l : Slice) : Nat := l.gx * l.gy * l.gz
/-- Format slot `f` (R81, R237). -/
def fslot (l : Slice) (f : Fin 8) : Vector DWord 2 := #v[vget l.record (16 + 2 * f.val), vget l.record (17 + 2 * f.val)]
end Slice

/-- Vector registers allocated to a gang (R81). -/
def State.alloc (s : State) (g : Gang) : Nat :=
  match s.slice? g.key.launch with | some l => 16 * l.regs | none => 192

/-! ## The context record's fields (R349) -/

namespace Ctx
def dw (c : Ctx) (i : Fin 16) : DWord := c.record[i]
def setDw (c : Ctx) (i : Fin 16) (v : DWord) : Ctx := { c with record := c.record.set i v }
def state (c : Ctx) : Nat := bits (c.dw 0) 63 60
def handler (c : Ctx) : Pc := BitVec.ofNat 48 (bits (c.dw 0) 47 0)
def ptRoot (c : Ctx) : Nat := bits (c.dw 1) 51 12 * 4096
def btj (c : Ctx) : Nat := bits (c.dw 2) 56 52
def btBase (c : Ctx) : Nat := bits (c.dw 2) 51 0
def qtq (c : Ctx) : Nat := bits (c.dw 3) 56 52
def qtBase (c : Ctx) : Nat := bits (c.dw 3) 51 0
def rrk (c : Ctx) : Nat := bits (c.dw 4) 56 52
def rrBase (c : Ctx) : Nat := bits (c.dw 4) 51 0
def ovk (c : Ctx) : Nat := bits (c.dw 5) 56 52
def ovBase (c : Ctx) : Nat := bits (c.dw 5) 51 0
def evk (c : Ctx) : Nat := bits (c.dw 6) 56 52
def evBase (c : Ctx) : Nat := bits (c.dw 6) 51 0
def saveBase (c : Ctx) : Nat := bits (c.dw 7) 51 0
/-- Spill watchdog limit in ticks; 0 selects 2^20 units of 1,024 ticks. -/
def spillLimit (c : Ctx) : Nat := (if bits (c.dw 8) 63 32 = 0 then 2 ^ 20 else bits (c.dw 8) 63 32) * 1024
/-- Hang watchdog limit in ticks; 0 is off. -/
def hangLimit (c : Ctx) : Nat := bits (c.dw 8) 31 0 * 1024
def rrRead (c : Ctx) : DWord := c.dw 9
def dropped (c : Ctx) : Nat := bits (c.dw 10) 63 32
def noMig (c : Ctx) : Bool := bits (c.dw 11) 1 1 = 1
def brkHalt (c : Ctx) : Bool := bits (c.dw 11) 0 0 = 1
def evRead (c : Ctx) : DWord := c.dw 12
def evWrite (c : Ctx) : DWord := c.dw 13
def rrWrite (c : Ctx) : DWord := c.dw 14
end Ctx

/-- The physical address space as keys of memory (R390, R418): an address in HBM5 is its own key; an address of the
capacity tier is told apart by its channel, which comes from the buffer's interleave. -/
def capKey (ch : Fin 32) (a : Nat) : Nat := 2 ^ 53 + ch.val * 2 ^ 36 + a % 2 ^ 36

end Sys2Proof.Machine
end

