-- ==== Sys2Proof/Machine/Book.lean ====
section
/-!
DEFINITION. Booking of slots and paths (R55, R57, R59, R60, R295, R296, R300, R304, R308 to R311, R418, R420).
-/
namespace Sys2Proof.Machine

/-! ## Slots (R295) -/

/-- Ticks from one slot of a resource to the next. -/
def Res.step : Res → Nat
  | .hbm .. => 2 | .cap .. => 7 | .decomp .. => 2 | _ => 1

/-- Units that one slot carries: 31 line transfers on a die link (a 2 KiB sector counts 16), one booking elsewhere. -/
def Res.units : Res → Nat
  | .link .. => 31 | _ => 1

/-- Whether slot `n` of a resource is open to a booking of a class: reserved slots (R60, R295) and refresh slots (R304). -/
def slotOpen (h : Hier) (r : Res) (c : SlotClass) (n : Nat) : Bool :=
  match r with
  | .hbm k _ =>
    n % 512 != 2 && !(h.stks[k].hot && n % 512 = 258) &&
    (match c with
     | .ordinary => n % 8 != 0 && n % 8 != 4
     | .urgent => n % 8 != 4
     | .writeBack => n % 8 = 4)
  | .cap _ =>
    (match c with
     | .urgent => true
     | _ => n % 8 != 0)
  | _ => true

/-- Units of the slot at `tick` that are taken. -/
def slotUsed (h : Hier) (r : Res) (tick : Nat) : Nat :=
  (h.slots.filter fun x => x.res = r && x.tick = tick).foldl (fun n x => n + x.units) 0

/-- The first slot number from `n` on that is open and has `u` units free; `fuel` bounds the search. -/
def firstFree (h : Hier) (r : Res) (c : SlotClass) (u : Nat) : Nat → Nat → Nat
  | 0, n => n
  | fuel + 1, n =>
    if slotOpen h r c n && slotUsed h r (n * r.step) + u ≤ r.units then n else firstFree h r c u fuel (n + 1)

/-- The tick of the earliest free slot at or after tick `t` (R55). -/
def bookTick (h : Hier) (r : Res) (c : SlotClass) (u t : Nat) : Nat :=
  firstFree h r c u (16 * h.slots.length + 64) (ceilDiv t r.step) * r.step

/-- Books a slot. -/
def Hier.take (h : Hier) (x : Slot) : Hier := { h with slots := x :: h.slots }

/-- Forgets slots that began before `t`. -/
def Hier.prune (h : Hier) (t : Nat) : Hier := { h with slots := h.slots.filter fun x => t ≤ x.tick }

/-- Gives booked slots back. -/
def Hier.free (h : Hier) (xs : List Slot) : Hier := { h with slots := h.slots.filter fun x => !xs.contains x }

/-! ## Paths -/

/-- What booking a path gives: the hierarchy, the completion of the path's last stage, the tick of performance, the last
slot, the stages and slots booked, the ticks waited for a slot at each level. -/
structure Booked where
  h     : Hier
  t     : Nat
  perf  : Nat
  last  : Nat
  path  : List Stage
  slots : List Slot
  waits : List (Nat × Nat)
deriving DecidableEq, Repr

/-- The tick from which a stage's gap counts. -/
def Booked.base (b : Booked) (n : Nat) : Nat :=
  match n with
  | 0 => b.t
  | 1 => b.last
  | n => match b.slots[b.slots.length - n]? with | some x => x.tick | none => b.last

/-- Books one stage. -/
def bookStage (b : Booked) (x : Stage) : Booked :=
  let arrive := max x.floor (b.base x.fromSlot + x.gap)
  let tick := bookTick b.h x.res x.cls x.units arrive
  let sl : Slot := ⟨x.res, tick, x.units⟩
  { h := b.h.take sl, t := if x.main then tick + x.done else b.t, perf := if x.perf then tick + x.done else b.perf
    last := tick, path := b.path ++ [x], slots := b.slots ++ [sl]
    waits := if x.main then b.waits ++ [(x.level.val, tick - arrive)] else b.waits }

/-- Books further stages of a path. -/
def bookMore (b : Booked) (ps : List Stage) : Booked := ps.foldl bookStage b

/-- Books the stages of a path in order from tick `t`. -/
def bookPath (h : Hier) (t : Nat) (ps : List Stage) : Booked := bookMore ⟨h, t, t, t, [], [], []⟩ ps

/-- A path whose first stage may not be reached before a tick (R328). -/
def withFloor (f : Nat) : List Stage → List Stage
  | [] => []
  | x :: xs => { x with floor := max x.floor f } :: xs

/-- Return-path latency (R296). -/
def returnTicks : Nat := 24

/-- On-die network latency (R296): what the data of a copy takes from its last booking to the channel or the plane port. -/
def dieTicks : Nat := 4

/-! ## Routes (R11) -/

/-- The die links from one compute die to another: bit 0 of the die number first, then bit 1. -/
def route (a b : Fin 4) : List DieLink :=
  let mid : Fin 4 := ⟨a.val / 2 * 2 + b.val % 2, by omega⟩
  (if a = mid then [] else [⟨.die a, .die mid⟩]) ++ (if mid = b then [] else [⟨.die mid, .die b⟩])

/-- A stage on a die link. The hub adds no on-die network (R296). -/
def linkStage (u : Nat) (l : DieLink) : Stage :=
  ⟨.link l, if l.src = .hub then 0 else 4, 0, 0, 12, true, u, .ordinary, false, 2⟩

/-- Stages from die `a` to die `b`. -/
def links (a b : Fin 4) : List Stage := (route a b).map (linkStage 1)
/-- Stage from a die to the hub. -/
def toHub (a : Fin 4) (u : Nat) : List Stage := [linkStage u ⟨.die a, .hub⟩]
/-- Stage from the hub to a die. -/
def fromHub (b : Fin 4) (u : Nat) : List Stage := [linkStage u ⟨.hub, .die b⟩]

/-! ## Slices and channels (R295, R306, R418) -/

/-- A slice-bank stage; `done` is 24 for a lookup's hit data and 8 for a fill or write. -/
def bankStage (sl : Fin 64) (bank : Fin 4) (floor done : Nat) (perf : Bool) : Stage :=
  ⟨.bank sl bank, 4, 0, floor, done, true, 1, .ordinary, perf, 1⟩

/-- A channel read of a line of HBM5. -/
def hbmRead (k : Fin 16) (ch : Fin 32) (urgent : Bool) (floor : Nat) : Stage :=
  ⟨.hbm k ch, 4, 0, floor, 160, true, 1, if urgent then .urgent else .ordinary, false, 3⟩

/-- The HBM5 channel of a line (R295). -/
def hbmChan (pa : Nat) : Fin 32 := ⟨pa / 512 % 32, Nat.mod_lt _ (by decide)⟩

/-- The bank of a line reached through a buffer record: by offset, per tier (R295). -/
def bankOf (tier1 : Bool) (x : Nat) : Fin 4 := ⟨(if tier1 then x / 8192 else x / 512) % 4, Nat.mod_lt _ (by decide)⟩

/-- Stages of the reading of one line of HBM5 from its base die: one slot, or a metadata slot, two data slots and the
decompressor under lossless compression (R296, R301). -/
def hbmLine (k : Fin 16) (ch : Fin 32) (urgent lossless : Bool) : List Stage :=
  if lossless then
    [hbmRead k ch false 0, { hbmRead k ch urgent 0 with gap := 0, done := 1 }, { hbmRead k ch urgent 0 with gap := 0 },
     ⟨.decomp k, 0, 0, 0, 8, true, 1, .ordinary, false, 3⟩]
  else [hbmRead k ch urgent 0]

/-- Sectors of the memory-side cache for a cache of `128 GiB × csize` (R306): S = C / 2,048. -/
def sectors (csize : Nat) : Nat := csize * 2 ^ 26
/-- Sector number u of a capacity-tier line (R306). -/
def sectorNo (ch : Fin 32) (a : Nat) : Nat := a / 2048 * 32 + ch.val
/-- The stack that holds cache sector `i` (R306). -/
def sectorStack (i : Nat) : Fin 16 := ⟨i % 16, Nat.mod_lt _ (by decide)⟩
/-- The channel that holds cache sector `i` (R306). -/
def sectorChan (i : Nat) : Fin 32 := ⟨i / 16 % 32, Nat.mod_lt _ (by decide)⟩

/-- A run of `n` channel slots of a sector, the last completing after `done`. -/
def sectorRun (r : Res) (lvl : Level) (gap : Nat) (n done : Nat) (main : Bool) : List Stage :=
  (List.range n).map fun i =>
    ⟨r, if i = 0 then gap else 1, if i = 0 then 0 else 1, 0, if i + 1 = n then done else 1, main, 1, .ordinary, false, lvl⟩

/-- Stages of a memory-side cache miss with a dirty victim, from the slice's die back to the slice's die (R308): the
sector read, the link to the hub, sixteen write-back slots, the line's read slot; beside the path the other fifteen
reads, and for each line in turn its link and its write into the sector; then the line's link to the slice's die. -/
def missStages (dsl : Fin 4) (i : Nat) (ch : Fin 32) (floor : Nat) (urgent : Bool) : List Stage :=
  let k := sectorStack i
  let hc : Res := .hbm k (sectorChan i)
  let first := (sectorRun hc 4 4 16 160 true).map fun x => if x.fromSlot = 1 then x else { x with floor := floor }
  links dsl (dieOfStack k) ++ first ++ toHub (dieOfStack k) 16 ++ sectorRun (.cap ch) 5 0 16 1 true ++
  [⟨.cap ch, 0, 0, 0, 200, true, 1, if urgent then .urgent else .ordinary, false, 5⟩] ++
  (sectorRun (.cap ch) 5 1 15 200 false).map (fun x => { x with fromSlot := 1 }) ++
  ((List.range 16).flatMap fun j =>
    [⟨.link ⟨.hub, .die (dieOfStack k)⟩, 200, 16 + j, 0, 12, false, 1, .ordinary, false, 2⟩,
     ⟨hc, 16, 1, 0, 8, false, 1, .ordinary, false, 4⟩]) ++ fromHub dsl 1

/-- Stages of a memory-side cache hit from the slice's die and back (R309): one read slot after the release tick. -/
def hitStages (dsl : Fin 4) (i : Nat) (floor : Nat) : List Stage :=
  let k := sectorStack i
  links dsl (dieOfStack k) ++ [{ hbmRead k (sectorChan i) false floor with level := 4 }] ++ links (dieOfStack k) dsl

/-- Stages of a capacity-tier read with a cache of 0 GiB (R296). -/
def bareCap (dsl : Fin 4) (ch : Fin 32) (urgent : Bool) : List Stage :=
  toHub dsl 1 ++ [⟨.cap ch, 0, 0, 0, 200, true, 1, if urgent then .urgent else .ordinary, false, 5⟩] ++ fromHub dsl 1

/-! ## Host and peer ports (R420) -/

/-- The port's outbound and inbound slots. -/
inductive Port where
  | host
  | fab (l : Fin 12)
deriving DecidableEq, Repr

def Port.out : Port → Res | .host => .hostOut | .fab l => .fabOut l
def Port.in_ : Port → Res | .host => .hostIn | .fab l => .fabIn l
def Port.level : Port → Level | .host => 6 | .fab _ => 7

/-- Stages of a host-tier or peer-tier access from a die: link to the hub, outbound slot, and for a read the allowance
and one return slot per 128 bytes, then the link back. A write is performed in its outbound slot. -/
def portStages (d : Fin 4) (p : Port) (alw bytes : Nat) (write : Bool) : List Stage :=
  toHub d 1 ++
  [⟨p.out, 0, 0, 0, if write then 0 else alw, true, 1, .ordinary, write, p.level⟩] ++
  (if write then [] else
    (List.range (ceilDiv bytes 128)).map fun i => ⟨p.in_, if i = 0 then 0 else 1, if i = 0 then 0 else 1, 0, 0, true, 1, .ordinary, true, p.level⟩) ++
  fromHub d 1

/-! ## L2 state (R59, R299, R300) -/

/-- The line of an address in L2. -/
def Hier.line? (h : Hier) (a : Nat) : Option L2Line := h.l2.find? fun l => l.addr = a
def Hier.putLine (h : Hier) (l : L2Line) : Hier := { h with l2 := h.l2.map fun x => if x.addr = l.addr then l else x }
def Hier.dropLine (h : Hier) (a : Nat) : Hier := { h with l2 := h.l2.filter fun l => l.addr != a }

/-- The set of a line (R418). -/
def l2Set (a : Nat) : Nat := a / 2048 % 4096

/-- Sectors of a line that bytes `[lo, hi)` of it cover wholly. -/
def wholeSectors (cover : List Nat) : BitVec 4 :=
  BitVec.ofNat 4 <| (List.range 4).foldl
    (fun n q => if (List.range 32).all fun i => cover.contains (32 * q + i) then n + 2 ^ q else n) 0
/-- Sectors of a line that some byte of `cover` lies in. -/
def touchedSectors (cover : List Nat) : BitVec 4 :=
  BitVec.ofNat 4 <| (List.range 4).foldl (fun n q => if cover.any fun i => i / 32 = q then n + 2 ^ q else n) 0

/-- Whether every sector of `need` is in `have_`. -/
def sectorsIn (need have_ : BitVec 4) : Bool := need &&& ~~~have_ = 0

end Sys2Proof.Machine
end

