-- ==== Sys2Proof/Machine/Flags.lean ====
section
/-!
DEFINITION. The images of status: time registers (R49, R50, R67), their grades (R75), compare conditions (R36), the
codes of break causes, held classes and levels (R62, R64, R68), and the counters' flags (R376).
-/
namespace Sys2Proof.Machine

/-! ## Time registers (R49) -/

namespace TimeReg

/-- state, [63:62]: 0 SETTLED, 1 PROMISED, 2 BROKEN, 3 HELD. -/
def state (t : TimeReg) : Nat := bits t.val 63 62
/-- aux, [61:56]: break count or held class. -/
def aux (t : TimeReg) : Nat := bits t.val 61 56
/-- tick, [55:0]. -/
def tick (t : TimeReg) : Tick := BitVec.ofNat 56 (bits t.val 55 0)
def isSettled (t : TimeReg) : Bool := t.state = 0
def isHeld (t : TimeReg) : Bool := t.state = 3
/-- HELD class 3 (R27). -/
def isHeld3 (t : TimeReg) : Bool := t.state = 3 && t.aux = 3
/-- PROMISED or BROKEN. -/
def isOpen (t : TimeReg) : Bool := t.state = 1 || t.state = 2
/-- The expected tick of R67: never when HELD. -/
def expected (t : TimeReg) : Tick := if t.isHeld then never else t.tick
/-- The grade of R75: 0 SETTLED, 1 PROMISED or BROKEN, 2 HELD. -/
def grade (t : TimeReg) : Nat := if t.state = 0 then 0 else if t.state = 3 then 2 else 1

end TimeReg

/-- The image of a time register (R49). -/
def timeImage (state aux : Nat) (low : Nat) : DWord :=
  BitVec.ofNat 64 (state % 4 * 2 ^ 62 + aux % 64 * 2 ^ 56 + low % 2 ^ 56)

/-- A settled register. -/
def settledAt (t : Tick) : TimeReg := ⟨timeImage 0 0 t.toNat, false, 0⟩

/-- The order of R75: by (grade, dist); HELD registers compare by grade alone. `now` is the 56-bit device time. -/
def keyLe (now : Tick) (a b : TimeReg) : Bool :=
  if a.grade != b.grade then a.grade < b.grade
  else if a.grade = 2 then true
  else (a.tick - now).toInt ≤ (b.tick - now).toInt

/-! ## Codes -/

/-- Codes of break causes (R62). -/
def causeCode : BreakCause → Nat
  | .reRead => 1 | .dieReplay => 2 | .fabricReplay => 3 | .power => 4 | .refresh => 5 | .engine => 6 | .overran => 7
  | .migration => 8

/-- The open tick of a request made at tick `t` (R221, R342). -/
def openTick (t : Nat) : Nat := t + 2 ^ 55 - 1

/-- Codes of held classes (R68). -/
def heldCode : HeldClass → Nat
  | .page => 1 | .queue => 2 | .error => 3 | .peer => 4 | .migration => 5

/-- Role codes of a record (R112). -/
def Role.code : Role → Nat
  | .general => 0 | .copy => 1 | .matrix => 2 | .vector => 3

/-- Compare conditions of integers (R36): `lt` is the strict order, `eq` equality; ord and unord do not apply. -/
def intCond (c : Cond) (lt eq : Bool) : Bool :=
  match c with
  | .eq => eq | .ne => !eq | .lt => lt | .le => lt || eq | .gt => !(lt || eq) | .ge => !lt | .ord => true | .unord => false

/-- A 32-bit mask from a test of each lane. -/
def maskOf (f : Nat → Bool) : Mask :=
  BitVec.ofNat 32 ((List.range 32).foldl (fun n i => if f i then n + 2 ^ i else n) 0)

/-- A mask of `old` with the lanes of `m` taken from `new` (R146). -/
def mergeMask (m old new : Mask) : Mask := (old &&& ~~~m) ||| (new &&& m)

/-- A vector register with the lanes of `m` replaced (R144). -/
def mergeLanes (m : Mask) (old : Lanes) (f : Nat → Word) : Lanes :=
  Vector.ofFn fun i => if m.getLsbD i.val then f i.val else old[i]

/-- A counter as a change in clock `c` meets it: what it showed before the clock is kept (R379). -/
def Counter.open (e : Counter) (c : Nat) : Counter :=
  if e.clk = c then e
  else { e with clk := c, before := e.count, ovf0 := e.ovf, run0 := e.run, wrapped := false, readers := [] }

/-- Whether events of clock `c` count (R379). -/
def Counter.counts (e : Counter) (c : Nat) : Bool := (e.run && e.first ≤ c) || c < e.till

/-- A counter with `n` events of clock `c` added: COUNT wraps modulo 2^48 and a wrap sets OVF (R376). -/
def Counter.add (e : Counter) (c n : Nat) : Counter :=
  let e := e.open c
  let wrap := 2 ^ 48 ≤ e.count.toNat + n
  { e with count := e.count + BitVec.ofNat 48 n, ovf := e.ovf || wrap, wrapped := e.wrapped || wrap }

/-- A 32-bit saturating increment (R188, R378). -/
def satInc (w : Word) : Word := if w = BitVec.allOnes 32 then w else w + 1

/-- A 64-bit saturating addition (R378). -/
def satAdd64 (w : DWord) (n : Nat) : DWord := if w.toNat + n < 2 ^ 64 then w + BitVec.ofNat 64 n else BitVec.allOnes 64

end Sys2Proof.Machine
end

