-- ==== Sys2Proof/Machine/Ops.lean ====
section
/-!
DEFINITION. The named operations over gangs: the frontier (R91 to R95), time registers and their tracked sets (R50 to
R53), records and waking (R110 to R123), the rings the hub appends to (R64, R65, R355), leaving and exiting
(R99, R111), and taking an exception and returning from one (R351 to R353).
-/
namespace Sys2Proof.Machine

/-! ## Event counters (R376, R377) -/

/-- Whether a counter counts an event of a code, of a quarter and a launch where it has them (R377, R381). -/
def Counter.selects (e : Counter) (code : Nat) (q : Option (Fin 4)) (l : Option LaunchId) : Bool :=
  let qm := e.sel.toNat / 2 ^ 16 % 16
  let quarterly := (1 ≤ code && code ≤ 0x14) || code = 0x60
  let qok := !quarterly || qm = 0 || (match q with | some q => qm / 2 ^ q.val % 2 = 1 | none => true)
  let lok := e.sel.toNat / 2 ^ 20 % 2 = 0 || l = some e.owner
  e.sel.toNat % 2 ^ 16 = code && qok && lok

/-- Sets bit 63 of a scalar register of a gang: a counter that a quarter read has wrapped in the same clock (R379). -/
def State.markOverflow (s : State) (r : GangKey × SReg) : State :=
  match s.gang? r.1 with
  | some g => s.putGang { g with s := g.s.set r.2 (g.s[r.2] ||| 0x8000000000000000) }
  | none => s

/-- Counts `n` events of a code on a core; `q` and `l` are the quarter and launch they belong to, where they do. -/
def State.count (s : State) (c : CoreId) (code n : Nat) (q : Option (Fin 4)) (l : Option LaunchId) : State :=
  let cc := s.cc c
  let clk := s.clock c
  let hit := fun (e : Counter) => n != 0 && e.counts clk && e.selects code q l
  let late := (cc.ev.toList.filter fun e => hit e && (e.add clk n).wrapped).flatMap fun e => (e.open clk).readers
  late.foldl State.markOverflow
    (s.setCc c { cc with ev := cc.ev.map fun e => if hit e then e.add clk n else e })

/-! ## Frontier (R91 to R93) -/

/-- Frontier order: descending priority, then ascending PC (R91). -/
def entryBefore (a b : Entry) : Bool := a.prio > b.prio || (a.prio = b.prio && a.pc < b.pc)

/-- Puts an entry in frontier order without joining. -/
def frontInsert (e : Entry) (es : List Entry) : List Entry := insertBy entryBefore e es

/-- `place(mask, pc, prio)` of R102: nothing for no lanes; otherwise the lanes join an entry at the PC (R93), which takes
the higher priority, or form an entry. -/
def placeLanes (m : Mask) (pc : Pc) (prio : Fin 32) (es : List Entry) : List Entry :=
  if m = 0 then es
  else match es.find? fun e => e.pc = pc with
    | some e =>
      frontInsert ⟨pc, if e.prio < prio then prio else e.prio, e.mask ||| m⟩ (es.filter fun x => x.pc != pc)
    | none => frontInsert ⟨pc, prio, m⟩ es

/-- The lanes that have not exited (R91). -/
def Gang.lanes (g : Gang) : Mask :=
  g.front.foldl (fun m e => m ||| e.mask) (match g.sel with | some e => e.mask | none => 0)

/-- The number of frontier entries. -/
def Gang.entries (g : Gang) : Nat := g.front.length + (if g.sel.isSome then 1 else 0)

/-- Whether the gang is in its trap handler (R351). -/
def Gang.inHandler (g : Gang) : Bool := match g.trap with | some t => t.inHandler | none => false

/-- The entry that the gang selects at a clause boundary (R92, R94, R351): the handler entry in a handler; the next entry
of a rotation round; else the first. -/
def Gang.select (g : Gang) : Option Entry :=
  if g.inHandler then
    match g.front.find? fun e => e.mask &&& g.hmask != 0 with
    | some e => some e
    | none => g.front.head?
  else match g.round with
    | some (pc :: _) =>
      match g.front.find? fun e => e.pc = pc with
      | some e => some e
      | none => g.front.head?
    | _ => g.front.head?

/-- The active lanes (R92). -/
def Gang.active (g : Gang) : Mask := match g.sel with | some e => e.mask | none => 0

/-- Ends a clause whose words are all issued: the selected entry falls through to the next header (R21, R92). -/
def Gang.endClause (g : Gang) : Gang :=
  match g.clause, g.sel with
  | some c, some e =>
    if c.left = 0 then
      let joined := g.front.any fun x => x.pc = c.next
      { g with front := placeLanes e.mask c.next e.prio g.front, sel := none, clause := none, lastPc := some c.next
               rotPoint := joined }
    else g
  | _, _ => g

/-- Writes doublewords from an address upward. -/
def memDWords (m : List Host.Cell) (a : Nat) : List DWord → List Host.Cell
  | [] => m
  | v :: vs => memDWords (memSetDWord m a v) (a + 8) vs

/-! ## Continuation records (R112 to R114) -/

/-- FLAGS of a record (R113). -/
def Gang.flags (g : Gang) : Nat :=
  (if g.hd.rot then 1 else 0) + (if g.trap.isSome then 2 else 0) + (if g.hd.bound then 4 else 0) +
  (if g.hd.floor then 8 else 0) + (match g.strict with | some (_, c) => c.toNat * 16 | none => 0)

/-- The eight header doublewords of a record (R112). -/
def Gang.header (g : Gang) : List DWord :=
  let h := g.hd
  let sreg := match g.strict with | some (r, _) => r.val | none => 0
  let pp := fun (i : Fin 4) =>
    BitVec.ofNat 64 (g.p[(⟨2 * i.val, by omega⟩ : Fin 8)].toNat + g.p[(⟨2 * i.val + 1, by omega⟩ : Fin 8)].toNat * 2 ^ 32)
  [BitVec.ofNat 64 (h.kind.toNat * 2 ^ 56 + g.flags * 2 ^ 48 + (if h.kind = 2 then 0 else g.live) * 2 ^ 40 +
      g.front.length * 2 ^ 32 + h.seq.toNat),
   BitVec.ofNat 64 (h.wake.toNat * 2 ^ 60 + sreg * 2 ^ 56 + h.wtick.toNat),
   BitVec.ofNat 64 (h.tmask.toNat * 2 ^ 48 + h.object.toNat * 2 ^ 32 + h.arg.toNat),
   BitVec.ofNat 64 (g.key.crew.toNat * 2 ^ 48 + g.key.gang.val * 2 ^ 40 + g.role.code * 2 ^ 32 + h.lastq.toNat * 2 ^ 24 +
      g.key.launch.toNat),
   pp 0, pp 1, pp 2, pp 3]

/-- A frontier entry in a record (R114). -/
def Entry.image (e : Entry) : List DWord :=
  [BitVec.ofNat 64 (e.prio.val * 2 ^ 48 + e.pc.toNat), BitVec.ofNat 64 e.mask.toNat]

/-- The trap block in a record (R114). -/
def TrapBlk.image (t : TrapBlk) : List DWord :=
  [BitVec.ofNat 64 ((if t.inHandler then 1 else 0) * 2 ^ 56 + t.cause.toNat * 2 ^ 48 + t.pc.toNat),
   BitVec.ofNat 64 t.info.toNat]

/-- The 16 doublewords of one vector register (R114: lane 0 first). -/
def lanesImage (v : Lanes) : List DWord :=
  (List.finRange 16).map fun i =>
    joinWords v[(⟨2 * i.val, by omega⟩ : Fin 32)] v[(⟨2 * i.val + 1, by omega⟩ : Fin 32)]

/-- The whole record of a gang (R112 to R114). A fresh spawn's body is one frontier entry; a malformed record keeps the image that
it had, but for what its header says of it (R116). -/
def Gang.image (g : Gang) : List DWord :=
  let head := g.header ++ g.front.flatMap Entry.image
  if g.hd.bad then g.hd.raw
  else if g.hd.kind = 2 then head
  else head ++ (match g.trap with | some t => t.image | none => []) ++ g.s.toList ++
    g.t.toList.map (fun t => t.val) ++ (g.v.toList.take (16 * g.live)).flatMap lanesImage

/-- The bytes of a record (R114). -/
def Gang.recBytes (g : Gang) : Nat :=
  if g.hd.bad then 8 * g.hd.raw.length
  else 64 + 16 * g.front.length +
    (if g.hd.kind = 2 then 0 else (if g.trap.isSome then 16 else 0) + 512 + 128 + 2048 * g.live)
/-- The footprint in 64-byte blocks (R114, R120). -/
def Gang.blocks (g : Gang) : Nat := ceilDiv g.recBytes 64

/-- The slots of its core's overflow ring that a record has, while it is written there and until it has been relaunched (R122). -/
def Gang.ringAt (g : Gang) : Option (Nat × Nat) :=
  match g.place with | .ring p n => some (p, n) | .leaving _ _ r | .entering _ _ r => r | _ => none

/-- Whether a record has blocks of its core's store, while it is written there and until its relaunch has ended (R120). -/
def Gang.inStore (g : Gang) : Bool :=
  match g.place with | .store => true | .leaving _ _ r | .entering _ _ r => r.isNone | _ => false

/-- The address of some slots of a core's overflow ring (R122). -/
def Ctx.ringSlot (c : Ctx) (k : CoreId) (pos : Nat) : Nat := c.ovBase + k.val * 2 ^ (c.ovk + 6) + 64 * pos

/-- Keeps the image in memory of a record in the ring, or of a saved one, current (R111, R121). A record whose lines are still to be
written there takes its changes with it. -/
def State.syncRing (s : State) (g : Gang) : State :=
  match g.place, s.ctx? g.ctx with
  | .saved a, _ => if a = 0 then s else s.setMem (memDWords s.mem a g.image)
  | _, some c =>
    (match g.ringAt, g.hd.written with
     | some (pos, _), some t => if t ≤ s.now then s.setMem (memDWords s.mem (c.ringSlot g.core pos) g.image) else s
     | _, _ => s)
  | _, _ => s

/-! ## Time registers (R50 to R53, R67) -/

/-- Whether a request belongs to the gang of a key: not where its own gang has exited (R99). -/
def Req.of (r : Req) (k : GangKey) : Bool := r.owner = k && !r.orphan

/-- The gang of a request, unless it has exited (R99). -/
def State.gangOf (s : State) (r : Req) : Option Gang := if r.orphan then none else s.gang? r.owner

/-- The requests that a time register of a gang tracks (R50). -/
def State.tracked (s : State) (k : GangKey) (n : TReg) : List Req :=
  s.reqs.filter fun r => r.of k && r.treg = n && r.tracked

/-- The earliest-held of some requests, held with a class that `p` accepts. -/
def firstHeld (p : HeldClass → Bool) (rs : List Req) : Option (HeldClass × Word) :=
  (firstBy (fun a b : Req => a.heldAt < b.heldAt)
    (rs.filter fun r => match r.held with | some (c, _) => p c | none => false)).bind fun r => r.held

/-- The value of a time register from its tracked set (R50); `landed` is the tick at which the last request left. -/
def recompute (rs : List Req) (old : TimeReg) (landed : Tick) : TimeReg :=
  if old.soft then old
  else if rs.isEmpty then ⟨timeImage 0 0 landed.toNat, false, 0⟩
  else match firstHeld (fun c => c = .error) rs with
    | some (_, k) => ⟨timeImage 3 3 k.toNat, false, old.breaks⟩
    | none => match firstHeld (fun _ => true) rs with
      | some (c, k) => ⟨timeImage 3 (heldCode c) k.toNat, false, old.breaks⟩
      | none =>
        let last := rs.foldl (fun n r => max n r.prom) 0
        if old.breaks > 0 then ⟨timeImage 2 (min old.breaks 63) last, false, old.breaks⟩
        else ⟨timeImage 1 0 last, false, 0⟩

/-- Tests of the registers that a mask names. -/
def Gang.masked (g : Gang) (m : BitVec 16) : List TimeReg :=
  ((List.finRange 16).filter fun i => m.getLsbD i.val).map fun i => g.t[i]

/-- The wake tick of R67 for wake kind 1 (latest) or 2 (earliest): never for a register that is HELD, and no tick is taken
for it (R48). -/
def wakeTick (kind : BitVec 4) (ts : List TimeReg) : Tick :=
  match ts.map fun t => if t.isHeld then never else recordable t.expected with
  | [] => 0
  | x :: xs => xs.foldl (fun a b => if (if kind = 1 then tickAfter b a else tickAfter a b) then b else a) x

/-- The condition of wake kinds 1 and 2 (R117). -/
def wakeCond (kind : BitVec 4) (ts : List TimeReg) : Bool :=
  if kind = 1 then ts.all TimeReg.isSettled || ts.any TimeReg.isHeld3
  else ts.any fun t => t.isSettled || t.isHeld3

/-- The later of two ticks. -/
def maxTick (a b : Tick) : Tick := if tickAfter b a then b else a
/-- The earlier of two ticks. -/
def minTick (a b : Tick) : Tick := if tickAfter b a then a else b

/-- The tick at which the first of a record's masked registers became HELD with class 3 (R117): now where no request that it tracks
tells (assumption row 119). -/
def State.heldTick (s : State) (g : Gang) : Nat :=
  let rs := s.reqs.filter fun r => r.of g.key && r.tracked && g.hd.tmask.getLsbD r.treg.val &&
    (match r.held with | some (.error, _) => true | _ => false)
  match rs with | [] => s.now | r :: rs => rs.foldl (fun n x => min n x.heldAt) r.heldAt

/-- The order key of a record that is eligible by its time registers or by device time (R117); `none` when it is not.
Wake kinds 3 to 7 become eligible through their events, which set the key themselves. -/
def State.timeKey (s : State) (g : Gang) : Option Tick :=
  let r := g.hd
  let ts := g.masked r.tmask
  let w := wakeTick r.wake ts
  let by3 := ts.any TimeReg.isHeld3
  match r.wake.toNat with
  | 0 => if s.reached r.wtick then some r.wtick else none
  | 1 | 2 =>
    let c := wakeCond r.wake ts
    let k := if by3 then tickOf (s.heldTick g) else w
    if r.bound && r.floor then (if c && s.reached r.wtick then some (maxTick k r.wtick) else none)
    else if c then some (if r.bound then minTick k r.wtick else k)
    else if r.bound && s.reached r.wtick then some (minTick w r.wtick)
    else none
  | 8 => some (tickOf s.now)
  | _ => none

/-- Whether a gang is a record: in its core's store or ring, saved with its context, or moving. -/
def Gang.parked (g : Gang) : Bool := match g.place with | .slot .. | .entering .. => false | _ => true
/-- Whether a gang is a record that its core can relaunch. -/
def Gang.stored (g : Gang) : Bool := match g.place with | .store | .ring .. | .leaving .. => true | _ => false
/-- Whether a gang holds a gang slot and issues. -/
def Gang.resident (g : Gang) : Bool := match g.place with | .slot .. => true | _ => false
/-- The quarter and slot that a gang occupies. -/
def Gang.slot? (g : Gang) : Option (Fin 4 × Fin 16) :=
  match g.place with | .slot q n | .leaving q n _ | .entering q n _ => some (q, n) | _ => none

/-- Progress of the active context of a core (R360). -/
def State.progress (s : State) (k : CoreId) : State := s.setCore k { s.core k with hangMark := s.now }

/-- Whether the banks of a core may exchange in this very tick (R357, R70). -/
def State.savesNow (s : State) (k : CoreId) : Bool :=
  s.agenda.any fun d => d.tick ≤ s.now && d.task = .ev .contextBankExchange && d.arg.core = k

/-- Marks a parked record eligible with a key (R117) and lets its core relaunch (R118). A halted record is not eligible. -/
def State.makeEligible (s : State) (k : GangKey) (key : Tick) : State :=
  match s.gang? k with
  | some g =>
    if g.parked && g.hd.key.isNone && g.hd.kind != 4 then
      ((s.putGang { g with hd := { g.hd with key := some (recordable key) } }).progress g.core).schedule s.now .relaunch
        { EvArg.none with core := g.core }
    else s
  | none => s

/-! ## Waking on memory: monitors (R212, R214) -/

/-- Sets HIT on the monitors that a predicate names, and makes the records that wait on them eligible. -/
def State.hitMonitors (s : State) (p : CoreId → Monitor → Bool) : State :=
  if s.cores.toList.all fun co => co.cc.mons.isEmpty then s
  else (List.finRange 256).foldl (fun s k =>
    let cc := s.cc k
    let hits := cc.mons.filter fun m => !m.hit && p k m
    if hits.isEmpty then s
    else
      let s := s.setCc k { cc with mons := cc.mons.map fun m => if hits.contains m then { m with hit := true } else m }
      hits.foldl (fun s m => match s.gang? m.gang with
        | some g => if g.parked && g.hd.wake = 5 then s.makeEligible g.key (tickOf s.now) else s
        | none => s) s) s

/-- The monitors on bytes that are written: the value does not matter (R212). -/
def State.hitWritten (s : State) (bs : List (Nat × List Byte)) : State :=
  s.hitMonitors fun _ m => m.armed && bs.any fun x => m.addr < x.1 + x.2.length && x.1 < m.addr + m.size

/-- Doublewords that the hub or a core writes of its own: a ring's entry, a record (R212). -/
def State.hubWords (s : State) (a : Nat) (ds : List DWord) : State :=
  (s.setMem (memDWords s.mem a ds)).hitWritten [(a, List.replicate (8 * ds.length) 0)]

/-- Tests a parked record's wake condition (R117) and keeps its wake tick current (R67). -/
def State.checkWake (s : State) (k : GangKey) : State :=
  match s.gang? k with
  | some g =>
    if g.parked && g.hd.key.isNone then
      let w := wakeTick g.hd.wake (g.masked g.hd.tmask)
      let g' := if (g.hd.wake = 1 || g.hd.wake = 2) && !g.hd.bound then { g with hd := { g.hd with wtick := w } } else g
      match s.timeKey g' with
      | some key => (s.putGang g').makeEligible k key
      | none => s.putGang g'
    else s
  | none => s

/-- The image in memory of a gang's record kept current. -/
def State.syncGang (s : State) (k : GangKey) : State := match s.gang? k with | some g => s.syncRing g | none => s

/-- Writes a time register of a gang, keeps its record's image (R111) and tests its record's wake condition. -/
def State.putT (s : State) (k : GangKey) (n : TReg) (t : TimeReg) : State :=
  match s.gang? k with
  | some g => ((s.putGang { g with t := g.t.set n t }).checkWake k).syncGang k
  | none => s

/-- Recomputes a time register from its tracked set (R50). -/
def State.refreshT (s : State) (k : GangKey) (n : TReg) (landed : Nat) : State :=
  match s.gang? k with
  | some g => s.putT k n (recompute (s.tracked k n) g.t[n] (tickOf landed))
  | none => s

/-- Recomputes the register that tracks a request, where one does (R50). -/
def State.refreshOf (s : State) (r : Req) : State := if r.tracked then s.refreshT r.owner r.treg s.now else s

/-- Detaches the requests that a register tracks (R52). -/
def State.detach (s : State) (k : GangKey) (n : TReg) : State :=
  s.setReqs (s.reqs.map fun r => if r.of k && r.treg = n then { r with tracked := false } else r)

/-- Lets a detached PROMISED or BROKEN register settle when device time reaches its tick (R52). -/
def State.armTimer (s : State) (k : GangKey) (n : TReg) (t : TimeReg) : State :=
  if t.isOpen then s.schedule (s.whenTick t.tick) .detachedTimerSettle { EvArg.none with key := k, treg := n } else s

/-! ## The hub's rings in memory (R64, R65, R355) -/

/-- Counts a dropped report or event (R65, R355). -/
def Ctx.countDrop (c : Ctx) : Ctx :=
  c.setDw 10 (setBits (c.dw 10) 63 32 (min (c.dropped + 1) (2 ^ 32 - 1)))

/-- The context record as it stands, written back to memory (R349). -/
def State.writeCtx (s : State) (c : Ctx) : State :=
  (s.putCtx c).hubWords c.addr c.record.toList

/-- Appends an event to a context's event ring (R355). -/
def State.event (s : State) (cid : CtxId) (code reason : Nat) (core : CoreId) (gang : Nat) (info : Nat)
    (crew : Nat) (addr : Nat) : State :=
  match s.ctx? cid with
  | none => s
  | some c =>
    if (c.evWrite - c.evRead).toNat = 2 ^ c.evk then s.writeCtx c.countDrop
    else
      let n := c.evWrite.toNat % 2 ^ c.evk
      let d0 := code % 256 * 2 ^ 56 + reason % 256 * 2 ^ 48 + core.val * 2 ^ 40 + gang % 256 * 2 ^ 32 + info % 2 ^ 32
      let d1 := crew % 2 ^ 16 * 2 ^ 48 + addr % 2 ^ 48
      let s := s.hubWords (c.evBase + 32 * n) [BitVec.ofNat 64 d0, BitVec.ofNat 64 d1, s.time64, 0]
      s.writeCtx (c.setDw 13 (c.evWrite + 1))

/-- Appends a report record to a context's promise report ring, or counts a drop when it is full (R64, R65). -/
def State.report (s : State) (cid : CtxId) (ds : List DWord) : State :=
  match s.ctx? cid with
  | none => s
  | some c =>
    if (c.rrWrite - c.rrRead).toNat = 2 ^ c.rrk then s.writeCtx c.countDrop
    else
      let n := c.rrWrite.toNat % 2 ^ c.rrk
      (s.hubWords (c.rrBase + 32 * n) ds).writeCtx (c.setDw 14 (c.rrWrite + 1))

/-! ## Room in the store (R120 to R123) -/

/-- Blocks of a crew's records in the store of a core, the gang `but` left out. -/
def State.usedBlocks (s : State) (c : CrewKey) (but : Option GangKey) : Nat :=
  (s.gangs.filter fun g => g.crewKey = c && some g.key != but && g.inStore).foldl (fun n g => n + g.blocks) 0

/-- charged(c) of R120. -/
def State.charged (s : State) (c : Crew) (but : Option GangKey) : Nat := max (s.usedBlocks c.key but) (ceilDiv c.reserve 64)

/-- The crews placed on a core in its active context. -/
def State.crewsOn (s : State) (c : CoreId) : List Crew := s.crews.filter fun x => x.core = c && x.resident

/-- The unreserved space of a core's store in blocks (R84, R120). -/
def State.unreserved (s : State) (c : CoreId) (but : Option GangKey) : Nat :=
  12288 - (s.crewsOn c).foldl (fun n x => n + s.charged x but) 0

/-- Whether a record of a gang fits in the store (R120). -/
def State.recordFits (s : State) (g : Gang) : Bool :=
  match s.crew? g.crewKey with
  | none => true
  | some c => g.blocks ≤ s.unreserved g.core (some g.key) + (ceilDiv c.reserve 64 - s.usedBlocks c.key (some g.key))

/-- The wake tick by which a victim is chosen (R121): that of R67 for kinds 1 and 2, with a bound or not. A record of kind 8,
which can only be the new one, has none of its own: WTICK, 0, stands in (assumption row 120). -/
def Gang.victimTick (g : Gang) : Tick :=
  if g.hd.kind = 4 then never
  else match g.hd.wake.toNat with
    | 0 => g.hd.wtick
    | 1 | 2 => wakeTick g.hd.wake (g.masked g.hd.tmask)
    | 8 => g.hd.wtick
    | _ => if g.hd.wtick = 0 then never else g.hd.wtick

/-- SEQ order of R118: `a` after `b`. -/
def seqAfter (a b : Word) : Bool := let d := (a - b).toNat; 1 ≤ d && d ≤ 2 ^ 31 - 1

/-- Victim order of R121: the latest wake tick first, ties to the higher SEQ. -/
def victimBefore (a b : Gang) : Bool :=
  tickAfter a.victimTick b.victimTick || (!tickAfter b.victimTick a.victimTick && seqAfter a.hd.seq b.hd.seq)

/-- A place for `n` slots in a core's overflow ring of 2^k slots (R122): the first slot and the new tail. -/
def ringPlace (k head tail n : Nat) (empty : Bool) : Option (Nat × Nat) :=
  let size := 2 ^ k
  let used := if empty then 0 else (tail + size - head) % size
  let pos := tail % size
  let skip := if pos + n > size then size - pos else 0
  if used + skip + n + 1 < size then some (if skip = 0 then pos else 0, (pos + skip + n) % size) else none

/-- Sends a record to its core's overflow ring (R122); nothing where it does not fit. Its lines are booked in this tick (R417):
from now where it comes from a gang slot, else as the store port reads it out, from the clock `start`. -/
def State.toRing (s : State) (g : Gang) (start : Option Nat) : Option (State × Gang) :=
  match s.ctx? g.ctx with
  | none => none
  | some c =>
    let cc := s.cc g.core
    let empty := !s.gangs.any fun x => x.core = g.core && x.ctx = g.ctx && x.ringAt.isSome
    match ringPlace c.ovk cc.ringHead cc.ringTail g.blocks empty with
    | none => none
    | some (pos, tail) =>
      let s := s.setCc g.core { cc with ringTail := tail, ringHead := if empty then pos else cc.ringHead
                                        spills := satInc cc.spills }
      let s := s.count g.core 5 1 none none
      let s := s.scheduleTask ⟨s.now, 3, .ringOut, { EvArg.none with key := g.key, flag := start.isSome, n := start.getD 0 }⟩
      let place : Place := match g.place with | .slot q n => .leaving q n (some (pos, g.blocks)) | _ => .ring pos g.blocks
      some (s, { g with place := place, hd := { g.hd with written := none } })

/-- Context fault 0x0E (R123): the event is appended and the context is switched out of every core it is active on. -/
def State.overflowFault (s : State) (cid : CtxId) (c : CoreId) : State :=
  let s := s.event cid 4 0 c 0 0 0 0
  (List.finRange 256).foldl (fun s k =>
    if (s.core k).active = some cid then
      s.schedule s.now .ctxSwitchOut { EvArg.none with core := k, flag := true, ctx := cid } else s) s

/-- Makes room for a record (R121): while it does not fit, the latest-waking record that is not eligible, the new one
among them, goes to the ring. The answer is the state and the new record, whose place says where it went. Each round takes a
record out of the store, so as many rounds as there are gangs are enough. -/
def State.makeRoom (s : State) (g : Gang) : Nat → State × Gang
  | 0 => (s, g)
  | fuel + 1 =>
    if s.recordFits g then (s, g)
    else
      let others := s.gangs.filter fun x => x.core = g.core && x.place = .store && x.hd.key.isNone && x.key != g.key
      match firstBy victimBefore (g :: others) with
      | none => (s, g)
      | some v =>
        let start := max (s.core g.core).storeFree (s.clock g.core)
        match s.toRing v (if v.key = g.key then none else some start) with
        | none => (s.overflowFault g.ctx g.core, g)
        | some (s', v') =>
          if v.key = g.key then (s', v')
          else
            let s' := s'.setCore g.core { s'.core g.core with storeFree := start + ceilDiv (64 * v.blocks) 256 }
            (s'.putGang v').makeRoom g fuel

/-- The sum of the charged blocks of a core (R120). -/
def State.chargedSum (s : State) (k : CoreId) : Nat := (s.crewsOn k).foldl (fun n x => n + s.charged x none) 0

/-- The largest sum of charged blocks (CONT_STAT.HIGH, R124). -/
def State.markHigh (s : State) (c : CoreId) : State :=
  let cc := s.cc c
  s.setCc c { cc with high := max cc.high (s.chargedSum c) }

/-- The same with a gang as it is about to be put. -/
def State.markHighWith (s : State) (g : Gang) : State :=
  ((s.setGangs (g :: s.gangs.filter fun x => x.key != g.key)).markHigh g.core).setGangs s.gangs

/-- Writes a gang's record (R111): SEQ is assigned, fixed-latency results complete (R26), room is made (R121), and the
store port carries the record when it goes to the store. The gang's place tells where it goes: a gang in a slot keeps it
until the record is written, to the store or to the ring. -/
def State.writeRecord (s : State) (g : Gang) : State × Gang :=
  let co := s.core g.core
  let s := s.setCore g.core { co with seq := co.seq + 1 }
  let g := { g with hd := { g.hd with seq := co.seq, rot := g.front.length ≥ 2 && g.hd.kind != 2, key := none }
                    pend := [], fair := 0, rotPend := false, round := none, sel := none, clause := none, wait := false }
  let (s, g) := s.makeRoom g (s.gangs.length + 1)
  if g.ringAt.isSome then (s, g)
  else
    let co := s.core g.core
    let n := ceilDiv (64 * g.blocks) 256
    let start := max co.storeFree (s.clock g.core)
    let s := s.setCore g.core { co with storeFree := start + n }
    let s := s.dueIn g.core (start + n - 1) 3 (.ev .recordWriteDone)
      { EvArg.none with key := g.key }
    let g := match g.place with
      | .slot q k => { g with place := .leaving q k none }
      | _ => { g with place := .store }
    (s.markHighWith g, g)

/-- Puts a record's wake on the agenda: device time for kind 0, a condition that holds already, a bound, or a timeout (R117,
R125, R214). -/
def State.armWake (s : State) (g : Gang) : State :=
  let at_ := s.whenTick g.hd.wtick
  match g.hd.wake.toNat with
  | 0 => s.schedule at_ .wakeTimeReached { EvArg.none with key := g.key }
  | 1 | 2 =>
    let s := if wakeCond g.hd.wake (g.masked g.hd.tmask) then s.schedule s.now .wakeTimeReached { EvArg.none with key := g.key } else s
    if g.hd.bound then s.schedule at_ .wakeTimeReached { EvArg.none with key := g.key } else s
  | 5 => if g.hd.wtick = 0 then s else s.scheduleTask ⟨at_, 4, .ev .mwaitTimeout, { EvArg.none with key := g.key }⟩
  | 8 => s.schedule s.now .wakeTimeReached { EvArg.none with key := g.key }
  | _ => s

/-- What a deposit puts into the record's header (R110, R125). -/
structure Wait where
  wake   : BitVec 4
  wtick  : Tick := 0
  tmask  : BitVec 16 := 0
  object : BitVec 16 := 0
  arg    : Word := 0
  bound  : Bool := false
  floor  : Bool := false

/-- `deposit` of R111: the gang, whose frontier is whole and which issues nothing, becomes a record of a kind. -/
def State.deposit (s : State) (g : Gang) (kind : Byte) (w : Wait) : State × Gang :=
  let lastq : Byte := match g.slot? with | some (q, _) => BitVec.ofNat 8 q.val | none => g.hd.lastq
  let wt := if (w.wake = 1 || w.wake = 2) && !w.bound then wakeTick w.wake (g.masked w.tmask) else recordable w.wtick
  let g := { g with hd := { g.hd with kind := kind, wake := w.wake, wtick := wt, tmask := w.tmask
                                      object := w.object, arg := w.arg, lastq := lastq, bound := w.bound
                                      floor := w.floor } }
  let s := s.count g.core 3 1 (g.slot?.map (·.1)) (some g.key.launch)
  let s := if w.wake = 7 then s.count g.core 0x14 1 (g.slot?.map (·.1)) (some g.key.launch) else s
  let (s, g) := s.writeRecord g
  (s.armWake g, g)

/-! ## Space on a core (R84, R87, R99) -/

/-- The gangs that hold a gang slot of a quarter. -/
def State.inQuarter (s : State) (c : CoreId) (q : Fin 4) : List Gang :=
  s.gangs.filter fun g => g.core = c && (match g.slot? with | some (k, _) => k = q | none => false)

/-- Free vector register entries of a quarter (R9, R99). -/
def State.freeEntries (s : State) (c : CoreId) (q : Fin 4) : Nat :=
  1024 - (s.inQuarter c q).foldl (fun n g => n + s.alloc g) 0 -
    (((s.core c).draining.filter fun d => d.2.1 = q).foldl (fun n d => n + d.2.2) 0)

/-- The lowest free gang slot of a quarter. -/
def State.freeSlot (s : State) (c : CoreId) (q : Fin 4) : Option (Fin 16) :=
  let taken := (s.inQuarter c q).filterMap fun g => g.slot?.map (·.2)
  (List.finRange 16).find? fun n => !taken.contains n

/-- The quarter and slot for a gang of `need` entries (R87): the fewest resident gangs, then the lowest number. -/
def State.chooseSlot (s : State) (c : CoreId) (need : Nat) : Option (Fin 4 × Fin 16) :=
  let fits := (List.finRange 4).filter fun q => (s.freeSlot c q).isSome && need ≤ s.freeEntries c q
  match firstBy (fun a b => (s.inQuarter c a).length < (s.inQuarter c b).length) fits with
  | none => none
  | some q => (s.freeSlot c q).map fun n => (q, n)

/-- Lets waiting records and crews try a core on which something was freed, crews from tick `t` on (R86, R88). -/
def State.offerFrom (s : State) (c : CoreId) (t : Nat) : State :=
  let s := s.schedule s.now .relaunch { EvArg.none with core := c }
  if (s.slices.any fun l => l.nextCrew < l.crews) || (s.crews.any fun x => !x.resident || x.mig.isSome) then s.schedule t .crewPlacement EvArg.none else s

/-- The same where what is freed is free from the next clock (R99). -/
def State.offer (s : State) (c : CoreId) : State := s.offerFrom c (s.now + 1)

/-- The per-context state of every core, whether its context is active there or saved (R357). -/
def State.banks (s : State) : List CoreCtx := (s.cores.toList.map fun co => co.cc) ++ s.saved.map fun x => x.2.2

/-- The crew no longer exists in any form that R100 counts: its gangs, records, registrations, copies and lapidary
operations, and the copies of others into its partition, on any core and in any saved context (R230). -/
def State.crewIdle (s : State) (k : CrewKey) : Bool :=
  (match s.crew? k with
   | some c =>
     c.regs.isEmpty && !(s.gangs.any fun g => g.crewKey = k) &&
     !(s.banks.any fun cc => (cc.lap.ops.any fun o => crewKeyOf o.gang = k) || cc.cmds.any fun x =>
        x.complete.isSome && !x.done &&
          (x.crew = k || (x.dkind != 0 && x.dcrew = k.crew && x.crew.launch = k.launch)))
   | none => false)

/-- Brings the crew's retirement about in the clock after R100 comes to hold (R99). -/
def State.checkRetire (s : State) (k : CrewKey) : State :=
  match s.crew? k with
  | some c =>
    if s.crewIdle k then s.inClocks c.core 1 .crewRetire { EvArg.none with key := ⟨k.launch, k.crew, 0⟩ } else s
  | none => s

/-- A gang whose last lane has exited (R99): its slot is free, its entries once its landings are done; its promises settle
without effect; its monitor is freed (R212). -/
def State.gangExit (s : State) (g : Gang) : State :=
  let writing := s.reqs.any fun r => r.of g.key &&
    (match r.effect with | .load (.v _) _ | .lanes (.v _) _ | .atomic _ (some (.v _)) _ => true | .queue (.pop _) _ => true
                         | .queue (.peek _) _ => true | _ => false)
  let co := s.core g.core
  let s := match g.slot? with
    | some (q, _) => if writing then s.setCore g.core { co with draining := (g.key, q, s.alloc g) :: co.draining } else s
    | none => s
  let cc := s.cc g.core
  let s := s.setCc g.core { cc with mons := cc.mons.filter fun m => m.gang != g.key }
  let s := s.setReqs (s.reqs.map fun r => if r.of g.key then { r with tracked := false, orphan := true } else r)
  ((s.dropGang g.key).offer g.core).checkRetire g.crewKey

/-! ## Taking an exception and returning from one (R351 to R353) -/

/-- What a trap reports. -/
structure Trap where
  cause : Byte
  info  : Word
deriving DecidableEq, Repr

/-- Whether a trap at this PC and cause lets `rett` resume, and where (R353). -/
def resumePoint (t : TrapBlk) : Option Pc :=
  match t.cause.toNat with
  | 0x01 => if t.info.toNat / 256 % 2 = 1 then some t.pc else none
  | 0x09 | 0x0A | 0x0B => some t.pc
  | 0x0C => if t.info = 0 then some t.pc else none
  | 0x0F => some (t.pc + 4)
  | n => if 0x80 ≤ n then some (t.pc + 4) else none

/-- Escalation (R351): the trap block takes the trap, in-handler stays set, the gang becomes a halted record whose
trapping entry stands at `rett`'s resume point or at the clause's header, and "gang halted" is appended. -/
def State.escalate (s : State) (g : Gang) (e : Entry) (hdr pc : Pc) (t : Trap) : State :=
  let blk : TrapBlk := ⟨pc, hdr, t.cause, t.info, true⟩
  let at_ := (resumePoint blk).getD hdr
  let g := { g with front := frontInsert { e with pc := at_ } g.front, sel := none, clause := none, trap := some blk
                    hmask := e.mask, wait := false }
  let (s, g) := s.deposit g 4 { wake := 8 }
  let s := s.putGang g
  s.event g.ctx 3 t.cause.toNat g.core g.key.gang.val t.info.toNat g.key.crew.toNat pc.toNat

/-- The handler of a gang's context, 0 when there is none (R349). -/
def State.handlerOf (s : State) (g : Gang) : Pc := match s.ctx? g.ctx with | some c => c.handler | none => 0
/-- BRKHALT of a gang's context (R349). -/
def State.brkHalts (s : State) (g : Gang) : Bool := match s.ctx? g.ctx with | some c => c.brkHalt | none => false

/-- Taking a trap (R351), for every cause but 0x0E: `g` is the gang with the trapping entry `e` out of its frontier,
`hdr` the header of the clause, `pc` the trap PC. The trap state is recorded, the entry moves to HANDLER with its
priority, and in-handler is set; a trap in the handler, with no handler, or by `brk` under BRKHALT escalates. -/
def State.takeTrap (s : State) (g : Gang) (e : Entry) (hdr pc : Pc) (t : Trap) : State :=
  let s := s.count g.core 6 1 (g.slot?.map (·.1)) (some g.key.launch)
  let handler := s.handlerOf g
  if g.inHandler || handler = 0 || s.brkHalts g && t.cause = 0x0F then s.escalate g e hdr pc t
  else
    s.putGang { g with front := frontInsert { e with pc := handler } g.front, sel := none, clause := none
                       trap := some ⟨pc, hdr, t.cause, t.info, true⟩, hmask := e.mask, lastPc := some handler, rotPoint := true
                       wait := false, readyAt := s.clock g.core + 1 }

end Sys2Proof.Machine
end

