-- ==== Sys2Proof/Machine/Operands.lean ====
section
/-!
DEFINITION. Operand forms of instruction words (R32, R33), reads and writes of registers with the latencies of R24 and
R25, and the frame in which every instruction word issues: its checks (R33, R34, R40), its issue clock (R24, R94, R346)
and its precise trap (R7).
-/
namespace Sys2Proof.Machine

/-- The role groups of R40. -/
inductive WordKind where
  | free | vec | mem | copy | fence | mtx
deriving DecidableEq, Repr

/-- R40: whether a role may issue a word. -/
def roleAllows (r : Role) (k : WordKind) : Bool :=
  match r, k with
  | .general, _ => true
  | _, .free => true
  | _, .fence => true
  | .copy, .copy => true
  | .matrix, .mtx => true
  | .vector, .vec => true
  | .vector, .mem => true
  | _, _ => false

/-- The registers of a source field. -/
def srcRefs : VSrc → List RegRef
  | .v n => [.v n] | .s n => [.s n]

/-- `k` registers from a register upward, as operands. -/
def vregsFrom (n k : Nat) : List RegRef :=
  (List.range k).filterMap fun i => (fin? 192 (n + i)).map .v
def sregsFrom (n k : Nat) : List RegRef :=
  (List.range k).filterMap fun i => (fin? 64 (n + i)).map .s

/-- The data registers of a width, from `skip` groups above D (R32, R287). -/
def dataRefs (d : DataReg) (w : Width) (skip : Nat) : List RegRef :=
  match d with
  | .v n => vregsFrom (n.val + skip * w.vregs) w.vregs
  | .s n => sregsFrom (n.val + skip * w.sregs) w.sregs

def offRefs : OffReg → List RegRef
  | .v n => [.v n] | .s n => [.s n]

/-! ## Reads -/

/-- A result of a scalar register that is due after clock `c`. -/
def Pending.openS (n : SReg) (c : Nat) : Pending → Bool | .s k due _ => k = n && c < due | _ => false
/-- A result of lane `l` of a vector register that is due after clock `c`. -/
def Pending.openV (n : VReg) (l c : Nat) : Pending → Bool
  | .v k due m _ => k = n && c < due && m.getLsbD l | _ => false
/-- A result of bit `l` of a predicate register that is due after clock `c`. -/
def Pending.openP (n : PReg) (l c : Nat) : Pending → Bool
  | .p k due m _ => k = n && c < due && m.getLsbD l | _ => false

/-- The value of a scalar register as a word reads it in clock `c`: a result not yet due may be old or new (R25). -/
def Gang.readS (g : Gang) (f c : Nat) (n : SReg) : DWord :=
  match g.pend.find? (Pending.openS n c) with
  | some (.s _ _ old) => if Config.earlyNew f (256 + n.val) 0 then g.s[n] else old
  | _ => g.s[n]

/-- Lane `l` of a vector register, likewise. -/
def Gang.readV (g : Gang) (f c : Nat) (n : VReg) (l : Nat) : Word :=
  match g.pend.find? (Pending.openV n l c) with
  | some (.v _ _ _ old) => if Config.earlyNew f n.val l then vget g.v[n] l else vget old l
  | _ => vget g.v[n] l

/-- A predicate register, likewise, lane by lane. -/
def Gang.readP (g : Gang) (f c : Nat) (n : PReg) : Mask :=
  maskOf fun l => match g.pend.find? (Pending.openP n l c) with
    | some (.p _ _ _ old) => if Config.earlyNew f (512 + n.val) l then g.p[n].getLsbD l else old.getLsbD l
    | _ => g.p[n].getLsbD l

/-- Lane `l` of a vector source: a vector register's lane, or the low 32 bits of a scalar register (R33). -/
def Gang.readSrc (g : Gang) (f c : Nat) (x : VSrc) (l : Nat) : Word :=
  match x with
  | .v n => g.readV f c n l
  | .s n => lowWord (g.readS f c n)

/-- Predicate register `p` as a word reads it now. -/
def State.pread (s : State) (g : Gang) (p : PReg) : Mask := g.readP s.freeNo (s.clock g.core) p
/-- Scalar register `n` as a word reads it now. -/
def State.sread (s : State) (g : Gang) (n : SReg) : DWord := g.readS s.freeNo (s.clock g.core) n

/-! ## Writes -/

/-- A result that is still not due in clock `c`. -/
def Pending.live (c : Nat) : Pending → Bool | .s _ d _ => c < d | .v _ d _ _ => c < d | .p _ d _ _ => c < d

/-- Results that are still not due in clock `c`. -/
def livePend (c : Nat) (ps : List Pending) : List Pending := ps.filter (Pending.live c)

/-- A result of a scalar register, or of a lane of a vector or predicate register, that is due in clock `t` or later. -/
def Pending.lateS (n : SReg) (t : Nat) : Pending → Bool | .s k due _ => k = n && t ≤ due | _ => false
def Pending.lateV (n : VReg) (l t : Nat) : Pending → Bool | .v k due q _ => k = n && t ≤ due && q.getLsbD l | _ => false
def Pending.lateP (n : PReg) (l t : Nat) : Pending → Bool | .p k due q _ => k = n && t ≤ due && q.getLsbD l | _ => false

/-- Writes a scalar register with a latency; where an earlier word's result is due no sooner, either value may stay (R25). -/
def Gang.writeS (g : Gang) (f c lat : Nat) (n : SReg) (v : DWord) : Gang :=
  let clash := (livePend c g.pend).any (Pending.lateS n (c + lat))
  let v := if clash && !Config.overlapLater f (256 + n.val) 0 then g.s[n] else v
  { g with s := g.s.set n v, pend := .s n (c + lat) g.s[n] :: livePend c g.pend }

/-- Writes the lanes of `m` of a vector register with a latency. -/
def Gang.writeV (g : Gang) (f c lat : Nat) (n : VReg) (m : Mask) (v : Nat → Word) : Gang :=
  let new := mergeLanes m g.v[n] fun l =>
    if (livePend c g.pend).any (Pending.lateV n l (c + lat)) && !Config.overlapLater f n.val l then vget g.v[n] l else v l
  { g with v := g.v.set n new, pend := .v n (c + lat) m g.v[n] :: livePend c g.pend }

/-- Writes the lanes of `m` of a predicate register with a latency. -/
def Gang.writeP (g : Gang) (f c lat : Nat) (n : PReg) (m : Mask) (v : Mask) : Gang :=
  let new := maskOf fun l =>
    if m.getLsbD l then
      (if (livePend c g.pend).any (Pending.lateP n l (c + lat)) && !Config.overlapLater f (512 + n.val) l then g.p[n].getLsbD l
       else v.getLsbD l)
    else g.p[n].getLsbD l
  { g with p := g.p.set n new, pend := .p n (c + lat) m g.p[n] :: livePend c g.pend }

/-! ## Landings in registers (R111, R284) -/

/-- Whether a landing reaches a vector register: always while resident; in a record only below 16 × VCOUNT (R111). -/
def Gang.lands (g : Gang) (n : Nat) : Bool := !g.parked || n < 16 * g.live

/-- Lands a word in a lane of a vector register. -/
def Gang.landV (g : Gang) (n l : Nat) (w : Word) : Gang :=
  if h : n < 192 then
    if g.lands n then { g with v := g.v.set n (vset g.v[n] l w) } else g
  else g

/-- Lands a doubleword in a scalar register. -/
def Gang.landS (g : Gang) (n : Nat) (v : DWord) : Gang := { g with s := vset g.s n v }

/-- Extends the bytes of a narrow value to 32 bits or more under its width (R32). A b32 value in a 64-bit scalar register has bits [63:32]
zero, which the manual does not say: the model's choice (DESIGN CHOICE, assumption row 129). -/
def extendTo (w : Width) (bs : List Byte) : Nat :=
  match w with
  | .i8 => (BitVec.signExtend 64 (BitVec.ofNat 8 (leNat bs))).toNat
  | .i16 => (BitVec.signExtend 64 (BitVec.ofNat 16 (leNat bs))).toNat
  | _ => leNat bs

/-- Lands a value of width `w` for a lane in data registers (R32): narrow values fill the register, a b64 or b128 value
takes consecutive registers, low word first. -/
def Gang.landData (g : Gang) (d : DataReg) (w : Width) (l : Nat) (bs : List Byte) : Gang :=
  let x := extendTo w bs
  match d with
  | .v n => (List.range w.vregs).foldl (fun g i => g.landV (n.val + i) l (BitVec.ofNat 32 (x / 2 ^ (32 * i)))) g
  | .s n => (List.range w.sregs).foldl (fun g i => g.landS (n.val + i) (BitVec.ofNat 64 (x / 2 ^ (64 * i)))) g

/-- The bytes that a store of width `w` takes from a lane's data registers, `skip` register groups above D (R285, R287). -/
def Gang.dataBytes (g : Gang) (f c : Nat) (d : DataReg) (w : Width) (skip l : Nat) : List Byte :=
  let x := match d with
    | .v n => (vregsFrom (n.val + skip * w.vregs) w.vregs).foldr (fun r a =>
        (match r with | .v k => (g.readV f c k l).toNat | _ => 0) + 2 ^ 32 * a) 0
    | .s n => (sregsFrom (n.val + skip * w.sregs) w.sregs).foldr (fun r a =>
        (match r with | .s k => (g.readS f c k).toNat | _ => 0) + 2 ^ 64 * a) 0
  natLe w.size x

/-! ## The scoreboard (R25) -/

/-- The registers that a request will still write. -/
def Req.dsts (r : Req) : List RegRef :=
  match r.effect with
  | .load d w | .lanes d w | .atomic _ (some d) w => dataRefs d w 0
  | .scalar d _ => [.s d]
  | .queue (.pop d) _ | .queue (.peek d) _ => [.v d]
  | .queue (.len d) _ => [.s d]
  | _ => []

/-- A width of a size in bytes. -/
def widthOf : Nat → Width
  | 1 => .b8 | 2 => .b16 | 4 => .b32 | 8 => .b64 | _ => .b128

/-- The registers that a request has yet to read in clock `c` (R25): of a store, as many as its width takes. -/
def Req.toRead (r : Req) (c : Nat) : List RegRef :=
  if c < r.readAt then r.srcs.flatMap fun d => match r.effect with
    | .atomic _ _ w => dataRefs d w 0
    | _ => dataRefs d (widthOf (match r.pieces with | p :: _ => p.size | [] => 16)) 0
  else []

/-- Trap 0x02: a register whose fixed-latency result is not due is read. It goes by registers, also where the result lies in lanes of
another entry only (DEDUCED, assumption row 130). -/
def Gang.early (g : Gang) (c : Nat) (reads : List RegRef) : Bool :=
  g.pend.any fun p => match p with
    | .s n due _ => c < due && reads.contains (.s n)
    | .v n due _ _ => c < due && reads.contains (.v n)
    | .p n due _ _ => c < due && reads.contains (.p n)

/-- Trap 0x03: a register that a pending access will write is read or written, or one that a pending store or copy has
yet to read is written. -/
def State.unsettled (s : State) (g : Gang) (reads writes : List RegRef) : Bool :=
  s.reqs.any fun r => r.of g.key &&
    ((r.dsts.any fun x => reads.contains x || writes.contains x) ||
     ((r.toRead (s.clock g.core)).any fun x => writes.contains x))

/-- Notes for a gang's requests in flight that were made before number `n` that other writes reach their registers, in the lanes of
`m` (R25). -/
def State.overlap (s : State) (k : GangKey) (writes : List RegRef) (m : Mask) (n : Nat) : State :=
  if writes.isEmpty then s
  else s.setReqs (s.reqs.map fun r =>
    if r.of k && r.id < n then { r with mixed := ((r.dsts.filter fun x => writes.contains x).map fun x => (x, m)) ++ r.mixed } else r)

/-! ## The frame of a word -/

/-- What the frame needs to know of a word before its own effect: its stall count, whether it has an extension word, its
role group, the registers it reads and writes, and whether its fields name something the gang does not have (R33). -/
structure WordSpec where
  stall   : Stall
  ext     : Bool := false
  kind    : WordKind := .free
  reads   : List RegRef := []
  writes  : List RegRef := []
  illegal : State → Gang → Bool := fun _ _ => false

/-- A vector register at or above the allocation (R33). -/
def beyond (alloc : Nat) (rs : List RegRef) : Bool :=
  rs.any fun r => match r with | .v n => alloc ≤ n.val | _ => false

/-- The trap of a word before its own effect, lowest cause first (R34): 0x01 by a field or a role, then with the checking
scoreboard 0x02 and 0x03 (R25). -/
def State.wordTrap (s : State) (g : Gang) (w : WordSpec) : Option Trap :=
  let role := !roleAllows g.role w.kind
  if role then some ⟨0x01, 1⟩
  else if beyond (s.alloc g) (w.reads ++ w.writes) || w.illegal s g then some ⟨0x01, 0⟩
  else if (match s.slice? g.key.launch with | some l => l.check | none => false) then
    if g.early (s.clock g.core) w.reads then some ⟨0x02, 0⟩
    else if s.unsettled g w.reads w.writes then some ⟨0x03, 0⟩
    else none
  else none

/-- One issue clock of a gang (R24, R94, R346): the event counters, the slice's count and the fairness timer, whose
expiries are events of their own. The timer counts in a trap handler too, but no rotation becomes pending there (R351). -/
def State.issueClock (s : State) (g : Gang) : State × Gang :=
  let s := s.count g.core 1 1 (g.slot?.map (·.1)) (some g.key.launch)
  let s := match s.slice? g.key.launch with
    | some l =>
      let l' := { l with count := l.count + 1 }
      let s := s.putSlice l'
      if l.limited && !l.spent && l.budget.toNat ≤ l'.count then
        s.schedule s.now .budgetExhausted { EvArg.none with launch := l.id }
      else s
    | none => s
  let co := s.core g.core
  let s := s.setCore g.core { co with hangMark := s.now }
  if g.entries < 2 then (s, { g with fair := 0 })
  else if g.rotPend || g.round.isSome then (s, g)
  else
    let period := match s.slice? g.key.launch with | some l => l.fair | none => 4096
    let g := { g with fair := min (g.fair + 1) period }
    (if period ≤ g.fair && !g.inHandler then s.schedule s.now .fairnessTimerExpiry { EvArg.none with key := g.key } else s, g)

/-- The gang with its place in the clause moved past a word (R24). -/
def Gang.advance (g : Gang) (c : Nat) (n : Stall) (ext : Bool) : Gang :=
  { g with readyAt := c + 1 + n.val
           clause := g.clause.map fun k =>
             { k with next := k.next + (if ext then 8 else 4), left := k.left - (if ext then 2 else 1) } }

/-- A store or scratchpad atomic whose data registers have not been read when one of them is written takes the new value (R190,
R285). -/
def State.rereadStores (s : State) (g : Gang) : State :=
  let c := s.clock g.core
  s.setReqs (s.reqs.map fun r =>
    match r.srcs with
    | d :: _ =>
      if r.of g.key && c < r.readAt then
        let read := fun (p : Piece) (skip : Nat) => g.dataBytes 0 (c + 64) d (widthOf p.size) skip p.lane
        { r with pieces := r.pieces.map fun p => match r.effect with
            | .store => { p with data := read p 0 }
            | .atomic op .. => { p with data := read p 1, data2 := if op = .cas then read p 2 else p.data2 }
            | _ => p }
      else r
    | [] => r)

/-- The end of a word: the clause may end, the gang may have exited (R99, R105). -/
def State.endWord (s : State) (g : Gang) : State :=
  let g := if g.wait then g else g.endClause
  let s := s.rereadStores g
  if g.front.isEmpty && g.sel.isNone then (s.putGang g).gangExit g else s.putGang g

/-- The issuing gang with its selected entry and clause; a gang one of whose words waits for its probe issues none. -/
def State.issuing (s : State) : Option (Gang × Entry × Clause) :=
  match s.gang? s.own.cur with
  | some g => match g.sel, g.clause, g.probing with
    | some e, some c, none => some (g, e, c)
    | _, _, _ => none
  | none => none

/-- What a word may do to the state and the gang, given its address. -/
abbrev Body := State → Gang → Pc → Except Trap (State × Gang)

/-- An instruction word: its checks, its issue clock, then its own effect `body` on the state and the gang (whose place is
already past the word), given the word's address; a trap cancels every effect (R7) and is taken at the word. What the word writes
is noted for the requests in flight once it takes effect. -/
def runWord (w : WordSpec) (body : Body) (s : State) :
    Host.Outcome State Fault Refusal :=
  match s.issuing with
  | none => .fault .noIssuingGang
  | some (g, e, c) =>
    let s0 := s.useFree 1
    let (s1, g1) := s0.issueClock g
    match s.wordTrap g w with
    | some t => .next (s1.takeTrap { g1 with sel := none, clause := none } e c.hdr c.next t)
    | none =>
      match body s1 (g1.advance (s.clock g.core) w.stall w.ext) c.next with
      | .error t => .next (s1.takeTrap { g1 with sel := none, clause := none } e c.hdr c.next t)
      | .ok (s2, g2) =>
        if g2.probing.isSome then .next (s2.endWord { g2 with marks := w.writes })
        else .next ((s2.overlap g.key w.writes g.active s.own.nextReq).endWord g2)

/-- A word whose effect is on the gang's registers alone and never traps: `f` is given the free-value number, the clock
and the gang. -/
def runPure (w : WordSpec) (f : Nat → Nat → Gang → Gang) (s : State) : Host.Outcome State Fault Refusal :=
  runWord w (fun s' g _ => .ok (s', f s.own.free (s.clock g.core) g)) s

end Sys2Proof.Machine
end

