-- ==== Sys2Proof/Machine/Port.lean ====
section
/-!
DEFINITION. The memory port up to the probe: buffer records (R271 to R274), homes (R275), the checks (R276, R277),
translation with its TLBs (R278), pageable pages (R280), physical limits (R390, R418).
-/
namespace Sys2Proof.Machine

/-! ## Buffer records (R272) -/

namespace Buf
def base (b : Vector DWord 8) : Nat := bits b[0] 47 0
def length (b : Vector DWord 8) : Nat := bits b[1] 48 0
def owner (b : Vector DWord 8) : CtxId := BitVec.ofNat 12 (bits b[2] 63 52)
def valid (b : Vector DWord 8) : Bool := bits b[2] 51 51 = 1
def pageable (b : Vector DWord 8) : Bool := bits b[2] 50 50 = 1
def asite (b : Vector DWord 8) : Bool := bits b[2] 49 49 = 1
def refresh (b : Vector DWord 8) : Nat := bits b[2] 48 47
def a (b : Vector DWord 8) : Bool := bits b[2] 46 46 = 1
def w (b : Vector DWord 8) : Bool := bits b[2] 45 45 = 1
def r (b : Vector DWord 8) : Bool := bits b[2] 44 44 = 1
def tier (b : Vector DWord 8) : Nat := bits b[2] 43 40
def gran (b : Vector DWord 8) : Nat := bits b[2] 39 36
def comp (b : Vector DWord 8) : Nat := bits b[2] 35 34
def ctype (b : Vector DWord 8) : Nat := bits b[2] 31 24
def peer (b : Vector DWord 8) : Nat := bits b[2] 23 16
def stks (b : Vector DWord 8) : Nat := bits b[2] 15 0
def chans (b : Vector DWord 8) : Nat := bits b[3] 31 0

/-- Whether a record is usable by a context (R273). -/
def usable (b : Vector DWord 8) (c : CtxId) : Bool :=
  valid b && owner b = c &&
  bits b[0] 63 48 = 0 && bits b[1] 63 49 = 0 && bits b[2] 33 32 = 0 && bits b[3] 63 32 = 0 &&
  b[4] = 0 && b[5] = 0 && b[6] = 0 && b[7] = 0 &&
  tier b ≤ 3 && comp b ≤ 2 && refresh b ≤ 1 && base b % 256 = 0 &&
  base b + length b ≤ 2 ^ 48 && 1 ≤ length b &&
  (if tier b = 0 then stks b != 0 else stks b = 0) && (if tier b = 1 then chans b != 0 else chans b = 0) &&
  (if comp b = 2 then (ctype b = 1 || ctype b = 3) else ctype b = 0) && (if tier b = 3 then true else peer b = 0) &&
  !(asite b && (2 ≤ tier b || comp b != 0))

end Buf

/-- The record of a handle in a context's buffer table, unless the handle lies beyond the table (R271). -/
def State.bufRec (s : State) (c : Ctx) (h : Nat) : Option (Vector DWord 8) :=
  if h < 2 ^ c.btj then some (Vector.ofFn fun i => memDWord s.mem (c.btBase + 64 * h + 8 * i.val)) else none

/-- The k-th set bit of a mask of `n` bits. -/
def setBitNo (mask n k : Nat) : Nat := ((List.range n).filter fun i => mask / 2 ^ i % 2 = 1).getD k 0

/-- The home of a byte at offset `x` of a buffer (R275). -/
def homeOf (b : Vector DWord 8) (x : Nat) : Home :=
  let i := x / 2 ^ (8 + Buf.gran b)
  match Buf.tier b with
  | 0 =>
    let c := ((List.range 16).filter fun k => Buf.stks b / 2 ^ k % 2 = 1).length
    let q := setBitNo (Buf.stks b) 16 (i % c)
    .hbm ⟨(4 * q + x / 128 % 4) % 64, Nat.mod_lt _ (by decide)⟩ ⟨q % 16, Nat.mod_lt _ (by decide)⟩ (Buf.comp b = 1)
  | 1 =>
    let c := ((List.range 32).filter fun k => Buf.chans b / 2 ^ k % 2 = 1).length
    let q := setBitNo (Buf.chans b) 32 (i % c)
    .cap ⟨x / 128 % 64, Nat.mod_lt _ (by decide)⟩ ⟨q % 32, Nat.mod_lt _ (by decide)⟩
  | 2 => .host
  | _ => .peer ⟨Buf.peer b % 256, Nat.mod_lt _ (by decide)⟩

/-- The key of memory for a physical address that translation gave: the capacity tier's byte is told by its channel. -/
def homeKey (h : Home) (pa : Nat) : Nat :=
  match h with | .cap _ ch => capKey ch (pa % 2 ^ 36) | _ => pa

/-! ## Physical limits (R390, R418) -/

/-- Bytes of a stack that TIER 0 may use, for a cache of `128 GiB × csize` (R306). -/
def stackBytes (csize : Nat) : Nat := 96 * 2 ^ 30 - csize * 8 * 2 ^ 30 - 48 * 2 ^ 20

/-- The cache size code in force (R306, R399). -/
def State.csize (s : State) : Nat := bits s.sys.bootCfg 2 0

/-- Whether the `n` bytes of a page at a physical address are ones that a page may map (R390, R418). -/
def State.mapped (s : State) (pa n : Nat) : Bool :=
  match pa / 2 ^ 50 % 4 with
  | 0 =>
    (match pa / 2 ^ 48 % 4 with
     | 0 => pa / 2 ^ 41 % 128 = 0 && pa % 2 ^ 37 + n ≤ stackBytes s.csize
     | 1 => pa / 2 ^ 36 % 4096 = 0
     | _ => false)
  | 1 => false
  | _ => true

/-- Whether a physical address lies in HBM5 that programs and rings may use (R349, R418). -/
def State.inHbm (s : State) (pa : Nat) : Bool := pa < 2 ^ 41 && pa % 2 ^ 37 < stackBytes s.csize

/-! ## Translation (R278) -/

/-- A walk's result: the leaf's translation and the entries used, the root's first. -/
structure Walk where
  entry : TlbEntry
  used  : List Nat
deriving DecidableEq, Repr

/-- Index shift, index count and page bits of each level (R278). -/
def levelShift : Nat → Nat | 0 => 39 | 1 => 30 | 2 => 21 | _ => 16

/-- Walks the tables from a level's table at `table` (R278); nothing when an entry counts as not present. -/
def walkFrom (s : State) (va : Nat) : Nat → Nat → Nat → List Nat → Option Walk
  | 0, _, _, _ => none
  | fuel + 1, level, table, used =>
    let sh := levelShift level
    let idx := va / 2 ^ sh % (if level = 3 then 32 else 512)
    let at_ := table + 8 * idx
    let e := memDWord s.mem at_
    let addr := bits e 51 8 * 256
    if bits e 0 0 = 0 || bits e 63 52 != 0 || bits e 7 4 != 0 then none
    else if level = 3 || bits e 1 1 = 1 then
      if level = 0 || addr % 2 ^ sh != 0 || !s.mapped addr (2 ^ sh) then none
      else some ⟨⟨0, va / 2 ^ sh * 2 ^ sh, addr, sh, bits e 3 3 = 1, at_, 0⟩, used ++ [at_]⟩
    else if addr % (if level = 2 then 256 else 4096) != 0 then none
    else walkFrom s va fuel (level + 1) addr (used ++ [at_])

/-- The walk of a context's tables for a virtual address. -/
def State.walk (s : State) (c : Ctx) (va : Nat) : Option Walk := walkFrom s va 4 0 c.ptRoot []

/-- The addresses of the entries that a walk reads, up to the leaf or to the first entry that counts as not present (R278). -/
def readsFrom (s : State) (va : Nat) : Nat → Nat → Nat → List Nat
  | 0, _, _ => []
  | fuel + 1, level, table =>
    let sh := levelShift level
    let at_ := table + 8 * (va / 2 ^ sh % (if level = 3 then 32 else 512))
    let e := memDWord s.mem at_
    let addr := bits e 51 8 * 256
    if bits e 0 0 = 0 || bits e 63 52 != 0 || bits e 7 4 != 0 || level = 3 || bits e 1 1 = 1 ||
        addr % (if level = 2 then 256 else 4096) != 0 then [at_]
    else at_ :: readsFrom s va fuel (level + 1) addr

/-- Whether a TLB entry translates an address of a context. -/
def TlbEntry.covers (e : TlbEntry) (c : CtxId) (va : Nat) : Bool := e.ctx = c && va / 2 ^ e.bits * 2 ^ e.bits = e.va

/-- The translation of a TLB entry. -/
def TlbEntry.map (e : TlbEntry) (va : Nat) : Nat := e.pa + va % 2 ^ e.bits

def State.coreTlb? (s : State) (k : CoreId) (c : CtxId) (va : Nat) : Option TlbEntry :=
  (s.core k).tlb.find? fun e => e.covers c va
def State.spanTlb? (s : State) (k : CoreId) (c : CtxId) (va : Nat) : Option TlbEntry :=
  (s.hier.spanTlb[spanOf k]).find? fun e => e.covers c va

/-- The translation that a probe uses: a TLB entry of the core or its span, else the tables (R279). -/
def State.translate (s : State) (k : CoreId) (c : Ctx) (va : Nat) : Option TlbEntry :=
  match s.coreTlb? k c.id va with
  | some e => some e
  | none => match s.spanTlb? k c.id va with
    | some e => some e
    | none => (s.walk c va).map fun w => { w.entry with ctx := c.id }

/-- A list with an entry put in front, the least recently used one dropped beyond `cap` (R279). -/
def lruPut {α : Type} (used : α → Nat) (same : α → Bool) (cap : Nat) (a : α) (xs : List α) : List α :=
  let xs := xs.filter fun x => !same x
  let xs := if xs.length < cap then xs
    else match firstBy (fun x y => used x < used y) xs with
      | none => xs
      | some v => let i := xs.findIdx fun x => used x = used v; xs.eraseIdx i
  a :: xs

/-- Puts a translation into the core's TLB, as used now (R279). -/
def State.fillCore (s : State) (k : CoreId) (e : TlbEntry) : State :=
  let e := { e with used := s.now }
  let co := s.core k
  s.setCore k { co with tlb := lruPut (·.used) (fun x => x.covers e.ctx e.va) 512 e co.tlb }

/-- Puts a translation into the core's and the span's TLB (R279). -/
def State.fillTlb (s : State) (k : CoreId) (e : TlbEntry) : State :=
  let e := { e with used := s.now }
  let same := fun (x : TlbEntry) => x.covers e.ctx e.va
  let s := s.fillCore k e
  let sp := spanOf k
  s.setHier { s.hier with spanTlb := s.hier.spanTlb.set sp (lruPut (·.used) same 8192 e s.hier.spanTlb[sp]) }

/-- Sets D in the span's entry of a translation, whose recency stays (R278). -/
def State.markSpan (s : State) (k : CoreId) (e : TlbEntry) : State :=
  let sp := spanOf k
  s.setHier { s.hier with spanTlb := s.hier.spanTlb.set sp (s.hier.spanTlb[sp].map fun x =>
    if x.covers e.ctx e.va then { x with dirty := true } else x) }

/-- Sets the accessed bit of the entries that a walk used, and the dirty bit of the leaf for a write (R278). -/
def State.markWalk (s : State) (w : Walk) (write : Bool) : State :=
  let m := w.used.foldl (fun m a => memSetDWord m a (memDWord m a ||| 4)) s.mem
  s.setMem (if write then memSetDWord m w.entry.leaf (memDWord m w.entry.leaf ||| 8) else m)

/-! ## The checks (R276, R277) -/

/-- One access of an instruction: its lane, its offset (exact, R283), its size. -/
structure Access where
  lane : Nat
  off  : Int
  size : Nat
deriving DecidableEq, Repr

/-- Which right an access needs (R276). -/
inductive Need where
  | read | write | atomic
deriving DecidableEq, Repr

/-- The right a record gives for a need; atomics and reductions have none on host and peer tiers (R276). -/
def Buf.allows (b : Vector DWord 8) : Need → Bool
  | .read => Buf.r b
  | .write => Buf.w b
  | .atomic => Buf.a b && Buf.tier b < 2

/-- The record that an access may use, or nothing where the owner check fails (R273, R276). -/
def State.usableRec (s : State) (c : Ctx) (h : Nat) : Option (Vector DWord 8) :=
  match s.bufRec c h with
  | some b => if Buf.usable b c.id && !c.revoked.contains h then some b else none
  | none => none

/-- The lowest lane whose access fails a test. -/
def lowestFail (xs : List Access) (bad : Access → Bool) : Option Nat := (xs.find? bad).map (·.lane)

/-- The checks of R276 in their order over all accesses, with the trap info of R277. -/
def State.portCheck (s : State) (k : CoreId) (c : Ctx) (h : Nat) (need : Need) (xs : List Access) :
    Except Trap (Vector DWord 8) :=
  let lane0 := match xs with | x :: _ => x.lane | [] => 0
  match s.usableRec c h with
  | none => .error ⟨0x06, BitVec.ofNat 32 lane0⟩
  | some b =>
    if !Buf.allows b need then .error ⟨0x05, BitVec.ofNat 32 lane0⟩
    else match lowestFail xs fun x => x.off < 0 || (Buf.length b : Int) < x.off + x.size with
      | some l => .error ⟨0x04, BitVec.ofNat 32 l⟩
      | none => match lowestFail xs fun x => x.off % x.size != 0 with
        | some l => .error ⟨0x08, BitVec.ofNat 32 l⟩
        | none =>
          if Buf.pageable b then .ok b
          else match lowestFail xs fun x => (s.translate k c (Buf.base b + x.off.toNat)).isNone with
            | some l => .error ⟨0x07, BitVec.ofNat 32 l⟩
            | none => .ok b

/-- Whether every stack or channel of a buffer is ready (R400); host and peer buffers always are. -/
def State.bufReady (s : State) (b : Vector DWord 8) : Bool :=
  match Buf.tier b with
  | 0 => (List.range 16).all fun k => Buf.stks b / 2 ^ k % 2 = 0 || s.sys.ready.getLsbD (7 + k)
  | 1 => s.sys.ready.getLsbD 23
  | _ => true

/-- The steward's ticket for a page of a context; a page asked for the first time is requested (R280). -/
def State.pageTicket (s : State) (cid : CtxId) (k : CoreId) (page : Nat) : State × Word :=
  match s.ctx? cid with
  | none => (s, 0)
  | some c => match c.pages.find? fun p => p.1 = page with
    | some (_, t) => (s, t)
    | none =>
      let t := Config.pageTicket cid.toNat page s.freeNo
      let s := (s.useFree 1).putCtx { c with pages := (page, t) :: c.pages }
      (s.event cid 10 0 k 0 t.toNat 0 0, t)

end Sys2Proof.Machine
end

