-- ==== Sys2Proof/Machine/Fetch.lean ====
section
/-!
DEFINITION. Fetching code (R22), the parts of the clause header and its boundary (R19, R20, R23, R29, R94), and the choice of
the gang that issues (R96, R97).
-/
namespace Sys2Proof.Machine

/-! ## The instruction cache (R22) -/

/-- The word at a code address, where the core's instruction cache holds it. -/
def State.fetched (s : State) (k : CoreId) (c : CtxId) (a : Pc) : Option Word :=
  match (s.core k).icache.find? fun l => l.ctx = c && l.va = a.toNat / 128 * 128 with
  | some l => l.words[a.toNat % 128 / 4]?
  | none => none

/-- The bytes of a line as instruction fetch reads them: without passing L2, so a dirty line's new bytes are not seen. -/
def State.codeBytes (s : State) (pa : Nat) : List Byte :=
  match s.hier.line? pa with
  | some l => if l.dirty != 0 && l.below.length = 128 then l.below else memBytes s.mem pa 128
  | none => memBytes s.mem pa 128

/-- The words of a list of bytes. -/
def wordsOf : Nat → List Byte → List Word
  | 0, _ => []
  | n + 1, bs => BitVec.ofNat 32 (leNat (bs.take 4)) :: wordsOf n (bs.drop 4)

/-- The header of the entry that a gang selects, and the words of its clause, as far as they are fetched. -/
def State.headerAt (s : State) (g : Gang) (pc : Pc) : Option Nat := (s.fetched g.core g.ctx pc).map (·.toNat)

/-- ROT of a header (R19). -/
def hRot (h : Nat) : Bool := h / 2 ^ 24 % 2 = 1

/-! ## The rotation step of a boundary (R29, R30, R94) -/

/-- A rotation round without the entries that have exited or joined (R94); an ended round restarts the timer. -/
def Gang.trimRound (g : Gang) : Gang :=
  match g.round with
  | none => g
  | some pcs =>
    let pcs := pcs.filter fun pc => g.front.any fun e => e.pc = pc
    if pcs.isEmpty then { g with round := none, fair := 0 } else { g with round := some pcs }

/-- Starts a rotation round (R94): every entry but the first, in frontier order. -/
def Gang.startRound (g : Gang) : Gang :=
  Gang.trimRound { g with rotPend := false, round := some ((g.front.drop 1).map fun e => e.pc) }

/-- Whether the boundary is a rotation point (R29). -/
def State.atRotation (s : State) (g : Gang) : Bool :=
  g.rotPoint || (match g.lastPc with
    | some p => (match s.headerAt g p with | some h => hRot h | none => false)
    | none => true)

/-- A gang at a boundary after the rotation step (R30 step 2), which a trap handler defers (R351). -/
def State.rotated (s : State) (g : Gang) : Gang :=
  let g := g.trimRound
  if !g.inHandler && g.rotPend && s.atRotation g then g.startRound else g

/-! ## What a gang needs next (R22) -/

/-- The code addresses that a gang needs next: the word and its extension inside a clause; at a boundary, where a pending rotation
hangs on the header at which the last entry stands (R29), that header, then the header of the entry that the boundary selects
and the words of its clause. -/
def State.needs (s : State) (g : Gang) : List Pc :=
  match g.clause with
  | some c => if c.left ≥ 2 then [c.next, c.next + 4] else [c.next]
  | none =>
    (match g.rotPend && !g.inHandler && !g.rotPoint, g.lastPc with | true, some p => [p] | _, _ => []) ++
    (match (s.rotated g).select with
     | none => []
     | some e =>
       let n := match s.headerAt g e.pc with | some h => h / 2 ^ 28 | none => 0
       e.pc :: (List.range n).map (fun i => e.pc + BitVec.ofNat 48 (4 * (i + 1))))

/-- The first needed address that is not fetched (R22). -/
def State.missing (s : State) (g : Gang) : Option Pc := (s.needs g).find? fun a => (s.fetched g.core g.ctx a).isNone

/-- Starts the fetch of a line; the gang is not ready until it is there (R22, R96). -/
def State.startFetch (s : State) (g : Gang) (a : Pc) : State :=
  let t := s.now + 1 + Config.fetchTicks s.freeNo
  ((s.useFree 1).putGang { g with wait := true }).schedule t .instructionFetchFill
    { EvArg.none with key := g.key, n := a.toNat }

/-- A trap at a boundary or a word of a gang for an address: the selected entry leaves the frontier and takes it. -/
def State.trapAt (s : State) (g : Gang) (pc : Pc) (t : Trap) : State :=
  match g.sel, g.clause with
  | some e, some c => s.takeTrap { g with sel := none, clause := none } e c.hdr pc t
  | _, _ => match g.select with
    | some e => s.takeTrap { g with front := g.front.filter fun x => x.pc != e.pc || x.mask != e.mask } e e.pc pc t
    | none => s

/-- A fetch that finds no page of device memory (R22): trap 0x07, for a word inside a clause in the entry that issues it; at a boundary
in the entry that stands at the header fetched, else in the one that the boundary selects, before any of its steps (assumption
row 124). -/
def State.fetchTrap (s : State) (g : Gang) (a : Pc) : State :=
  match g.clause, g.front.find? fun x => x.pc = a with
  | none, some e => s.takeTrap { g with front := g.front.filter fun x => x.pc != e.pc || x.mask != e.mask } e e.pc a ⟨0x07, 0x20⟩
  | none, none => s.trapAt (s.rotated g) a ⟨0x07, 0x20⟩
  | some _, _ => s.trapAt g a ⟨0x07, 0x20⟩

/-- INSTRUCTION_FETCH_FILL (R22): the page is translated through the TLBs and tables; a page not present, or one of the
host or a peer, raises trap 0x07 with info [5] at the header or word fetched; else the 128-byte line comes into the
instruction cache, and the gang is ready again. A line of the capacity tier comes from one of its channels (assumption row 17). -/
def execInstructionFetchFill (s : State) : Host.Outcome State Fault Refusal :=
  let a : Pc := BitVec.ofNat 48 s.arg.n
  match s.gang? s.arg.key with
  | none => .next s
  | some g0 =>
    let g := { g0 with wait := false }
    let s := s.putGang g
    match s.ctx? g.ctx with
    | none => .next s
    | some c =>
      let va := s.arg.n / 128 * 128
      match s.translate g.core c va with
      | none => .next (s.fetchTrap g a)
      | some e =>
        let pa := e.map va
        if pa / 2 ^ 50 % 4 != 0 then .next (s.fetchTrap g a)
        else
          let s := match s.coreTlb? g.core c.id va, s.walk c va with
            | none, some w => (s.markWalk w false).fillTlb g.core e
            | _, _ => s
          let bs := if pa < 2 ^ 48 then s.codeBytes pa
            else s.codeBytes (capKey ⟨(Config.unspecifiedByte s.freeNo).toNat % 32, Nat.mod_lt _ (by decide)⟩ pa)
          let co := s.core g.core
          .next ((s.useFree 1).setCore g.core { co with icache := (⟨c.id, va, wordsOf 32 bs⟩ :: co.icache).take 512 })

/-! ## The header (R19, R20, R23) -/

def hN (h : Nat) : Nat := h / 2 ^ 28
def hCls (h : Nat) : Nat := h / 2 ^ 25 % 8
def hSettle (h : Nat) : Nat := h / 2 ^ 16 % 256
def hEntry (h : Nat) : Nat := h / 2 ^ 12 % 16

/-- Whether an opcode must be the last instruction of its clause (R20, R23). -/
def mustEnd (c : Cls) (op : Nat) : Bool :=
  match c with
  | .ctl => op != 0 && op != 0x0B && op != 0x12
  | .syn => op = 0x0B || op = 0x0C || op = 0x11 || op = 0x14 || op = 0x17
  | _ => false

/-- Checks the words of a clause of `n` words from the `i`-th (R20): every OP assigned, no extension word beyond the
last, no transfer or wait before the last instruction. -/
def clauseOk (c : Cls) (ws : Nat → Nat) (n : Nat) : Nat → Nat → Bool
  | 0, _ => true
  | fuel + 1, i =>
    if i ≥ n then true
    else
      let op := fOP (ws i)
      let len := if c.extended op then 2 else 1
      op < c.opcodes && i + len ≤ n && !(mustEnd c op && i + len != n) && clauseOk c ws n fuel (i + len)

/-- Whether some instruction word of a clause is `copy`. -/
def holdsCopy (c : Cls) (ws : Nat → Nat) (n : Nat) : Nat → Nat → Bool
  | 0, _ => false
  | fuel + 1, i =>
    if i ≥ n then false
    else
      let op := fOP (ws i)
      (c = .mem && op = 0x1A) || holdsCopy c ws n fuel (i + if c.extended op then 2 else 1)

/-- Whether a header decodes, and its class (R20): N, CLASS, the zero field, its words, and a `copy`, which takes two
words, alone in its clause. -/
def headerOk (h : Nat) (ws : Nat → Nat) : Option Cls :=
  if hN h = 0 || h % 4096 != 0 then none
  else match cls? (hCls h) with
    | none => none
    | some c =>
      let n := hN h
      if clauseOk c ws n 16 0 && !(holdsCopy c ws n 16 0 && n != 2) then some c else none

/-! ## The boundary (R27 to R30, R94) -/

/-- A boundary trap (R30): the selected entry takes it at its header, in the header's issue clock. -/
def State.boundaryTrap (s : State) (g : Gang) (t : Trap) : State :=
  let (s, g) := s.issueClock g
  match g.select with
  | some e => s.trapAt g e.pc t
  | none => s

/-- The SETTLE field's registers, t0 to t7 (R19). -/
def Gang.settleRegs (g : Gang) (m : Nat) : List (Nat × TimeReg) :=
  ((List.range 8).filter fun i => m / 2 ^ i % 2 = 1).map fun i => (i, vget g.t i)

/-! ## Which gang issues (R96, R97) -/

/-- Whether a gang may issue in a clock, as things stand, and in the present one (R96). A core whose quarters have stopped for a switch lets a gang that
stands inside a clause finish it, since a record holds headers only (R92, R114, R357; assumption row 12). -/
def State.readyBy (s : State) (g : Gang) (clk : Nat) : Bool :=
  g.resident && !g.wait && g.readyAt ≤ clk && (s.core g.core).active = some g.ctx &&
  !(s.core g.core).gated && (!(s.core g.core).stopped || g.clause.isSome)
def State.ready (s : State) (g : Gang) : Bool := s.readyBy g (s.clock g.core)

/-- The place of a core's quarter in the order of issue within a clock (R57). -/
def quarterPos (c : CoreId) (q : Fin 4) : Nat := 4 * c.val + q.val

/-- The place of a gang's quarter. -/
def Gang.pos (g : Gang) : Nat := match g.slot? with | some (q, _) => quarterPos g.core q | none => 1024

/-- Ranks of R97 rule 2: earlier deadline first, 0 last, then the slot that comes first after the pointer. -/
def State.deadlineBefore (s : State) (ptr : Nat) (a b : Gang) : Bool :=
  let dl := fun (g : Gang) => match s.slice? g.key.launch with | some l => l.deadline | none => 0
  let slot := fun (g : Gang) => match g.slot? with | some (_, n) => (n.val + 16 - ptr) % 16 | none => 16
  let ta := BitVec.ofNat 56 (dl a).toNat
  let tb := BitVec.ofNat 56 (dl b).toNat
  if dl a = 0 && dl b = 0 then slot a < slot b
  else if dl a = 0 then false
  else if dl b = 0 then true
  else later tb ta || (ta = tb && slot a < slot b)

/-- The gang that a quarter issues for among its ready ones (R97). -/
def State.chooseGang (s : State) (ready : List Gang) : Option Gang :=
  match ready with
  | [] => none
  | g :: _ =>
    let ptr := (s.clock g.core - (s.core g.core).since) % 16
    match ready.find? fun x => match x.slot? with | some (_, n) => n.val = ptr | none => false with
    | some x => some x
    | none => firstBy (s.deadlineBefore ptr) ready

/-- The next gang to issue in the present round of the present tick, from the place reached (R57, R97). -/
def State.nextGang (s : State) : Option Gang :=
  let cand := s.gangs.filter fun g => s.own.pos ≤ g.pos && s.own.round < (s.die g.core).edge && s.ready g
  match firstBy (fun (a b : Gang) => a.pos < b.pos) cand with
  | none => none
  | some g => s.chooseGang (cand.filter fun x => x.pos = g.pos)

/-- The first entry of a list that `p` accepts, and the others. -/
def takeFirst {α : Type} (p : α → Bool) : List α → Option (α × List α)
  | [] => none
  | x :: xs => if p x then some (x, xs) else (takeFirst p xs).map fun y => (y.1, x :: y.2)

/-- Whether a gang comes before another in the order of a clock: by core, quarter and slot (R57). -/
def Gang.before (a b : Gang) : Bool :=
  let slot := fun (g : Gang) => match g.slot? with | some (_, n) => n.val | none => 16
  a.pos < b.pos || (a.pos = b.pos && slot a < slot b)

/-- The probe that a gang waits for and attempts again in the present clock, where the gang comes before one that issues in it: it
books first (R57). Passes of the lane port, which are counted in clocks, are not among these. -/
def State.probeFirst (s : State) (g : Gang) : Option (Due × List Due) :=
  takeFirst (fun d => d.task = .ev .probePass && d.tick ≤ s.now && d.rank = 3 && d.arg.clk.isNone && (match s.gang? d.arg.key with
    | some x => x.probing.isSome && x.before g
    | none => false)) s.agenda

/-- A gang that would be ready but for a word that is not fetched and whose fetch has not started (R22). -/
def State.fetcher (s : State) : Option (Gang × Pc) :=
  s.gangs.findSome? fun g => if s.ready g then (s.missing g).map fun a => (g, a) else none

/-- Counts a core's busy and waiting clocks of the lapidary and its channels held on a full slot (R377). -/
def State.countUnits (s : State) (k : CoreId) (clk : Nat) : State :=
  let cc := s.cc k
  let s := s.count k 0x41 (cc.cmds.filter fun x => x.holding && x.chan.isSome).length none none
  match cc.lap.ops.find? fun o => o.begin ≤ clk && (clk < o.finish || (o.started && cc.lap.stop.isSome)) with
  | none => s
  | some o =>
    let s := s.count k 0x30 1 none (some o.gang.launch)
    match o.kind, cc.lap.ops.find? fun x => o.finish ≤ x.begin && x.probe ≤ clk && (match x.kind with | .mma .. => true | _ => false) with
    | .mldA .., some x => s.count k 0x31 1 none (some x.gang.launch)
    | _, _ => s

/-- Counts a core's clocks in which a quarter has no ready gang or is gated, and its gangs' stalls (R377). -/
def State.countIdle (s : State) (k : CoreId) : State :=
  let clk := s.clock k
  let s := s.countUnits k clk
  let s := (List.finRange 4).foldl (fun s q =>
    let s := if s.own.issued.any fun x => x.1 = k && x.2.1 = q then s else s.count k 2 1 (some q) none
    if (s.core k).gated then s.count k 0x60 1 (some q) none else s) s
  (s.gangs.filter fun g => g.core = k && g.resident).foldl (fun s g =>
    let q := g.slot?.map (·.1)
    if s.own.issued.any fun x => x.2.2 = g.key then s
    else if g.wait then (if g.stall = 0 then s else s.count k g.stall 1 q (some g.key.launch))
    else if clk < g.readyAt then s.count k 0x10 1 q (some g.key.launch) else s) s

/-- The end of a clock of every die that had an edge in this round. -/
def State.endClock (s : State) : State :=
  let s := (List.finRange 256).foldl (fun s k =>
    if s.own.round < (s.die k).edge && (s.cc k).ev.any (fun e => e.run || s.clock k < e.till) then s.countIdle k else s) s
  s.setOwn { s.own with issued := [] }

/-- The device time moved on by one tick: every die's clock edges of the new tick (R3, R372). -/
def State.nextTick (s : State) : State :=
  let s := s.endClock
  let now := s.time.now + 1
  let f := fun (d : Die) =>
    let d := { d with clk := d.clk + d.edge }
    if now < d.hold then { d with edge := 0 }
    else
      let ph := d.phase + (800 + 25 * d.freq.toNat)
      { d with phase := ph % 2000, edge := ph / 2000 }
  (s.setTime { s.time with now := now, dies := s.time.dies.map f }).setOwn { s.own with round := 0, pos := 0 }

/-- Whether some die has a further clock edge in this tick. -/
def State.moreRounds (s : State) : Bool := s.time.dies.toList.any fun d => s.own.round + 1 < d.edge

/-- The state at the next clock edge of this tick. -/
def State.nextRound (s : State) : State :=
  let s := s.endClock
  s.setOwn { s.own with round := s.own.round + 1, pos := 0 }

/-- The word that an issuing gang has reached, and the word after it. -/
def State.wordsAt (s : State) (g : Gang) (c : Clause) : Nat × Nat :=
  let get := fun (a : Pc) => match s.fetched g.core g.ctx a with | some w => w.toNat | none => 0
  (get c.next, if c.left ≥ 2 then get (c.next + 4) else 0)

end Sys2Proof.Machine
end

