-- ==== Sys2Proof/Machine/Float.lean ====
section
/-!
DEFINITION. Floating formats and their arithmetic (R131 to R135, R159 to R168): values are exact numbers
±m × 2^e, every result is computed exactly and rounded once.
-/
namespace Sys2Proof.Machine

/-! ## Formats (R131, R139) -/

/-- A binary floating format: bits, fraction bits p, bias, the magnitude bits of the largest finite value, of infinity and
of the canonical NaN where it has them. -/
structure Fmt where
  width  : Nat
  p      : Nat
  bias   : Nat
  maxFin : Nat
  inf    : Option Nat
  nan    : Option Nat
deriving DecidableEq, Repr

def Fmt.f32 : Fmt := ⟨32, 23, 127, 0x7F7FFFFF, some 0x7F800000, some 0x7FC00000⟩
def Fmt.bf16 : Fmt := ⟨16, 7, 127, 0x7F7F, some 0x7F80, some 0x7FC0⟩
def Fmt.f16 : Fmt := ⟨16, 10, 15, 0x7BFF, some 0x7C00, some 0x7E00⟩
def Fmt.f8e4 : Fmt := ⟨8, 3, 7, 0x7E, none, some 0x7F⟩
def Fmt.f8e5 : Fmt := ⟨8, 2, 15, 0x7B, some 0x7C, some 0x7E⟩
/-- OCP FP6 E3M2 (R139). -/
def Fmt.mx6e3 : Fmt := ⟨6, 2, 3, 0x1F, none, none⟩
/-- OCP FP6 E2M3 (R139). -/
def Fmt.mx6e2 : Fmt := ⟨6, 3, 1, 0x1F, none, none⟩
/-- OCP FP4 E2M1 (R139). -/
def Fmt.mx4 : Fmt := ⟨4, 1, 1, 7, none, none⟩

/-- A value: NaN, an infinity, or ±m × 2^e (a zero has m = 0 and keeps its sign). -/
inductive FVal where
  | nan
  | inf (neg : Bool)
  | fin (neg : Bool) (m : Nat) (e : Int)
deriving DecidableEq, Repr

/-- The value that a format's bits hold (R131); a NaN of any payload is NaN. -/
def Fmt.decode (f : Fmt) (x : Nat) : FVal :=
  let half := 2 ^ (f.width - 1)
  let neg := x / half % 2 = 1
  let mag := x % half
  let top := match f.inf with | some i => i | none => match f.nan with | some n => n | none => half
  if mag < top then
    let e := mag / 2 ^ f.p
    let m := mag % 2 ^ f.p
    if e = 0 then .fin neg m (1 - (f.bias : Int) - f.p) else .fin neg (m + 2 ^ f.p) ((e : Int) - f.bias - f.p)
  else if f.inf = some mag then .inf neg
  else .nan

/-- A magnitude's bits with a sign. -/
def Fmt.signed (f : Fmt) (neg : Bool) (mag : Nat) : Nat := if neg then mag + 2 ^ (f.width - 1) else mag

/-- The canonical NaN, sign 0 (R132). -/
def Fmt.nanBits (f : Fmt) : Nat := f.nan.getD 0
/-- An infinity; NaN where the format has none (R133). -/
def Fmt.infBits (f : Fmt) (neg : Bool) : Nat := match f.inf with | some i => f.signed neg i | none => f.nanBits

/-! ## Rounding (R133) -/

/-- Whether the integer part `fl` of a magnitude is rounded up, its remainder being `rem` of `den`. -/
def roundUp (mode : Round) (neg : Bool) (fl rem den : Nat) : Bool :=
  match mode with
  | .rn => den < 2 * rem || (2 * rem = den && fl % 2 = 1)
  | .rz => false
  | .rm => neg && rem != 0
  | .rp => !neg && rem != 0
  | .rna => den ≤ 2 * rem

/-- A rational magnitude n/d × 2^e scaled by 2^(-q), as numerator and denominator. -/
def scaled (n d : Nat) (e q : Int) : Nat × Nat :=
  if q ≤ e then (n * 2 ^ (e - q).toNat, d) else (n, d * 2 ^ (q - e).toNat)

/-- Rounds n/d × 2^e to a multiple of 2^q; the answer is the multiple. -/
def roundAt (mode : Round) (neg : Bool) (n d : Nat) (e q : Int) : Nat :=
  let (a, b) := scaled n d e q
  a / b + if roundUp mode neg (a / b) (a % b) b then 1 else 0

/-- The floor of log2 of n/d × 2^e, for n not zero. -/
def floorLog2 (n d : Nat) (e : Int) : Int :=
  let k : Int := (Nat.log2 n : Int) - Nat.log2 d
  let (a, b) := scaled n d 0 k
  (if b ≤ a then k else k - 1) + e

/-- The magnitude bits of a rational rounded to a format as if its exponents were unbounded above; a value above `maxFin`
overflows. -/
def Fmt.roundMag (f : Fmt) (mode : Round) (neg : Bool) (n d : Nat) (e : Int) : Nat :=
  if n = 0 then 0
  else
    let emin : Int := 1 - f.bias
    let q := max (floorLog2 n d e) emin - f.p
    roundAt mode neg n d e q + (q + f.p - emin).toNat * 2 ^ f.p

/-- Rounds a rational to a format (R133); with `sat` a finite overflow gives the largest finite value (R134). -/
def Fmt.round (f : Fmt) (mode : Round) (sat neg : Bool) (n d : Nat) (e : Int) : Nat :=
  let mag := f.roundMag mode neg n d e
  if mag ≤ f.maxFin then f.signed neg mag
  else if sat then f.signed neg f.maxFin
  else match mode with
    | .rz => f.signed neg f.maxFin
    | .rm => if neg then f.infBits neg else f.signed neg f.maxFin
    | .rp => if neg then f.signed neg f.maxFin else f.infBits neg
    | _ => f.infBits neg

/-- A value in a format, rounded. -/
def Fmt.encode (f : Fmt) (mode : Round) (sat : Bool) : FVal → Nat
  | .nan => f.nanBits
  | .inf neg => if sat then f.signed neg f.maxFin else f.infBits neg
  | .fin neg m e => f.round mode sat neg m 1 e

/-! ## Exact arithmetic -/

/-- The signed integer m at a common exponent `q` no greater than `e`. -/
def atExp (neg : Bool) (m : Nat) (e q : Int) : Int :=
  let x : Int := (m : Int) * 2 ^ (e - q).toNat
  if neg then -x else x

/-- The sum of two finite values under rn: an exact zero is +0 unless both terms are -0 (R132). -/
def addFin (n1 : Bool) (m1 : Nat) (e1 : Int) (n2 : Bool) (m2 : Nat) (e2 : Int) : FVal :=
  let q := min e1 e2
  let x := atExp n1 m1 e1 q + atExp n2 m2 e2 q
  if x = 0 then .fin (n1 && n2 && m1 = 0 && m2 = 0) 0 0 else .fin (x < 0) x.natAbs q

def FVal.neg : FVal → FVal
  | .nan => .nan
  | .inf n => .inf (!n)
  | .fin n m e => .fin (!n) m e

/-- Addition (R159). -/
def FVal.add : FVal → FVal → FVal
  | .nan, _ => .nan
  | _, .nan => .nan
  | .inf a, .inf b => if a = b then .inf a else .nan
  | .inf a, _ => .inf a
  | _, .inf b => .inf b
  | .fin n1 m1 e1, .fin n2 m2 e2 => addFin n1 m1 e1 n2 m2 e2

/-- Multiplication (R159): 0 × ∞ is NaN; a zero product takes the exclusive or of the signs. -/
def FVal.mul : FVal → FVal → FVal
  | .nan, _ => .nan
  | _, .nan => .nan
  | .inf a, .inf b => .inf (a != b)
  | .inf a, .fin b m _ => if m = 0 then .nan else .inf (a != b)
  | .fin a m _, .inf b => if m = 0 then .nan else .inf (a != b)
  | .fin n1 m1 e1, .fin n2 m2 e2 => .fin (n1 != n2) (m1 * m2) (e1 + e2)

/-- Whether a finite, NaN or infinite value is NaN. -/
def FVal.isNan : FVal → Bool | .nan => true | _ => false
/-- Whether a value is NaN or infinite. -/
def FVal.special : FVal → Bool | .fin .. => false | _ => true
/-- Whether a value is a zero. -/
def FVal.isZero : FVal → Bool | .fin _ m _ => m = 0 | _ => false

/-- The strict numeric order of two values that are no NaN (R161, R163). -/
def FVal.lt : FVal → FVal → Bool
  | .inf a, .inf b => a && !b
  | .inf a, .fin .. => a
  | .fin .., .inf b => !b
  | .fin n1 m1 e1, .fin n2 m2 e2 => let q := min e1 e2; atExp n1 m1 e1 q < atExp n2 m2 e2 q
  | _, _ => false

/-- Numeric equality of two values that are no NaN. -/
def FVal.eqv (a b : FVal) : Bool := !a.isNan && !b.isNan && !a.lt b && !b.lt a

/-- Addition in a format. -/
def Fmt.add (f : Fmt) (a b : Nat) : Nat := f.encode .rn false ((f.decode a).add (f.decode b))
/-- Subtraction in a format. -/
def Fmt.sub (f : Fmt) (a b : Nat) : Nat := f.encode .rn false ((f.decode a).add (f.decode b).neg)
/-- Multiplication in a format. -/
def Fmt.mul (f : Fmt) (a b : Nat) : Nat := f.encode .rn false ((f.decode a).mul (f.decode b))

/-- Fused multiply-add and its variants (R160). -/
def Fmt.fma (f : Fmt) (v : FmaVar) (a b c : Nat) : Nat :=
  let p := (f.decode a).mul (f.decode b)
  let c := f.decode c
  f.encode .rn false
    (match v with | .plain => p.add c | .fms => p.add c.neg | .fnma => p.neg.add c | .fnms => p.neg.add c.neg)

/-- `fmin` or `fmax` (R161): numbers are chosen bit for bit, -0 below +0. -/
def Fmt.minMax (f : Fmt) (greater : Bool) (a b : Nat) : Nat :=
  let x := f.decode a
  let y := f.decode b
  if x.isNan then (if y.isNan then f.nanBits else b)
  else if y.isNan then a
  else if x.isZero && y.isZero then
    (if (a < b) = greater then a else b)
  else if x.lt y then (if greater then b else a)
  else (if greater then a else b)

/-- `fcmp` (R163). -/
def Fmt.compare (f : Fmt) (c : Cond) (a b : Nat) : Bool :=
  let x := f.decode a
  let y := f.decode b
  let bad := x.isNan || y.isNan
  match c with
  | .ord => !bad
  | .unord => bad
  | .ne => bad || !x.eqv y
  | .eq => x.eqv y
  | .lt => !bad && x.lt y
  | .le => !bad && !y.lt x
  | .gt => !bad && y.lt x
  | .ge => !bad && !x.lt y

/-! ## Roots and reciprocals (R164, R165) -/

/-- The integer square root by bits: the greatest r, built from bit `k - 1` down on top of `r`, with r² ≤ n. -/
def isqrtFrom (n : Nat) : Nat → Nat → Nat
  | 0, r => r
  | k + 1, r => if (r + 2 ^ k) * (r + 2 ^ k) ≤ n then isqrtFrom n k (r + 2 ^ k) else isqrtFrom n k r

/-- The integer square root. -/
def isqrt (n : Nat) : Nat := isqrtFrom n (Nat.log2 n / 2 + 1) 0

/-- √(m × 2^e) as r × 2^q with a last bit that tells whether it is inexact, to at least 60 bits. -/
def sqrtBits (m : Nat) (e : Int) : Nat × Int :=
  let k : Int := if e % 2 = 0 then 128 else 127
  let n := m * 2 ^ k.toNat
  let r := isqrt n
  (2 * r + (if r * r = n then 0 else 1), (e - k) / 2 - 1)

/-- `fsqrt` of an f32. -/
def sqrt32 (x : Nat) : Nat :=
  match Fmt.f32.decode x with
  | .nan => Fmt.f32.nanBits
  | .inf true => Fmt.f32.nanBits
  | .inf false => Fmt.f32.infBits false
  | .fin neg m e =>
    if m = 0 then x
    else if neg then Fmt.f32.nanBits
    else let (r, q) := sqrtBits m e; Fmt.f32.round .rn false false r 1 q

/-- `frcp` of an f32. -/
def rcp32 (x : Nat) : Nat :=
  match Fmt.f32.decode x with
  | .nan => Fmt.f32.nanBits
  | .inf neg => Fmt.f32.signed neg 0
  | .fin neg m e => if m = 0 then Fmt.f32.infBits neg else Fmt.f32.round .rn false neg 1 m (-e)

/-- `frsq` of an f32: 1/√(m × 2^e) = √(2^s/m) × 2^((-e-s)/2), with a last bit that tells whether it is inexact. -/
def rsq32 (x : Nat) : Nat :=
  match Fmt.f32.decode x with
  | .nan => Fmt.f32.nanBits
  | .inf true => Fmt.f32.nanBits
  | .inf false => 0
  | .fin neg m e =>
    if m = 0 then Fmt.f32.infBits neg
    else if neg then Fmt.f32.nanBits
    else
      let s : Int := if e % 2 = 0 then 160 else 161
      let n := 2 ^ s.toNat / m
      let r := isqrt n
      let exact := r * r * m = 2 ^ s.toNat
      Fmt.f32.round .rn false false (2 * r + (if exact then 0 else 1)) 1 ((-e - s) / 2 - 1)

/-- The integer that a finite value is, when it is one. -/
def FVal.int? : FVal → Option Int
  | .fin neg m e =>
    if 0 ≤ e then some (atExp neg m e 0)
    else if m % 2 ^ (-e).toNat = 0 then some ((if neg then -1 else 1) * ((m / 2 ^ (-e).toNat : Nat) : Int))
    else none
  | _ => none

/-- Σ ± p·z^k / (2k + 1) in fixed point with `q` fractional bits, from term `k` on; `z` is the square of the argument, `alt` the signs'
alternation: arctangents and their hyperbolic kin. -/
def oddSum (q z : Nat) (alt : Bool) : Nat → Nat → Nat → Int
  | 0, _, _ => 0
  | n + 1, k, p => (if alt && k % 2 = 1 then -1 else 1) * ((p / (2 * k + 1) : Nat) : Int) + oddSum q z alt n (k + 1) (p * z / 2 ^ q)

/-- Σ t^k / k! in fixed point, from term `k` on. -/
def expSum (q t : Nat) : Nat → Nat → Nat → Nat
  | 0, _, _ => 0
  | n + 1, k, p => p + expSum q t n (k + 1) (p * t / 2 ^ q / (k + 1))

/-- Σ ± p·r^2k·d! / (d + 2k)! in fixed point: a sine from p = r and d = 1, a cosine from p = 1 and d = 0. -/
def trigSum (q r : Nat) : Nat → Bool → Nat → Nat → Int
  | 0, _, _, _ => 0
  | n + 1, neg, d, p => (if neg then -1 else 1) * (p : Int) + trigSum q r n (!neg) (d + 2) (p * r / 2 ^ q / ((d + 1) * (d + 2)))

/-- The natural logarithm of 2 with `q` fractional bits. -/
def lnTwo (q : Nat) : Nat := 2 * (oddSum q (2 ^ q / 9) false q 0 (2 ^ q / 3)).toNat
/-- Half of π with `q` fractional bits. -/
def halfPi (q : Nat) : Nat :=
  (8 * oddSum q (2 ^ q / 25) true (q / 4) 0 (2 ^ q / 5) - 2 * oddSum q (2 ^ q / 57121) true (q / 4) 0 (2 ^ q / 239)).toNat

/-- The f32 values within 2 ulp of a·2^e, with the sign `neg` (R164): those multiples of half an ulp which are f32 values. -/
def nearValues (neg : Bool) (a : Nat) (e : Int) : List Nat :=
  let u := max ((Nat.log2 a : Int) + e) (-126) - 24
  let n := if u ≤ e then a * 2 ^ (e - u).toNat else a / 2 ^ (u - e).toNat
  (List.range 8).filterMap fun j =>
    if n + j < 3 then none
    else
      let h := n + j - 3
      let w := Fmt.f32.round .rn false neg h 1 u
      match Fmt.f32.decode w with
      | .fin _ m x => if m * 2 ^ (x + 150).toNat = h * 2 ^ (u + 150).toNat then some w else none
      | _ => none

/-- The one of some values that a free word names. -/
def pickValue (xs : List Nat) (y : Word) : Nat := xs.getD (y.toNat % xs.length) 0

/-- `fex2` (R164, R165): exact for an integer from -149 to 127, +∞ from 128 up, +0 from -151 down, else a free one of the values within
2 ulp. -/
def ex2 (x : Word) : Nat :=
  let v := Fmt.f32.decode x.toNat
  match v with
  | .nan => Fmt.f32.nanBits
  | .inf neg => if neg then 0 else Fmt.f32.infBits false
  | .fin neg m e =>
    let near := fun (_ : Unit) =>
      let q := 300
      let s : Int := (if neg then -1 else 1) * (m * 2 ^ (300 + e).toNat : Nat)
      let t := (s % 2 ^ q).toNat * lnTwo q / 2 ^ q
      pickValue (nearValues false (expSum q t 80 0 (2 ^ q)) (s / 2 ^ q - q)) (Config.fex2 x)
    if !v.lt (.fin false 128 0) then Fmt.f32.infBits false
    else if !(FVal.fin true 151 0).lt v then 0
    else match v.int? with
      | some k => if -149 ≤ k then Fmt.f32.round .rn false false 1 1 k else near ()
      | none => near ()

/-- `flg2` (R164, R165): of 2^k it is k; else a free one of the values within 2 ulp. -/
def lg2 (x : Word) : Nat :=
  match Fmt.f32.decode x.toNat with
  | .nan => Fmt.f32.nanBits
  | .inf neg => if neg then Fmt.f32.nanBits else Fmt.f32.infBits false
  | .fin neg m e =>
    let k : Int := (Nat.log2 m : Int) + e
    if m = 0 then Fmt.f32.infBits true
    else if neg then Fmt.f32.nanBits
    else if m = 2 ^ Nat.log2 m then Fmt.f32.round .rn false (k < 0) k.natAbs 1 0
    else
      let q := 300
      let a := m * 2 ^ (q - Nat.log2 m)
      let z := (a - 2 ^ q) * 2 ^ q / (a + 2 ^ q)
      let y : Int := k * 2 ^ q + 2 * oddSum q (z * z / 2 ^ q) false q 0 z * 2 ^ q / lnTwo q
      pickValue (nearValues (y < 0) y.natAbs (-q)) (Config.flg2 x)

/-- The sine of m·2^e, or its cosine (`quarter` 1), by exact reduction: a free one of the values within 2 ulp whose magnitude is at most
1.0 (R164). -/
def trig32 (neg : Bool) (quarter m : Nat) (e : Int) (y : Word) : Nat :=
  let q := 520
  let x := m * 2 ^ (520 + e).toNat
  let k := x / halfPi q + quarter
  let r := x % halfPi q
  let r2 := r * r / 2 ^ q
  let v := if k % 2 = 0 then trigSum q r2 70 false 1 r else trigSum q r2 70 false 0 (2 ^ q)
  let minus := (k / 2 % 2 = 1) != (neg && quarter = 0)
  pickValue ((nearValues (minus != (v < 0)) v.natAbs (-q)).filter fun w => w % 2 ^ 31 ≤ 0x3F800000) y

/-- `fsin` (R164, R165). -/
def sin32 (x : Word) : Nat :=
  match Fmt.f32.decode x.toNat with
  | .fin neg m e => if m = 0 then x.toNat else trig32 neg 0 m e (Config.fsin x)
  | _ => Fmt.f32.nanBits

/-- `fcos` (R164, R165). -/
def cos32 (x : Word) : Nat :=
  match Fmt.f32.decode x.toNat with
  | .fin neg m e => if m = 0 then 0x3F800000 else trig32 neg 1 m e (Config.fcos x)
  | _ => Fmt.f32.nanBits

/-! ## Rounding to integers, classes, conversions -/

/-- The integer nearest a finite value by a mode. -/
def roundInt (mode : Round) (neg : Bool) (m : Nat) (e : Int) : Int :=
  let r := roundAt mode neg m 1 e 0
  if neg then -(r : Int) else r

/-- `frnd` (R166): an integral f32 with the operand's sign. -/
def rnd32 (mode : Round) (x : Nat) : Nat :=
  match Fmt.f32.decode x with
  | .nan => Fmt.f32.nanBits
  | .inf _ => x
  | .fin neg m e => if 0 ≤ e then x else Fmt.f32.round .rn false neg (roundInt mode neg m e).natAbs 1 0

/-- `fabs` and `fneg` (R162): a NaN gives the canonical NaN, else only bit 31 changes. -/
def sign32 (flip : Bool) (x : Nat) : Nat :=
  if (Fmt.f32.decode x).isNan then Fmt.f32.nanBits
  else if flip then (if x / 2 ^ 31 % 2 = 1 then x - 2 ^ 31 else x + 2 ^ 31)
  else x % 2 ^ 31

/-- `fclass` (R167). -/
def class32 (x : Nat) : Nat :=
  match Fmt.f32.decode x with
  | .nan => 256
  | .inf neg => if neg then 1 else 128
  | .fin neg m _ =>
    if m = 0 then (if neg then 8 else 16)
    else if m < 2 ^ 23 then (if neg then 4 else 32)
    else (if neg then 2 else 64)

/-- What a conversion type is: a float format, or a signed integer of some bits (R37, R141). -/
def convFmt : CvtType → Fmt ⊕ Nat
  | .f32 => .inl .f32 | .bf16 => .inl .bf16 | .f16 => .inl .f16 | .f8e4 => .inl .f8e4 | .f8e5 => .inl .f8e5
  | .i8 => .inr 8 | .i16 => .inr 16 | .i32 => .inr 32

/-- The low `w` bits of a word as a signed integer (R130). -/
def lowInt (w : Nat) (x : Nat) : Int :=
  let v := x % 2 ^ w
  if 2 ^ (w - 1) ≤ v then (v : Int) - 2 ^ w else v

/-- An integer clamped to the range of a signed width. -/
def clampInt (w : Nat) (x : Int) : Int := max (-(2 ^ (w - 1))) (min x (2 ^ (w - 1) - 1))

/-- A signed integer as a lane's word (R130). -/
def laneInt (x : Int) : Nat := (x % 2 ^ 32).toNat

/-- `cvt` (R134, R135, R168) on a lane's word. -/
def convert (dst src : CvtType) (mode : Round) (sat : Bool) (x : Nat) : Nat :=
  match convFmt src, convFmt dst with
  | .inl f, .inl t => t.encode mode sat (f.decode (x % 2 ^ f.width))
  | .inl f, .inr w =>
    (match f.decode (x % 2 ^ f.width) with
     | .nan => 0
     | .inf neg => laneInt (if neg then -(2 ^ (w - 1)) else 2 ^ (w - 1) - 1)
     | .fin neg m e => laneInt (clampInt w (roundInt mode neg m e)))
  | .inr w, .inl t => let v := lowInt w x; t.round mode sat (v < 0) v.natAbs 1 0
  | .inr w, .inr t =>
    let v := lowInt w x
    laneInt (if sat then clampInt t v else lowInt t (v % 2 ^ 32).toNat)

end Sys2Proof.Machine
end

