-- ==== Sys2Proof/Machine/Line.lean ====
section
/-!
DEFINITION. The booking of one line at its home slice (R296, R299, R300, R308 to R311, R418), for loads, writes and
atomics, from a compute die or from the hub; lines reached by their physical address (R418) and the probe's own delay (R279).
-/
namespace Sys2Proof.Machine

/-- What an access does at the line's home. -/
inductive LineKind where
  | read | write | atomic | baseDie
deriving DecidableEq, Repr

/-- A line as a booking sees it: its home, its key, its bank, the sectors needed, those written whole, the tolerant type. -/
structure LineAt where
  home  : Home
  line  : Nat
  bank  : Fin 4
  need  : BitVec 4
  whole : BitVec 4
  ctype : Byte
deriving DecidableEq, Repr

/-- The home slice of a home (R275). -/
def Home.slice : Home → Fin 64
  | .hbm sl _ _ => sl
  | .cap sl _ => sl
  | _ => 0

/-- Links from a compute die, or from the hub, to a slice's die. -/
def linksFrom (o : Option (Fin 4)) (sd : Fin 4) : List Stage :=
  match o with | some d => links d sd | none => fromHub sd 1
/-- Links from a slice's die back. -/
def linksBack (o : Option (Fin 4)) (sd : Fin 4) : List Stage :=
  match o with | some d => links sd d | none => toHub sd 1

/-! ## Truncation (R302) -/

/-- The bytes of a line with every element truncated and widened again (R302). -/
def truncLine (ctype : Byte) (bs : List Byte) : List Byte :=
  let one := fun (n : Nat) (f : Nat → Nat) =>
    (List.range (128 / n)).flatMap fun i => natLe n (f (leNat ((bs.drop (n * i)).take n)))
  match ctype.toNat with
  | 1 => one 4 fun x => convert .f32 .bf16 .rn false (convert .bf16 .f32 .rn true x)
  | 3 => one 2 fun x => convert .f16 .f8e4 .rn false (convert .f8e4 .f16 .rn true x)
  | _ => bs

/-- The bytes of the sectors of `m` truncated, the others kept. -/
def truncSectors (ctype : Byte) (m : BitVec 4) (bs : List Byte) : List Byte :=
  let t := truncLine ctype bs
  (List.range 128).map fun i => if m.getLsbD (i / 32) then t.getD i 0 else bs.getD i 0

/-! ## Dead ranges (R305) -/

/-- The stack and 2 MiB range of a key in HBM5. -/
def rangeOf (a : Nat) : Fin 16 × Nat := (⟨a / 2 ^ 37 % 16, Nat.mod_lt _ (by decide)⟩, a % 2 ^ 37 / 2 ^ 21)

/-- Whether a line lies in a dead range. -/
def State.isDead (s : State) (line : Nat) : Bool :=
  line < 2 ^ 41 && (s.hier.stks[(rangeOf line).1]).dead.contains (rangeOf line).2

/-- Memory after a line has left L2: its written sectors truncated, but for those of a newer copy in L2 (R315). -/
def State.leaveL2 (s : State) (l : L2Line) : State :=
  if l.ctype = 0 || l.fresh = 0 then s
  else
    let newer := match s.hier.line? l.addr with | some x => x.fresh | none => 0
    s.setMem (memWrite s.mem l.addr (truncSectors l.ctype (l.fresh &&& ~~~newer) (memBytes s.mem l.addr 128)))

/-! ## Victims (R59, R300) -/

/-- The channel of HBM5 that a line of a slice lies on. -/
def L2Line.channel (l : L2Line) : Res := .hbm ⟨l.slice.val / 4, by omega⟩ (hbmChan l.addr)

/-- A way made free: the hierarchy, the tick that the fill may not precede, a dirty victim's slot, a clean victim. -/
structure Way where
  h     : Hier
  floor : Nat
  slot  : Option Nat
  clean : Option L2Line

/-- The lines of a slice in the set of a line. -/
def Hier.ways (h : Hier) (sl : Fin 64) (line : Nat) : List L2Line := h.l2.filter fun l => l.slice = sl && l2Set l.addr = l2Set line

/-- The least recently used of some lines that carries no hold (R300). -/
def lruLine (ls : List L2Line) : Option L2Line := firstBy (fun (a b : L2Line) => a.used < b.used) (ls.filter fun l => l.hold = 0)

/-- A line leaves its slice. A dirty one enters the victim buffer and takes its write-back slot; where 64 lines stand before it, once
the oldest that it waits for has left (R300). -/
def Hier.evict (h : Hier) (now : Nat) (v : L2Line) : Way :=
  let h := h.dropLine v.addr
  if v.dirty = 0 then ⟨h, 0, none, some v⟩
  else
    let buf := h.victims.filter fun x => x.line.slice = v.slice
    let floor := if buf.length < 64 then 0 else match buf[buf.length - 64]? with | some x => x.slot | none => 0
    let slot := bookTick h v.channel .writeBack 1 (max now floor)
    ⟨({ h with victims := h.victims ++ [⟨v, slot⟩] } : Hier).take ⟨v.channel, slot, 1⟩, floor, some slot, none⟩

/-- Makes a way free for a line in its set; with every way held, the first delivery that frees one does it (R59). -/
def Hier.makeWay (h : Hier) (now : Nat) (sl : Fin 64) (line : Nat) : Way :=
  let ways := h.ways sl line
  if ways.any (fun l => l.addr = line) || ways.length < 16 then ⟨h, 0, none, none⟩
  else match lruLine ways with
    | none => ⟨h, ways.foldl (fun n l => if n = 0 then l.till else min n l.till) 0, none, none⟩
    | some v => h.evict now v

/-- What a victim brings about: a dirty one's write-back in its slot, a clean one's truncation at once (R300, R302); of a
clean line of a dead range nothing is left (R305). -/
def State.victimGoes (s : State) (sl : Fin 64) (w : Way) : State :=
  let s := match w.clean with
    | some v => if s.isDead v.addr then s.setMem (memZero s.mem v.addr 128) else s.leaveL2 v
    | none => s
  match w.slot with
  | some k => s.schedule k .l2VictimWriteback { EvArg.none with n := k, m := sl.val }
  | none => s

/-- A new line of a slice. -/
def newLine (a : LineAt) (now : Nat) : L2Line :=
  { slice := a.home.slice, addr := a.line, valid := 0, dirty := 0, fresh := 0, hold := 0, till := 0, used := now, fill := 0
    cap := match a.home with | .cap _ ch => some ch | _ => none
    ctype := a.ctype, lossless := (match a.home with | .hbm _ _ z => z | _ => false), below := [] }

/-- Changes the line of an address, adding it if it is absent. -/
def Hier.withLine (h : Hier) (a : LineAt) (now : Nat) (f : L2Line → L2Line) : Hier :=
  match h.line? a.line with
  | some l => h.putLine (f { l with used := now })
  | none => { h with l2 := f (newLine a now) :: h.l2 }

/-! ## The memory-side cache (R306 to R309) -/

/-- The cache sector of a capacity-tier line: its index and tag (R306). -/
def sectorOf (csize : Nat) (ch : Fin 32) (line : Nat) : Nat × Nat :=
  let u := sectorNo ch (line % 2 ^ 36)
  (u % sectors csize, u / sectors csize)

/-- The sector's state (R307, R309); invalid where nothing is recorded. -/
def Hier.sector (h : Hier) (i : Nat) : Sector :=
  (h.msc.find? fun x => x.idx = i).getD ⟨i, false, false, 0, 0, 0⟩
def Hier.putSector (h : Hier) (x : Sector) : Hier :=
  { h with msc := x :: h.msc.filter fun y => y.idx != x.idx }

/-- The stages of a capacity-tier access beyond the lookup, to the slice's die (R308, R309), the sector they use with its
target and whether they are booked as a miss. `write` books them for a write-through or base-die atomic. -/
def State.capStages (s : State) (dsl : Fin 4) (ch : Fin 32) (line : Nat) (urgent : Bool) :
    List Stage × Option (Sector × Bool) :=
  if s.csize = 0 then (bareCap dsl ch urgent, none)
  else
    let (i, tag) := sectorOf s.csize ch line
    let x := s.hier.sector i
    let tg : BitVec 4 := BitVec.ofNat 4 tag
    if s.now < x.release && x.target = tg then (hitStages dsl i x.release, some (x, false))
    else (missStages dsl i ch (if s.now < x.release then x.release else 0) urgent, some ({ x with target := tg }, true))

/-- The write slot of an atomic performed at the base die or the capacity controller, 8 ticks after its read (R311). -/
def atomicWrite (r : Res) (lvl : Level) : Stage := ⟨r, 8, 0, 0, 0, true, 1, .ordinary, true, lvl⟩

/-- The stages of an atomic beyond the lookup, performed at the base die or, with no cache, at the hub (R290, R311): for a
capacity-tier line the cache sector is read and written, after its fill where it does not hold the line. -/
def State.atomicStages (s : State) (dsl : Fin 4) (a : LineAt) (urgent : Bool) : List Stage × Option (Sector × Bool) :=
  match a.home with
  | .hbm _ q ll => (hbmLine q (hbmChan a.line) urgent ll ++ [atomicWrite (.hbm q (hbmChan a.line)) 3], none)
  | .cap _ ch =>
    if s.csize = 0 then
      ((bareCap dsl ch urgent).dropLast ++ [atomicWrite (.cap ch) 5] ++ fromHub dsl 1, none)
    else
      let (st, sec) := s.capStages dsl ch a.line urgent
      match sec with
      | none => (st, none)
      | some (x, miss) =>
        let k := sectorStack x.idx
        let hc : Res := .hbm k (sectorChan x.idx)
        if miss then
          (st.dropLast ++ [{ hbmRead k (sectorChan x.idx) urgent 0 with fromSlot := 1, gap := 1, level := 4 }, atomicWrite hc 4] ++
            links (dieOfStack k) dsl, sec)
        else
          (links dsl (dieOfStack k) ++ [{ hbmRead k (sectorChan x.idx) urgent x.release with level := 4 }, atomicWrite hc 4] ++
            links (dieOfStack k) dsl, sec)
  | _ => ([], none)

/-- The last tick that a booking uses on a sector's channel. -/
def lastOn (i : Nat) (slots : List Slot) : Nat :=
  (slots.filter fun x => x.res = .hbm (sectorStack i) (sectorChan i)).foldl (fun n x => max n x.tick) 0

/-! ## One line -/

/-- The tick before which a further hold on a line may not be booked (R59): a hold count is at most 4,095, so it waits for
the earliest of the booked deliveries of the line's requests that brings the count under that. -/
def State.holdFloor (s : State) (line : Nat) : Nat :=
  match s.hier.line? line with
  | none => 0
  | some l =>
    if l.hold < 4095 then 0
    else
      let due := (s.reqs.filter fun r => r.line = line && !r.fromL1 && r.held.isNone && s.now ≤ r.arrive &&
        (match r.home with | .hbm .. | .cap .. => true | _ => false)).map fun r => r.arrive
      (sortBy (fun (x y : Nat) => x < y) due).getD (l.hold - 4095) l.till

/-- What booking a line gives: the state, the booking, whether a sector miss is to be settled at its tag read. -/
structure LineBooked where
  s   : State
  b   : Booked
  tag : Bool

/-- Whether a request is performed at a base die (R290): its path ends no stage of a slice's bank with its performance. -/
def Req.atBase (r : Req) : Bool :=
  r.site && !r.slots.isEmpty && !(r.path.any fun x => match x.res with | .bank .. => x.perf | _ => false)

/-- The requests on a line that are booked and not performed. -/
def State.booked (s : State) (line : Nat) : List Req :=
  s.reqs.filter fun r => r.line = line && !r.perfDone && r.held.isNone && !r.slots.isEmpty &&
    (match r.home with | .hbm .. | .cap .. => true | _ => false)

/-- The tick of a request's first slot in a bank of its slice. -/
def Req.lookup (r : Req) : Nat :=
  match (r.path.zip r.slots).find? fun z => z.1.level = 1 with | some z => z.2.tick | none => 0

/-- Whether a write that reaches a line of HBM5 before tick `t` makes it dirty at its slice (R290, R294). -/
def State.dirtiesBy (s : State) (a : LineAt) (t : Nat) : Bool :=
  match a.home with
  | .hbm .. => (s.booked a.line).any fun r => !r.atBase && r.lookup ≤ t && (match r.effect with | .store | .atomic .. => true | _ => false)
  | _ => false

/-- The tick before which a slice performs nothing more on a line: a base-die atomic that has passed comes first (R290, R294). -/
def State.siteFloor (s : State) (line : Nat) : Nat := ((s.booked line).filter fun r => r.atBase).foldl (fun n r => max n r.perf) 0

/-- Books a line at its home slice, from tick `t` and not before `floor` (R295, R296, R299, R290). -/
def State.bookLine (s : State) (o : Option (Fin 4)) (a : LineAt) (kind : LineKind) (urgent : Bool) (t floor : Nat) :
    LineBooked :=
  let now := s.now
  let h := s.hier.prune now
  let sl := a.home.slice
  let sd := dieOfSlice sl
  let present := h.line? a.line
  let buffered := h.victims.any fun v => v.line.addr = a.line
  let valid : BitVec 4 := match present with | some l => l.valid | none => if buffered then 15 else 0
  let dirty := match present with | some l => l.dirty != 0 | none => buffered
  let t := max t (max floor (s.holdFloor a.line))
  let pre := linksFrom o sd
  let look := max (match present with | some l => l.fill | none => 0) (s.siteFloor a.line)
  let kind := if kind = .baseDie && (dirty || s.dirtiesBy a (bookPath h t (pre ++ [bankStage sl a.bank look 24 false])).last)
    then .atomic else kind
  let wants := if kind = .write then a.need &&& ~~~a.whole else a.need
  let lack := !sectorsIn wants valid
  let back := linksBack o sd
  let ret := if o.isSome then returnTicks else 0
  let own := fun (k : LineKind) => { bankStage sl a.bank 0 (if k = .write then 8 else 24) true with gap := 0 }
  let deep := fun (_ : Unit) => match a.home with
    | .hbm _ q ll => (hbmLine q (hbmChan a.line) urgent ll, none)
    | .cap _ ch => s.capStages sd ch a.line urgent
    | _ => ([], none)
  if kind = .baseDie then
    -- R290, R311: performed at the base die; the slice passes the request on and drops its clean copy
    let (stages, sec) := s.atomicStages sd a urgent
    let b := bookPath h t (pre ++ [bankStage sl a.bank look 24 false] ++ stages ++ back)
    let h := b.h.dropLine a.line
    let h := match sec with
      | some (x, _) => h.putSector { x with release := max x.release (lastOn x.idx b.slots) }
      | none => h
    ⟨s.setHier h, b, match sec with | some (_, m) => m | none => false⟩
  else if !lack then
    let w := if buffered && kind = .read then ⟨h, 0, none, none⟩ else h.makeWay now sl a.line
    let b := bookPath w.h t (pre ++ [bankStage sl a.bank (max look w.floor) (if kind = .write then 8 else 24) true] ++ back)
    let h := if buffered && kind = .read && present.isNone then b.h
      else b.h.withLine a now fun l => { l with valid := l.valid ||| valid ||| (if kind = .write then a.need else 0)
                                                hold := l.hold + 1, till := max l.till (b.t + ret) }
    ⟨(s.setHier h).victimGoes sl w, b, false⟩
  else
    let (stages, sec) := deep ()
    let b1 := bookPath h t (pre ++ [bankStage sl a.bank look 24 false] ++ stages)
    let w := b1.h.makeWay now sl a.line
    let b2 := bookMore { b1 with h := w.h } [bankStage sl a.bank w.floor 8 (kind = .read)]
    let b3 := bookMore b2 ((if kind = .read then [] else [own kind]) ++ back)
    let h := b3.h.withLine a now fun l => { l with valid := 15, fill := max l.fill b2.t, hold := l.hold + 1
                                                   till := max l.till (b3.t + ret) }
    let h := match sec with
      | some (x, _) => h.putSector { x with release := max x.release (max (lastOn x.idx b3.slots) b2.t) }
      | none => h
    ⟨(s.setHier h).victimGoes sl w, b3, match sec with | some (_, m) => m | none => false⟩

/-- The lines of a set that has one too many, every way having been held: the one that a delivery has freed leaves (R59). -/
def State.trimSet (s : State) (sl : Fin 64) (line : Nat) : State :=
  let ways := s.hier.ways sl line
  if ways.length ≤ 16 then s
  else match lruLine ways with
    | some v => let w := s.hier.evict s.now v; (s.setHier w.h).victimGoes sl w
    | none => s

/-- Ends a hold of a request on its line (R59). -/
def State.release (s : State) (line : Nat) : State :=
  match s.hier.line? line with
  | some l => (s.setHier (s.hier.putLine { l with hold := l.hold - 1 })).trimSet l.slice line
  | none => s

/-! ## Lines reached by their physical address (R418) -/

/-- A line of HBM5 reached by its physical address (R418). -/
def physLine (a n : Nat) : LineAt :=
  let q : Fin 16 := ⟨a / 2 ^ 37 % 16, Nat.mod_lt _ (by decide)⟩
  let cover := (List.range n).map fun i => a % 128 + i
  { home := .hbm ⟨4 * q.val + a / 8192 % 4, by omega⟩ q false, line := a / 128 * 128, bank := bankOf false a
    need := touchedSectors cover, whole := wholeSectors cover, ctype := 0 }

/-- Books the load of bytes of a line by a die or the hub (R413, R418), whose hold on the line ends with the delivery (R59): the
state and the tick of the delivery. -/
def State.lineRead (s : State) (o : Option (Fin 4)) (a n t : Nat) : State × Nat :=
  let x := s.bookLine o (physLine a n) .read false t 0
  let land := x.b.t + (if o.isSome then returnTicks else 0)
  (x.s.scheduleTask ⟨land, 3, .lineDone, { EvArg.none with n := a / 128 * 128 }⟩, land)

/-- Books the write of bytes of a line by a die or the hub, whose performance ends the hold. -/
def State.lineWrite (s : State) (o : Option (Fin 4)) (a n t : Nat) : State × Booked :=
  let x := s.bookLine o (physLine a n) .write false t 0
  (x.s, x.b)

/-! ## The probe's own delay (R279) -/

/-- Books the loads of some physical addresses one after another from tick `t` (R279, R418): the state and the last landing. -/
def State.bookReads (s : State) (d : Fin 4) : List Nat → Nat → State × Nat
  | [], t => (s, t)
  | a :: as, t =>
    let (s, t) := s.lineRead (some d) a 8 t
    s.bookReads d as t

/-- What a probe still waits for before it can pass: whether the record is cached, which pages miss the core's TLB. -/
structure ProbeMiss where
  recMiss : Bool
  span    : List Nat
  walks   : List Nat
  dirty   : List TlbEntry
deriving Repr

/-- Whether a probe waits for nothing: it passes in the clock after issue. -/
def ProbeMiss.blank (m : ProbeMiss) : Bool := !m.recMiss && m.span.isEmpty && m.walks.isEmpty && m.dirty.isEmpty

/-- The misses of a probe over some virtual addresses (R279). -/
def State.misses (s : State) (k : CoreId) (c : Ctx) (h : Nat) (vas : List Nat) (write : Bool) : ProbeMiss :=
  let pages := (vas.map fun v => v / 65536 * 65536).eraseDups
  { recMiss := !(s.core k).recs.any fun r => r.ctx = c.id && r.handle = h
    span := pages.filter fun v => (s.coreTlb? k c.id v).isNone && (s.spanTlb? k c.id v).isSome
    walks := ((pages.filter fun v => (s.coreTlb? k c.id v).isNone && (s.spanTlb? k c.id v).isNone).map fun v =>
      match s.walk c v with | some w => w.entry.va | none => v).eraseDups
    dirty := if write then (pages.filterMap fun v =>
        match s.coreTlb? k c.id v with | some e => some e | none => s.spanTlb? k c.id v).filter fun e => !e.dirty else [] }

/-- Books the atomic update of a leaf entry at its home (R278): the state and the tick at which it completes. -/
def State.bookMark (s : State) (d : Fin 4) (leaf t : Nat) : State × Nat :=
  let x := s.bookLine (some d) (physLine leaf 8) .atomic false t 0
  let land := x.b.t + returnTicks
  (x.s.scheduleTask ⟨land, 3, .lineDone, { EvArg.none with n := leaf / 128 * 128 }⟩, land)

/-- The tick at which a probe passes its translation, and the bookings that takes (R278, R279): the update of D is booked from the
clock of the TLB hit. -/
def State.probeTick (s : State) (k : CoreId) (c : Ctx) (h : Nat) (m : ProbeMiss) : State × Nat :=
  let t1 := s.edgeTick k (s.clock k + 1)
  let t8 := s.edgeTick k (s.clock k + 8)
  let d := dieOf k
  let t0 := if m.span.isEmpty then t1 else t8
  let (s, t2) := if m.recMiss then s.bookReads d [c.btBase + 64 * h] t1 else (s, t1)
  let (s, t3) := m.walks.foldl (fun (st : State × Nat) v =>
    let used := readsFrom st.1 v 4 0 c.ptRoot
    let (s', t) := st.1.bookReads d used t1
    (s', max st.2 t)) (s, t1)
  let (s, t4) := m.dirty.foldl (fun (st : State × Nat) e =>
    let (s', t) := st.1.bookMark d e.leaf (if (s.coreTlb? k c.id e.va).isSome then t1 else t8)
    (s', max st.2 t)) (s, t1)
  (s, max (max t0 t2) (max t3 t4))

/-- What passing the probe's translation leaves behind: filled TLBs, A and D bits, the cached record (R278, R279). -/
def State.settleProbe (s : State) (k : CoreId) (c : Ctx) (h : Nat) (vas : List Nat) (write : Bool) : State :=
  let co := s.core k
  let s := s.setCore k { co with recs := lruPut (·.used) (fun r => r.ctx = c.id && r.handle = h) 64 ⟨c.id, h, s.now⟩ co.recs }
  let pages := (vas.map fun v => v / 65536 * 65536).eraseDups
  pages.foldl (fun s v =>
    match s.coreTlb? k c.id v, s.spanTlb? k c.id v with
    | none, none =>
      (match s.walk c v with
       | some w => (s.markWalk w write).fillTlb k { w.entry with ctx := c.id, dirty := w.entry.dirty || write }
       | none => s)
    | some e, sp =>
      let s := if write && !e.dirty then s.setMem (memSetDWord s.mem e.leaf (memDWord s.mem e.leaf ||| 8)) else s
      let e := { e with dirty := e.dirty || write }
      if write && sp.isSome && !((sp.map (·.dirty)).getD true) then (s.fillCore k e).markSpan k e else s.fillCore k e
    | none, some e =>
      let s := if write && !e.dirty then s.setMem (memSetDWord s.mem e.leaf (memDWord s.mem e.leaf ||| 8)) else s
      s.fillTlb k { e with dirty := e.dirty || write }) s

end Sys2Proof.Machine
end

