-- ==== Sys2Proof/Machine/Time.lean ====
section
/-!
DEFINITION. The time instructions (R71 to R79), budgets and deadlines (R347), energy, event counters and marks (R376 to
R383, R384, R386).
-/
namespace Sys2Proof.Machine

/-! ## Time registers -/

/-- A software write of a time register (R52): its requests are detached, and a PROMISED or BROKEN value settles when
device time reaches its tick. -/
def State.writeT (s : State) (g : Gang) (n : TReg) (v : DWord) : State × Gang :=
  let t : TimeReg := ⟨v, true, 0⟩
  ((s.detach g.key n).armTimer g.key n t, { g with t := g.t.set n t, obsT := g.obsT.set n 0 })

/-- A word with a scalar result that is taken from the state at its issue clock (R71). -/
def scalarWord (w : Stall) (ext : Bool) (d : SReg) (val : State → Gang → DWord) (s : State) :
    Host.Outcome State Fault Refusal :=
  runWord { stall := w, ext := ext, writes := [.s d] }
    (fun s' g _ => .ok (s', g.writeS s.freeNo (s.clock g.core) 2 d (val s g))) s

/-- A word that writes a time register. -/
def timeWord (w : WordSpec) (d : TReg) (val : State → Gang → Except Trap DWord) (s : State) :
    Host.Outcome State Fault Refusal :=
  runWord w (fun s' g _ => (val s g).map fun v => s'.writeT g d v) s

/-- `tnow` (R73). -/
def execTnow (n0 : Stall) (d : SReg) (s : State) : Host.Outcome State Fault Refusal :=
  scalarWord n0 false d (fun s _ => s.time64) s

/-- `tget` (R73). -/
def execTget (n0 : Stall) (d : SReg) (a : TReg) (s : State) : Host.Outcome State Fault Refusal :=
  scalarWord n0 false d (fun _ g => g.t[a].val) s

/-- The value that `tset` writes for a scalar (R74). -/
def tsetValue (v : DWord) : Except Trap DWord :=
  let cls := bits v 61 56
  match bits v 63 62 with
  | 3 => if cls < 1 || 5 < cls then .error ⟨0x01, 0⟩ else .ok (setBits v 55 32 0)
  | 2 => .ok v
  | _ => .ok (setBits v 61 56 0)

/-- `tset` (R74). -/
def execTset (n0 : Stall) (d : TReg) (a : SReg) (s : State) : Host.Outcome State Fault Refusal :=
  timeWord { stall := n0, reads := [.s a] } d (fun s g => tsetValue (s.sread g a)) s

/-- `tmin` (R75). -/
def execTmin (n0 : Stall) (d a b : TReg) (s : State) : Host.Outcome State Fault Refusal :=
  timeWord { stall := n0 } d (fun s g => .ok (if keyLe (tickOf s.now) g.t[a] g.t[b] then g.t[a].val else g.t[b].val)) s

/-- `tmax` (R75). -/
def execTmax (n0 : Stall) (d a b : TReg) (s : State) : Host.Outcome State Fault Refusal :=
  timeWord { stall := n0 } d (fun s g => .ok (if keyLe (tickOf s.now) g.t[a] g.t[b] then g.t[b].val else g.t[a].val)) s

/-- The value that `tadd` writes (R76). -/
def taddValue (t : TimeReg) (b : DWord) (n : BitVec 16) : DWord :=
  if t.isHeld then t.val
  else
    let v := setBits t.val 55 0 (t.tick + b.truncate 56 + n.zeroExtend 56).toNat
    if t.isSettled then setBits v 63 62 1 else v

/-- `tadd` (R76). -/
def execTadd (n0 : Stall) (d a : TReg) (b : SReg) (n : BitVec 16) (s : State) : Host.Outcome State Fault Refusal :=
  timeWord { stall := n0, ext := true, reads := [.s b] } d (fun s g => .ok (taddValue g.t[a] (s.sread g b) n)) s

/-- The numbers of the registers from A to B in the order of R77, packed by fours. -/
def sortTimes (now : Tick) (t : Vector TimeReg 16) (a b : Nat) : DWord :=
  let ns := (List.range 16).filter fun i => a ≤ i && i ≤ b
  let before := fun (i j : Nat) => keyLe now (vget t i) (vget t j) && !keyLe now (vget t j) (vget t i)
  BitVec.ofNat 64 ((sortBy before ns).foldr (fun i n => i + 16 * n) 0)

/-- `tsort` (R77). -/
def execTsort (n0 : Stall) (d : SReg) (a b : TReg) (s : State) : Host.Outcome State Fault Refusal :=
  scalarWord n0 true d (fun s g => sortTimes (tickOf s.now) g.t a.val b.val) s

/-- `tclr` (R78). -/
def execTclr (n0 : Stall) (d l : TReg) (s : State) : Host.Outcome State Fault Refusal :=
  runWord { stall := n0 } (fun s' g _ =>
    .ok (((List.finRange 16).filter fun n => d ≤ n && n ≤ l).foldl (fun sg n => sg.1.writeT sg.2 n 0) (s', g))) s

/-- `trep` (R79). -/
def execTrep (n0 : Stall) (d : SReg) (s : State) : Host.Outcome State Fault Refusal :=
  scalarWord n0 false d (fun s g => match s.ctx? g.ctx with
    | some c => joinWords (lowWord c.rrWrite) (BitVec.ofNat 32 c.dropped)
    | none => 0) s

/-! ## Budget, deadline, energy (R347, R380) -/

/-- `bgt` (R347). -/
def execBgt (n0 : Stall) (d : SReg) (s : State) : Host.Outcome State Fault Refusal :=
  scalarWord n0 false d (fun s g => match s.slice? g.key.launch with
    | some l => if l.limited then BitVec.ofNat 64 (l.budget.toNat - l.count) else BitVec.allOnes 64
    | none => BitVec.allOnes 64) s

/-- `dline` (R347). -/
def execDline (n0 : Stall) (d : SReg) (s : State) : Host.Outcome State Fault Refusal :=
  scalarWord n0 false d (fun s g => match s.slice? g.key.launch with | some l => l.deadline | none => 0) s

/-- `ergr` (R380, R382): ACC at the last completed round. -/
def execErgr (n0 : Stall) (d : SReg) (s : State) : Host.Outcome State Fault Refusal :=
  scalarWord n0 false d (fun s g => match s.slice? g.key.launch with | some l => l.accShown | none => 0) s

/-! ## Event counters (R376 to R381) -/

/-- An event counter of the gang's core with a change of clock `c` made to it. -/
def State.changeCounter (s : State) (k : CoreId) (n : EvReg) (f : Nat → Counter → Counter) : State :=
  let cc := s.cc k
  let c := s.clock k
  s.setCc k { cc with ev := cc.ev.set n (f c (cc.ev[n].open c)) }

/-- The value that `ctrr` reads (R379, R380). -/
def Counter.image (e : Counter) : DWord :=
  BitVec.ofNat 64 ((if e.ovf0 || e.wrapped then 2 ^ 63 else 0) + (if e.run0 then 2 ^ 62 else 0) + e.before.toNat)

/-- `ctrr` (R380): what the counter showed before this clock, with OVF set if it wraps in this clock (R379). -/
def execCtrr (n0 : Stall) (d : SReg) (k : EvReg) (s : State) : Host.Outcome State Fault Refusal :=
  runWord { stall := n0, writes := [.s d] } (fun s' g _ =>
    let e := (s'.cc g.core).ev[k].open (s.clock g.core)
    .ok (s'.changeCounter g.core k fun _ e => { e with readers := (g.key, d) :: e.readers },
         g.writeS s.freeNo (s.clock g.core) 2 d e.image)) s

/-- Whether an event code is assigned (R377). -/
def eventCode (n : Nat) : Bool :=
  n ≤ 6 || (0x10 ≤ n && n ≤ 0x14) || (0x20 ≤ n && n ≤ 0x23) || (0x30 ≤ n && n ≤ 0x32) || n = 0x40 || n = 0x41 ||
  (0x51 ≤ n && n ≤ 0x58) || n = 0x60

/-- A counter set by `ctrc.set` in clock `c` (R379, R381). -/
def Counter.set (e : Counter) (c : Nat) (sel : BitVec 21) (owner : LaunchId) (count : BitVec 48) : Counter :=
  { e with sel := sel, owner := owner, count := count, ovf := false, run := true, first := c + 1, till := 0 }
/-- A counter cleared in clock `c`: the events of that clock are lost (R379). -/
def Counter.clear (e : Counter) (c : Nat) : Counter :=
  { e with count := 0, ovf := false, first := c + 1, till := 0 }
/-- A counter stopped in clock `c`: the events of that clock count (R379). -/
def Counter.stop (e : Counter) (c : Nat) : Counter :=
  { e with run := false, till := if e.run && e.first ≤ c then c + 1 else e.till }
/-- A counter started in clock `c`: it counts from the next clock (R379). -/
def Counter.start (e : Counter) (c : Nat) : Counter :=
  if e.run then e else { e with run := true, first := c + 1 }

/-- `ctrc.set` (R381): trap 0x01 for a reserved event code or a bit of sA[63:21]. -/
def execCtrcSet (n0 : Stall) (d : EvReg) (a b : SReg) (s : State) : Host.Outcome State Fault Refusal :=
  runWord { stall := n0, ext := true, reads := [.s a, .s b] } (fun s' g _ =>
    let x := s.sread g a
    if bits x 63 21 != 0 || !eventCode (bits x 15 0) then .error ⟨0x01, 0⟩
    else .ok (s'.changeCounter g.core d fun c e => e.set c (x.truncate 21) g.key.launch ((s.sread g b).truncate 48), g)) s

/-- `ctrc.clr` (R381). -/
def execCtrcClr (n0 : Stall) (d : EvReg) (s : State) : Host.Outcome State Fault Refusal :=
  runWord { stall := n0, ext := true } (fun s' g _ => .ok (s'.changeCounter g.core d fun c e => e.clear c, g)) s
/-- `ctrc.stop` (R381). -/
def execCtrcStop (n0 : Stall) (d : EvReg) (s : State) : Host.Outcome State Fault Refusal :=
  runWord { stall := n0, ext := true } (fun s' g _ => .ok (s'.changeCounter g.core d fun c e => e.stop c, g)) s
/-- `ctrc.start` (R381). -/
def execCtrcStart (n0 : Stall) (d : EvReg) (s : State) : Host.Outcome State Fault Refusal :=
  runWord { stall := n0, ext := true } (fun s' g _ => .ok (s'.changeCounter g.core d fun c e => e.start c, g)) s

/-! ## Trace (R384, R386) -/

/-- The trace ring's size code K; 0 is off (R384). -/
def Trace.k (t : Trace) : Nat := bits t.ctl 47 43
/-- The sampling period (R384). -/
def Trace.period (t : Trace) : Nat := bits t.ctl 31 0

/-- Appends a trace record of a core's active context; a full ring drops it (R384). -/
def State.traceRecord (s : State) (k : CoreId) (ds : List DWord) : State :=
  let cc := s.cc k
  let t := cc.trc
  if t.k = 0 then s
  else if (t.writes - t.read).toNat = 2 ^ t.k then s.setCc k { cc with trc := { t with drops := satInc t.drops } }
  else
    let at_ := bits t.base 51 0 + 64 * (t.writes.toNat % 2 ^ t.k)
    (s.setCc k { cc with trc := { t with writes := t.writes + 1 } }).hubWords at_ ds

/-- The first two doublewords of a trace record (R386). -/
def State.traceHead (s : State) (g : Gang) (kind arg : Nat) (pc : Pc) : List DWord :=
  let crew := match s.crew? g.crewKey with | some c => c.index.toNat % 65536 | none => 0
  [BitVec.ofNat 64 (kind * 2 ^ 56 + arg * 2 ^ 48 + g.key.gang.val * 2 ^ 40 + crew * 2 ^ 24 + g.key.launch.toNat),
   pc.zeroExtend 64]

/-- `smark` (R383). -/
def execSmark (n0 : Stall) (a : SReg) (n : BitVec 8) (s : State) : Host.Outcome State Fault Refusal :=
  runWord { stall := n0, reads := [.s a] } (fun s' g pc =>
    .ok (s'.traceRecord g.core (s.traceHead g 1 n.toNat pc ++ [s.time64, s.sread g a, 0, 0, 0, 0]), g)) s

end Sys2Proof.Machine
end

