-- ==== Sys2Proof/Machine/Reqs.lean ====
section
/-!
DEFINITION. Requests: the orders they keep (R286, R316 to R321, R327, R328), L1 and the store queue (R297, R298), their
booking, what performing one does (R315, R299, R290), landing (R50, R56), breaking (R63, R64), holding and re-probing
(R68, R280).
-/
namespace Sys2Proof.Machine

/-! ## Kinds of request (R314) -/

/-- The address at which a piece lies: the place of its offset in the request's line. -/
def Req.at (r : Req) (p : Piece) : Nat := r.line + (p.addr - r.offset)

/-- Whether the request is on memory outside the core. -/
def Req.device (r : Req) : Bool := match r.home with | .core => false | _ => true
/-- Whether the request is on HBM5 or the capacity tier. -/
def Req.cached (r : Req) : Bool := match r.home with | .hbm .. | .cap .. => true | _ => false
/-- Whether it reads for the gang (R314). -/
def Req.reads (r : Req) : Bool :=
  match r.effect with
  | .load .. | .lanes .. | .arm => true | .atomic _ (some _) _ => true | .engine _ => true | _ => false
/-- Whether it writes for the gang (R314). -/
def Req.writes (r : Req) : Bool := match r.effect with | .store | .atomic .. => true | .engine _ => true | _ => false
/-- Whether it arms a monitor (R213). -/
def Req.arms (r : Req) : Bool := match r.effect with | .arm => true | _ => false
/-- Whether it is an access of the gang at all. -/
def Req.access (r : Req) : Bool := r.reads || r.writes
/-- Whether it stands in its core's store queue (R298): until it is performed, held or not. -/
def Req.queued (r : Req) : Bool :=
  r.cached && !r.perfDone && !r.withdrawn &&
  (match r.effect with | .store | .atomic _ none _ => true | _ => false)

/-- Whether it is a request to the hub's queue unit (R340). -/
def Req.queue (r : Req) : Bool := match r.effect with | .queue .. => true | _ => false

/-- Scopes in ascending width (R317). -/
def wide (sc : Scope) : Bool := 2 ≤ sc.code

/-! ## When a request is performed with respect to a scope (R316) -/

/-- The tick at which a request is, or is booked to be, performed with respect to a scope; 0 where it takes part in no
order there (R316, R325). -/
def State.perfTick (s : State) (r : Req) (sc : Scope) : Nat :=
  if r.queue then r.arrive
  else match r.home with
  | .host | .peer _ => if sc = .sys then r.perf else 0
  | .core => if r.access then r.perf else 0
  | _ => match r.effect with
    | .store => if wide sc then r.perf else 0
    | .load .. =>
      if wide sc then (s.reqs.filter fun x => r.supply.contains x.id).foldl (fun n x => max n x.perf) r.perf
      else r.perf
    | .atomic .. | .arm => r.perf
    | _ => 0

/-- Whether a read has been performed with respect to span and wider. -/
def State.readDone (s : State) (r : Req) : Bool :=
  r.perfDone && !r.queue && !(s.reqs.any fun x => r.supply.contains x.id && !x.perfDone)

/-- The tick before which an ordered request may not reach its first resource (R328). -/
def State.floorTick (s : State) (r : Req) : Nat :=
  r.after.foldl (fun n d => match s.req? d.1 with | some x => max n (s.perfTick x d.2) | none => n) r.start

/-- The class and ticket of a held request that this one is ordered behind (R328); a read held with class 3 counts as
performed. -/
def State.heldBehind (s : State) (r : Req) : Option (HeldClass × Word) :=
  r.after.findSome? fun d => match s.req? d.1 with
    | some x => (match x.held with
      | some (.error, k) => if x.reads then none else some (.error, k)
      | h => h)
    | none => none

/-- Whether a request is held for a page, so that its home is not known yet (R280). -/
def Req.unplaced (r : Req) : Bool := r.cached && r.line = 0 && (match r.held with | some (.page, _) => true | _ => false)

/-- The virtual address of a piece of a request. -/
def State.vaOf (s : State) (r : Req) (p : Piece) : Nat :=
  (match (s.ctx? r.ctx).bind fun c => s.bufRec c r.handle with | some b => Buf.base b | none => 0) + p.addr

/-- Whether two requests of which one is held for its page touch a common byte, by their virtual addresses (R286). -/
def State.meets (s : State) (r x : Req) : Bool :=
  (r.unplaced || x.unplaced) && r.device && x.device && r.pieces.any fun p => x.pieces.any fun q =>
    s.vaOf r p < s.vaOf x q + q.size && s.vaOf x q < s.vaOf r p + p.size

/-- The bytes that two requests have in common. -/
def Req.overlaps (r x : Req) : Bool :=
  r.device && x.device && r.home = x.home && r.pieces.any fun p => x.pieces.any fun q =>
    r.at p < x.at q + q.size && x.at q < r.at p + p.size

/-- The accesses of a gang, and the queued stores of its core, that a release of a scope follows (R320). -/
def State.releaseOrders (s : State) (g : Gang) (sc : Scope) : List (Nat × Scope) :=
  ((s.reqs.filter fun x => x.of g.key && x.access).map fun x => (x.id, sc)) ++
  (if wide sc then (s.reqs.filter fun x => x.core = g.core && x.queued).map fun x => (x.id, Scope.dev) else [])

/-- The requests that a request `r` of gang `g` follows, with the scope at which each must be performed first: those on a
common byte (R286), the ones that `after` names (R319, R321), those before a release (R320) and before a fence (R327). -/
def State.orders (s : State) (g : Gang) (r : Req) (after : Option TReg) : List (Nat × Scope) :=
  let own := s.reqs.filter fun x => x.of g.key && x.id != r.id
  let queue := fun (upTo : Nat) => (s.reqs.filter fun x => x.core = g.core && x.queued && x.id < upTo).map fun x => (x.id, Scope.dev)
  let all := fun (sc : Scope) (p : Req → Bool) => (own.filter fun x => x.access && p x).map fun x => (x.id, sc)
  let same := (own.filter fun x => (s.meets r x || r.overlaps x) &&
      !(r.cached && !r.writes && !r.arms && x.held.isNone && (match x.effect with | .store => true | _ => false))).map fun x =>
    (x.id, if r.cached then (if r.writes || r.arms then Scope.dev else Scope.crew) else Scope.sys)
  let named := match after with
    | none => []
    | some t => if g.t[t].soft then [] else
      (own.filter fun x => x.treg = t && x.tracked).flatMap fun x =>
        (x.id, r.scope) :: (if x.reads && (x.sem = .acq || x.sem = .acqRel) then [(x.id, x.scope)] else [])
  let released := if r.writes && (r.sem = .rel || r.sem = .acqRel) then
      all r.scope (fun _ => true) ++ (if wide r.scope then queue (s.own.nextReq) else [])
    else []
  let fenced := g.fences.flatMap fun f =>
    (if f.kind != .rel then all f.scope (fun x => x.reads && x.id < f.upTo) else []) ++
    (if f.kind != .acq && r.writes then
      all f.scope (fun x => x.id < f.upTo) ++ (if wide f.scope then queue f.upTo else []) else []) ++
    (if f.kind = .full && r.reads then all f.scope (fun x => x.writes && x.id < f.upTo) else [])
  same ++ named ++ released ++ fenced

/-! ## L1 (R59, R297) -/

/-- A filled line of L1 that a probe may hit. -/
def State.l1Hit (s : State) (k : CoreId) (line : Nat) : Option L1Line :=
  (s.core k).l1.find? fun l => l.addr = line && !l.data.isEmpty && !l.kill

def State.setL1 (s : State) (k : CoreId) (x : List L1Line) : State := s.setCore k { s.core k with l1 := x }

/-- Takes a line out of a core's L1; a held one goes when its delivery lands (R290, R297). -/
def State.l1Drop (s : State) (k : CoreId) (line : Nat) : State :=
  s.setL1 k ((s.core k).l1.filterMap fun l => if l.addr = line then (if l.hold = 0 then none else some { l with kill := true }) else some l)

/-- An acquire at span or wider: every line of the core's L1 goes, a held one when its delivery lands (R297, R321). -/
def State.l1Flush (s : State) (k : CoreId) : State :=
  s.setL1 k ((s.core k).l1.filterMap fun l => if l.hold = 0 then none else some { l with kill := true })

/-- The ways of L1 that take no allocations: those converted, and those of a conversion under way (R189, R297). -/
def State.waysTaken (s : State) (k : CoreId) : Nat :=
  s.reqs.foldl (fun n r => match r.effect with | .l1cfg c => if r.core = k then max n c else n | _ => n) (s.cc k).conv

/-- The ways of L1 that may hold lines while `c` of them are taken: 0 to 3 and 4 + c to 7 (R297). -/
def lineWays (c : Nat) : List Nat := (List.range 8).filter fun w => w < 4 || 4 + c ≤ w

/-- Allocates a line in L1 for a load, in the lowest free way or that of the victim (assumption row 30); the tick before which it
cannot be booked, every way being held (R59, R297). -/
def State.l1Alloc (s : State) (k : CoreId) (line : Nat) : State × Nat :=
  let co := s.core k
  match co.l1.find? fun l => l.addr = line with
  | some _ => (s.setL1 k (co.l1.map fun l => if l.addr = line then { l with hold := l.hold + 1, used := s.now } else l), 0)
  | none =>
    let ways := lineWays (s.waysTaken k)
    let set := co.l1.filter fun l => l.addr / 128 % 512 = line / 128 % 512 && ways.contains l.way
    let new := fun (w : Nat) => (⟨line, w, [], 1, 0, s.now, false⟩ : L1Line)
    match ways.find? fun w => !set.any fun l => l.way = w with
    | some w => (s.setL1 k (new w :: co.l1), 0)
    | none => match firstBy (fun (a b : L1Line) => a.used < b.used) (set.filter fun l => l.hold = 0) with
      | some v => (s.setL1 k (new v.way :: co.l1.filter fun l => l.addr != v.addr), 0)
      | none => match firstBy (fun (a b : L1Line) => a.till < b.till) (set.filter fun l => !set.any fun x => x.way = l.way && l.till < x.till) with
        | some v => (s.setL1 k (new v.way :: co.l1), v.till)
        | none => (s, 0)

/-- A delivery into L1: the line is filled, or goes if it was invalidated meanwhile, or if its way waits for a later line
(R59, R297). -/
def State.l1Fill (s : State) (k : CoreId) (line : Nat) (bs : List Byte) : State :=
  let ls := (s.core k).l1
  let next := fun (l : L1Line) => ls.any fun x => x.way = l.way && x.addr / 128 % 512 = l.addr / 128 % 512 && l.till < x.till
  s.setL1 k (ls.filterMap fun l =>
    if l.addr = line then
      (if l.hold ≤ 1 && (l.kill || next l) then none
       else some { l with hold := l.hold - 1, data := if l.kill || bs.isEmpty then l.data else bs })
    else some l)

/-! ## The store queue (R298) -/

/-- The youngest queued store or reduction of a core that covers an address, with its last piece there. -/
def State.queueTop (s : State) (k : CoreId) (a : Nat) : Option (Req × Piece) :=
  s.reqs.reverse.findSome? fun r =>
    if r.core = k && r.queued && !r.unplaced then
      (r.pieces.reverse.find? fun p => r.at p ≤ a && a < r.at p + p.size).map fun p => (r, p)
    else none

/-- The byte that a queue entry supplies and the entry: a reduction supplies none. -/
def queueByte (a : Nat) (x : Option (Req × Piece)) : Option (Byte × Nat) :=
  match x with
  | some (r, p) => (match r.effect with | .store => some (p.data.getD (a - r.at p) 0, r.id) | _ => none)
  | none => none

/-- Whether a queue entry is a reduction of a gang, whose result the gang's load reads at the home. -/
def ownReduction (g : GangKey) (x : Option (Req × Piece)) : Bool :=
  match x with
  | some (r, _) => r.of g && (match r.effect with | .store => false | _ => true)
  | none => false

/-- Whether a request leaves its place by `t`, the tick of the next clock, so that a probe of that clock finds the place free. -/
def Req.gone (r : Req) (t at_ : Nat) : Bool := r.held.isNone && r.cached && at_ < t

/-- Entries of a core's store queue that the probes of its next clock find taken (R298). -/
def State.queueUsed (s : State) (k : CoreId) : Nat :=
  let t := s.edgeTick k (s.clock k + 1)
  (s.reqs.filter fun r => r.core = k && r.queued && !r.gone t r.perf).length

/-- The entries of the promise table that a request takes: on the host and peer tiers one for each aligned access (R282). -/
def Req.entries (r : Req) : Nat := match r.home with | .host | .peer _ => r.pieces.length | _ => 1

/-- Entries of a core's promise table that the probes of its next clock find taken: those of a request withdrawn with its context are
free, and so are those of one that is delivered in the present clock (R282, R294). -/
def State.promisesUsed (s : State) (k : CoreId) : Nat :=
  let t := s.edgeTick k (s.clock k + 1)
  (s.reqs.filter fun r => r.core = k && !r.withdrawn && !r.gone t r.arrive).foldl (fun n r => n + r.entries) 0

/-- The byte addresses of a request. -/
def Req.bytes (r : Req) : List Nat := r.pieces.flatMap fun p => (List.range p.size).map fun i => r.at p + i

/-! ## Dead ranges (R305) -/

/-- Books a range clear: 512 ordinary slots on each channel (R305); the tick at which the last one begins. -/
def clearRange (h : Hier) (k : Fin 16) (t : Nat) : Hier × Nat :=
  (List.finRange 32).foldl (fun (x : Hier × Nat) ch =>
    let b := bookPath x.1 t ((List.range 512).map fun i =>
      ⟨.hbm k ch, if i = 0 then 0 else 1, if i = 0 then 0 else 1, 0, 0, true, 1, .ordinary, false, 3⟩)
    (b.h, max x.2 b.last)) (h, t)

/-- The range of a line made live by a write that reaches its stack, its clear booked (R305); the tick before which the
write cannot take place. -/
def State.revive (s : State) (line : Nat) : State × Nat :=
  if s.isDead line then
    let (k, n) := rangeOf line
    let (h, t) := clearRange (s.hier.prune s.now) k s.now
    let st := h.stks[k]
    (s.setHier { h with stks := h.stks.set k { st with dead := st.dead.filter fun x => x != n } }, t + 2)
  else (s, s.now)

/-! ## Booking a request -/

/-- The sectors of its line that a request touches, and those it writes whole. -/
def Req.lineAt (r : Req) : LineAt :=
  let cover := r.bytes.map fun a => a - r.line
  { home := r.home, line := r.line, bank := bankOf (match r.home with | .cap .. => true | _ => false) r.offset
    need := touchedSectors cover
    whole := (match r.effect with | .store => wholeSectors cover | _ => 0), ctype := r.ctype }

/-- What the request does at its home. -/
def Req.kind (r : Req) : LineKind :=
  match r.effect with
  | .store => .write
  | .atomic .. => if r.site then .baseDie else .atomic
  | _ => .read

/-- The lowest link toward a peer that is ready and up (R395, R400). -/
def State.linkTo (s : State) (peer : Fin 256) : Option (Fin 12) :=
  (List.finRange 12).find? fun l =>
    (s.sys.route[peer]).getLsbD l.val && s.sys.links.getLsbD l.val && s.sys.ready.getLsbD (24 + l.val)

/-- The class and ticket with which a request on a buffer is held while what it lies on is not ready (R400) or no link leads to
its peer (R395). -/
def State.bufHeld (s : State) (b : Vector DWord 8) : Option (HeldClass × Word) :=
  let dev : Fin 256 := ⟨Buf.peer b % 256, Nat.mod_lt _ (by decide)⟩
  if !s.bufReady b then some (.page, 0)
  else if Buf.tier b = 3 && (s.linkTo dev).isNone then some (.peer, BitVec.ofNat 32 dev.val) else none

/-- The clock of the last pass of a lane-port request (R181, R182). -/
def Req.passClk (r : Req) : Option Nat :=
  match r.home, r.effect with
  | .core, .lanes .. => some (r.clk - 10)
  | .core, .store => some (r.clk - 5)
  | .core, .atomic .. => some (r.clk - 14)
  | _, _ => none

/-- Puts the performance of a request on the agenda: in its last pass of the lane port, or at its tick. -/
def State.atPass (s : State) (r : Req) (rank : Nat) (t : Task) (a : EvArg) : State :=
  match r.passClk with
  | some n => s.dueIn r.core n rank t a
  | none => s.scheduleTask ⟨r.perf, rank, t, a⟩

/-- Puts the performance and the landing of a booked request on the agenda. -/
def State.arm (s : State) (r : Req) : State :=
  let a := { EvArg.none with req := r.id }
  let s := if r.perfDone then s
    else match r.effect with
      | .store => s.atPass r 3 (.ev .storePerformed) a
      | .atomic .. =>
        let s := if r.device then s else s.atPass r 0 .perform a
        s.atPass r 3 (.ev .atomicPerformed) a
      | .l1cfg _ | .copy _ | .engine _ => s
      | .queue .. => s.schedule r.perf .queueUnitRequest a
      | _ => s.atPass r (if r.device && !r.arms then 3 else 0) .perform a
  let waits := match r.home, r.effect with | .host, .load .. | .peer _, .load .. => true | _, _ => false
  match r.effect with
  | .l1cfg _ => s.scheduleTask ⟨r.arrive, 4, .ev .l1cfgComplete, a⟩
  | .copy _ | .engine _ => s
  | .queue .. =>
    let s := if r.perfDone then s.schedule r.arrive .requestLanding a else s
    if r.replied then s else s.schedule r.reply .probePass { EvArg.none with key := r.owner }
  | _ => if waits then s.schedule r.prom .pathAllowanceOverrun a else s.schedule r.arrive .requestLanding a

/-- A request with a new booking of its path (R50, R213, R341): its promise, its landing, its performance and the reply to
its gang. A push settles when it is written; any other queue request comes back over the return path. -/
def Req.rebooked (r : Req) (b : Booked) : Req :=
  let perf := if r.perfDone then r.perf else b.perf
  let prom := match r.effect with
    | .queue (.push _) _ => if r.perfDone then max b.perf r.prom else b.perf + 4
    | .arm => b.t
    | _ => b.t + returnTicks
  let back := match r.effect with | .queue (.pop _) _ | .queue (.peek _) _ => b.t + 4 | _ => b.perf + 20
  { r with path := b.path, slots := b.slots, prom := prom, arrive := prom, perf := perf
           reply := if r.perfDone then r.reply else back }

/-- Books a request on a port (R420): one return slot for each 128 distinct bytes. -/
def State.bookPort (s : State) (r : Req) (p : Port) (alw floor : Nat) : State × Req :=
  let write := !r.reads
  let bytes := r.bytes.eraseDups.length
  let b := bookPath (s.hier.prune s.now) (max r.probed floor) (portStages (dieOf r.core) p alw bytes write)
  let prom := b.t + returnTicks
  (s.setHier b.h, { r with path := b.path, slots := b.slots, prom := prom, arrive := prom, perf := b.perf, perfDone := false
                           held := none, level := p.level })

/-- The sector of the memory-side cache that a request's path uses, with its tag. -/
def State.sectorFor (s : State) (r : Req) : Option (Nat × Nat) :=
  match r.home with
  | .cap _ ch => if r.path.any fun x => x.level = 4 then some (sectorOf s.csize ch r.line) else none
  | _ => none

/-- The ticks of the slots of a level on a path, on it or beside it. -/
def levelTicks (path : List Stage) (slots : List Slot) (lvl : Level) (main : Bool) : List Nat :=
  ((path.zip slots).filter fun z => z.1.level = lvl && z.1.main = main).map fun z => z.2.tick

/-- Puts the tag read of a line that is booked as a sector miss on the agenda, for the request `id` or none (R308): the last fill write
and the write-back slots go with it. -/
def State.armTag (s : State) (id : Nat) (ch : Fin 32) (line : Nat) (path : List Stage) (slots : List Slot) : State :=
  match levelTicks path slots 4 true with
  | t :: _ =>
    if path.any fun x => x.level = 5 then
      let (i, tag) := sectorOf s.csize ch line
      s.scheduleTask ⟨t, 3, .tagRead, { EvArg.none with req := id, n := i, m := tag
                                                        v := BitVec.ofNat 64 ((levelTicks path slots 4 false).foldl max t)
                                                        pairs := (levelTicks path slots 5 true).map fun x => (x, 0) }⟩
    else s
  | [] => s

/-- Puts the tag read of a request on the agenda. -/
def State.armTagOf (s : State) (r : Req) : State :=
  match r.home with | .cap _ ch => s.armTag r.id ch r.line r.path r.slots | _ => s

/-- The tick of the fill that a request has booked: that of the second stage in its slice. -/
def Req.fillDue (r : Req) : Option Nat :=
  match (r.path.zip r.slots).filter fun z => z.1.level = 1 with
  | _ :: z :: _ => some (z.2.tick + 8)
  | _ => none

/-- What a request that is booked again keeps from being used too soon: its line, held until the delivery, and its sector (R59, R299,
R309). -/
def State.keepBooked (s : State) (r : Req) : State :=
  if !r.cached then s
  else
    let s := match s.hier.line? r.line with
      | some l => s.setHier (s.hier.putLine { l with till := max l.till r.prom, fill := max l.fill (r.fillDue.getD 0) })
      | none => s
    let s := match s.sectorFor r with
      | some (i, _) =>
        let x := s.hier.sector i
        s.setHier (s.hier.putSector { x with release := max x.release (max (lastOn i r.slots) (r.fillDue.getD 0)) })
      | none => s
    match r.effect with
    | .load .. => s.setL1 r.core ((s.core r.core).l1.map fun (x : L1Line) =>
        if x.addr = r.line && x.hold != 0 then { x with till := max x.till r.prom } else x)
    | _ => s

/-- The state of the block of 512 bytes in which a line lies (R301): plain where nothing is recorded. -/
def State.blockAt (s : State) (line : Nat) : BitVec 2 :=
  match s.hier.states.find? fun x => x.1 = line / 512 with | some x => x.2 | none => 0

/-- A lossless read, booked as a metadata miss of a block of 256 bytes: where the metadata cache holds the state, or it is another
one, the read needs less than it booked and arrives earlier by a free value (R296, R301). -/
def State.losslessGain (s : State) (r : Req) : State × Req :=
  match (r.path.zip r.slots).find? fun z => z.1.level = 3, (r.path.zip r.slots).find? fun z => (match z.1.res with | .decomp _ => true | _ => false) with
  | some m, some d =>
    let f := s.freeNo
    let gain := if s.blockAt r.line != 1 || Config.metaHit f then Config.metaGain f % (d.2.tick + 8 - (m.2.tick + 160) + 1) else 0
    let s := s.useFree 1
    let s := match s.hier.line? r.line, r.fillDue with
      | some l, some t => if l.fill = t then s.setHier (s.hier.putLine { l with fill := t - gain }) else s
      | _, _ => s
    (s, { r with perf := r.perf - gain, arrive := r.arrive - gain })
  | _, _ => (s, r)

/-- Books a read, write or atomic of a line at its home; the state and the request. -/
def State.bookHome (s : State) (r : Req) (floor : Nat) : State × Req :=
  let dirty := match s.hier.line? r.line with | some l => l.dirty != 0 | none => s.hier.victims.any fun v => v.line.addr = r.line
  let (s, floor) : State × Nat := if r.kind = .baseDie && !dirty && s.isDead r.line then
      (let (s, t) := s.revive r.line; (s, max floor t))
    else (s, floor)
  let x := s.bookLine (some (dieOf r.core)) r.lineAt r.kind r.urgent r.probed floor
  let prom := x.b.t + returnTicks
  let r := { r with path := x.b.path, slots := x.b.slots, prom := prom, arrive := prom, perf := x.b.perf, perfDone := false
                    held := none, level := 1 }
  let s := if x.tag then x.s.armTagOf r else x.s
  let (s, r) := s.losslessGain r
  let waits := (List.range 8).map fun l => (x.b.waits.filter fun w => w.1 = l).foldl (fun n w => n + w.2) 0
  (s, { r with sample := r.sample.map fun m => { m with waits := waits } })

/-- Books the arming of a monitor (R212, R213): the way to the home slice, where its lookup slot performs it. -/
def State.bookArm (s : State) (r : Req) (floor : Nat) : State × Req :=
  let sl := r.home.slice
  let b := bookPath (s.hier.prune s.now) (max r.probed floor)
    (links (dieOf r.core) (dieOfSlice sl) ++ [bankStage sl r.lineAt.bank 0 0 true])
  (s.setHier b.h, { r with path := b.path, slots := b.slots, prom := b.t, arrive := b.t, perf := b.perf, perfDone := false
                           held := none, level := 1 })

/-- The first clock of a core, after the present one, that begins at or after a tick; the present one for a tick that has come. -/
def State.clockFrom (s : State) (k : CoreId) (t : Nat) : Nat :=
  if t ≤ s.now then s.clock k else s.clock k + s.edgesHere k + s.edgesBy k (t - 1) + 1

/-- The passes of a lane-port request (R180): the most distinct words that it touches in one bank; a compare-and-swap
takes one more for each lane after the first on a word (R191). -/
def Req.passes (r : Req) : Nat :=
  let words := (r.bytes.map fun a => a / 4).eraseDups
  let most := (List.range 32).foldl (fun n b => max n (words.filter fun w => w % 32 = b).length) 1
  most + (match r.effect with | .atomic .cas .. => r.pieces.length - words.length | _ => 0)

/-- Takes `p` passes of the lane port for a probe in clock `q`, not before tick `floor` (R181, R328): the first pass clock. -/
def State.takeLane (s : State) (k : CoreId) (q floor p : Nat) : State × Nat :=
  let co := s.core k
  let f := max (q + 1) (max (max co.laneFree co.laneHold) (if floor ≤ s.now then 0 else s.clockFrom k floor))
  (s.setCore k { co with laneFree := f + p }, f)

/-- Counts the passes of the lane port that a word takes, and those beyond the first (R377). -/
def State.countPasses (s : State) (k : CoreId) (p : Nat) : State := (s.count k 0x22 p none none).count k 0x23 (p - 1) none none

/-- A lane-port request whose first pass is in clock `f`: its settling event and its promise (R182). -/
def State.laneFrom (s : State) (r : Req) (f : Nat) : Req :=
  let clk := f + r.passes + (match r.effect with | .store => 4 | .atomic .. => 13 | _ => 9)
  let prom := r.probed + s.ticksOf r.core (clk - r.pclk)
  { r with prom := prom, arrive := prom, perf := s.edgeTick r.core (f + r.passes - 1), clk := clk }

/-- Books a lane-port request (R181, R182): its passes, and the clock of its settling event. -/
def State.bookLane (s : State) (r : Req) (floor : Nat) : State × Req :=
  let (s, f) := s.takeLane r.core r.pclk (if floor ≤ r.probed then 0 else floor) r.passes
  let s := s.countPasses r.core r.passes
  (s, { s.laneFrom r f with perfDone := false, held := none, level := 0 })

/-- Books a request that may be booked: a load that the store queue or L1 serves is an L1 hit (R55, R298); every other
one takes its path. A hit that an order delays reads L1 when it is performed (R315). What `bchk` and `bmeta` found lands 8 clocks after the probe (R292). -/
def State.book (s : State) (r : Req) : State × Req :=
  let floor := s.floorTick r
  match r.home with
  | .core =>
    (match r.effect with
     | .lanes .. | .store | .atomic .. => s.bookLane r floor
     | .scalar .. =>
       let land := r.probed + s.ticksOf r.core 8
       (s, { r with prom := land, arrive := land, perf := land, clk := r.pclk + 8, held := none, level := 0 })
     | _ => (s, r))
  | .host => s.bookPort r .host s.sys.hostAlw.toNat floor
  | .peer d =>
    (match s.linkTo d with
     | some l => s.bookPort r (.fab l) s.sys.fabAlw[l].toNat floor
     | none => (s, { r with held := some (.peer, BitVec.ofNat 32 d.val), heldAt := s.now }))
  | _ =>
    (match r.effect with
     | .load .. =>
       let tops := r.bytes.map fun a => (a, s.queueTop r.core a)
       let mine := tops.map fun x => (x.1, queueByte x.1 x.2)
       let atHome := tops.any fun x => ownReduction r.owner x.2
       let rest := mine.filter fun x => x.2.isNone
       let got := mine.filterMap fun x => x.2.map fun y => (x.1, [y.1])
       let supply := (mine.filterMap fun x => x.2.map fun y => y.2).eraseDups
       let from_ := max r.probed floor
       let hitTick := from_ + s.ticksOf r.core 24
       let clk := (if floor ≤ r.probed then r.pclk else s.clockFrom r.core from_) + 24
       let l1 := s.l1Hit r.core r.line
       let flushed := (r.after.any fun d => match s.req? d.1 with | some x => x.flush | none => false) ||
         (match s.gangOf r with | some g => g.fences.any fun f => f.flush | none => false)
       if rest.isEmpty || (l1.isSome && !(r.probed < floor && flushed) && !atHome) then
         let data := match l1 with | some l => l.data | none => []
         let more := if floor ≤ r.probed then rest.map fun x => (x.1, [data.getD (x.1 - r.line) 0]) else []
         let s := match l1 with
           | some l => s.setL1 r.core ((s.core r.core).l1.map fun (x : L1Line) => if x.addr = l.addr then { x with used := s.now } else x)
           | none => s
         (s.count r.core 0x20 1 none (some r.owner.launch),
          { r with got := got ++ more, supply := supply, prom := hitTick, arrive := hitTick, perf := from_
                   perfDone := false, fromL1 := true, clk := clk, held := none, level := 0 })
       else
         let (s, wait) := s.l1Alloc r.core r.line
         let (s, r) := s.bookHome { r with got := got, supply := supply, fromL1 := false, clk := 0 } (max floor wait)
         let s := s.setL1 r.core ((s.core r.core).l1.map fun (x : L1Line) => if x.addr = r.line then { x with till := max x.till r.prom } else x)
         (s.count r.core 0x21 1 none (some r.owner.launch), r)
     | .arm => s.bookArm r floor
     | _ => s.bookHome r floor)

/-! ## Time registers and requests (R50) -/

/-- A time register after an instruction's probe at `tick`, given that it created requests or none. A detached HELD register is
recomputed too: R53 says so of any register that an R38 instruction names, R52 that it stays HELD (DEDUCED, assumption row 132). -/
def State.joinT (s : State) (g : Gang) (n : TReg) (made : Bool) (tick : Nat) : Gang :=
  let old := g.t[n]
  if made then
    let old := if old.isSettled then { old with soft := false, breaks := 0 } else { old with soft := false }
    { g with t := g.t.set n (recompute (s.tracked g.key n) old (tickOf tick))
             obsT := if old.isSettled then g.obsT.set n 0 else g.obsT }
  else if old.isSettled then { g with t := g.t.set n (settledAt (tickOf tick)), obsT := g.obsT.set n 0 }
  else g

/-- Adds a request to the machine: numbered, and booked or held (R54, R55, R68, R328). -/
def State.addReq (s : State) (r : Req) : State :=
  let r := { r with id := s.own.nextReq, heldAt := s.now }
  let s := s.setOwn { s.own with nextReq := s.own.nextReq + 1 }
  match (if r.held.isSome then r.held else s.heldBehind r) with
  | some h => s.setReqs (s.reqs ++ [{ r with held := some h, heldAt := r.probed }])
  | none =>
    let (s, r) := s.book r
    let s := s.setReqs (s.reqs ++ [r])
    if r.held.isSome then s else s.arm r

/-- A request that nothing has been said about yet. -/
def Req.base (g : Gang) (pc : Pc) (treg : TReg) (probed pclk : Nat) : Req :=
  { id := 0, owner := g.key, ctx := g.ctx, core := g.core, pc := pc, treg := treg, tracked := true, handle := 0, offset := 0
    home := .core, line := 0, scope := .gang, sem := .plain, effect := .store, pieces := [], srcs := [], readAt := 0
    mask := 0, probed := probed, pclk := pclk, start := 0, prom := probed, arrive := probed, perf := probed, perfDone := false, clk := 0
    fromL1 := false, site := false, urgent := false, ctype := 0, got := [], fill := [], supply := [], flush := false
    held := none, heldAt := 0, after := [], path := [], slots := [], reply := 0, replied := true
    refused := none, withdrawn := false, orphan := false, level := 0, sample := none, mixed := [] }

/-! ## Writes of memory -/

/-- Memory outside the cores with bytes written at its point of performance: the sectors of the line become valid and, on
HBM5, dirty (R299); the line of the writer goes from L1 (R290); monitors see the write (R212); an error in a sector that is
written whole is gone (R312). -/
def State.writeHome (s : State) (home : Home) (line : Nat) (ctype : Byte) (bs : List (Nat × List Byte)) : State :=
  let cover := bs.flatMap fun x => (List.range x.2.length).map fun i => x.1 + i - line
  let below := memBytes s.mem line 128
  let s := s.setMem (bs.foldl (fun m x => memWrite m x.1 x.2) s.mem)
  let s := match home with
    | .hbm .. | .cap .. =>
      let touched := touchedSectors cover
      let cap := match home with | .cap .. => true | _ => false
      let a : LineAt := ⟨home, line, 0, 0, 0, ctype⟩
      let h := s.hier.withLine a s.now fun l =>
        { l with valid := l.valid ||| touched, dirty := if cap then l.dirty else l.dirty ||| touched
                 fresh := l.fresh ||| touched, ctype := if ctype = 0 then l.ctype else ctype
                 below := if l.dirty = 0 && !cap then below else l.below }
      let whole := wholeSectors cover
      s.setHier { h with fails := h.fails.filter fun f => f.1 / 128 * 128 != line || !whole.getLsbD (f.1 % 128 / 32) }
    | _ => s
  s.hitWritten bs

/-- Memory below L2 with bytes written at a base die (R290, R311): the sector of a capacity-tier line differs from that tier. -/
def State.writeBelow (s : State) (home : Home) (line : Nat) (bs : List (Nat × List Byte)) : State :=
  let whole := wholeSectors (bs.flatMap fun x => (List.range x.2.length).map fun i => x.1 + i - line)
  let s := s.setMem (bs.foldl (fun m x => memWrite m x.1 x.2) s.mem)
  let h := s.hier
  let s := s.setHier { h with fails := h.fails.filter fun f => f.1 / 128 * 128 != line || !whole.getLsbD (f.1 % 128 / 32) }
  let s := match home with
    | .cap _ ch =>
      if s.csize = 0 then s
      else
        let (i, tag) := sectorOf s.csize ch line
        s.setHier (s.hier.putSector { s.hier.sector i with valid := true, dirty := true, tag := BitVec.ofNat 4 tag })
    | _ => s
  s.hitWritten bs

/-! ## Breaking (R63, R64) -/

/-- The handle field of a report record (R64). -/
def Req.reportHandle (r : Req) : Nat := if r.level = 8 then 0 else r.handle

/-- Counts a break of a cause on a core (R63 step 4, R378). -/
def State.countBreak (s : State) (k : CoreId) (cause : BreakCause) (l : LaunchId) : State :=
  let cc := s.cc k
  let i := causeCode cause - 1
  let s := s.setCc k { cc with brkc := vset cc.brkc i (satInc (vget cc.brkc i)) }
  s.count k (0x50 + causeCode cause) 1 none (some l)

/-- Appends a report record (R64): before those of the same register and clock that come after it by level and request (R65). -/
def State.reportInOrder (s : State) (ctx : CtxId) (x : Noted) (ds : List DWord) : State :=
  match s.ctx? ctx with
  | none => s
  | some c =>
    let x := { x with at_ := c.rrBase + 32 * (c.rrWrite.toNat % 2 ^ c.rrk), image := ds }
    let old := s.own.noted.filter fun y => y.key = x.key && y.reg = x.reg && y.time = x.time
    let s1 := s.report ctx ds
    if (s1.ctx? ctx).any fun d => d.rrWrite = c.rrWrite then s1
    else
      let all := old ++ [x]
      let order := sortBy (fun (a b : Noted) => a.level < b.level || (a.level = b.level && a.req < b.req)) all
      let placed := (all.map fun y => y.at_).zip order
      let s1 := if old.isEmpty then s1 else placed.foldl (fun s z => s.setMem (memDWords s.mem z.1 z.2.image)) s1
      s1.setOwn { s1.own with noted := (placed.map fun z => { z.2 with at_ := z.1 }) ++ s.own.noted.filter fun y => y.time = x.time && !old.contains y }

/-- Appends the report record of a break (R64). Where another request of the register is held, the image is the HELD one of R50, not
state 10 (DEDUCED, assumption row 133). -/
def State.reportBreak (s : State) (r : Req) (cause : BreakCause) (level : Level) (old new : Nat) : State :=
  let img := match s.gangOf r with
    | some g => if r.tracked then g.t[r.treg].val else timeImage 2 0 new
    | none => timeImage 2 0 new
  let handle := if level = 8 then 0 else r.handle
  s.reportInOrder r.ctx ⟨r.owner, r.treg, (s.now, s.clock r.core), level.val, r.id, 0, []⟩
    [BitVec.ofNat 64 (handle * 2 ^ 44 + r.treg.val * 2 ^ 40 + causeCode cause * 2 ^ 36 + level.val * 2 ^ 32 +
        r.owner.gang.val * 2 ^ 24 + r.owner.launch.toNat),
     BitVec.ofNat 64 (r.owner.crew.toNat * 2 ^ 48 + r.pc.toNat),
     BitVec.ofNat 64 (r.core.val * 2 ^ 56 + old % 2 ^ 56), img]

/-- The effects of a break of a request that now has its revised tick (R63). -/
def State.breakEffects (s : State) (r : Req) (cause : BreakCause) (level : Level) (old : Nat) : State :=
  let s := match s.gangOf r with
    | some g =>
      if r.tracked then
        let t := g.t[r.treg]
        let t := recompute (s.tracked r.owner r.treg) { t with breaks := t.breaks + 1 } (tickOf s.now)
        let strict := match s.slice? r.owner.launch with | some l => l.strict | none => false
        let g := if strict && g.strict.isNone then { g with strict := some (r.treg, BitVec.ofNat 4 (causeCode cause)) } else g
        (s.putGang g).putT r.owner r.treg t
      else s
    | none => s
  (s.reportBreak r cause level old r.prom).countBreak r.core cause r.owner.launch

/-- Records a request's new booking and puts it on the agenda; where its promise moved later it breaks (R328), and where it moved
earlier its register is recomputed without a report (R50). -/
def State.moved (s : State) (old r : Req) (cause : BreakCause) (level : Level) : State :=
  let s := ((s.putReq r).arm r).keepBooked r
  let s := if levelTicks r.path r.slots 4 true != levelTicks old.path old.slots 4 true then s.armTagOf r else s
  let s := if r.perf != old.perf then
      s.mapGangs fun g => { g with obs := if g.core = r.core && g.obs = old.perf && old.perf != 0 then r.perf else g.obs }
    else s
  if old.prom < r.prom then s.breakEffects r cause level old.prom
  else if r.prom < old.prom && r.tracked then s.refreshOf r else s

/-- Books again, after a request moved, every request that is ordered behind it (R328); `fuel` bounds the chain. -/
def State.rebookBehind (s : State) (id : Nat) (cause : BreakCause) (level : Level) : Nat → State
  | 0 => s
  | fuel + 1 =>
    (s.reqs.filter fun x => !x.perfDone && x.held.isNone && x.after.any fun d => d.1 = id).foldl (fun s x =>
      match s.req? x.id with
      | none => s
      | some x =>
        let floor := s.floorTick x
        let first := match x.effect, x.slots, x.path with
          | .copy _, _, _ => 0
          | _, y :: _, p :: _ => y.tick - p.gap
          | _, _, _ => x.perf
        if floor ≤ first then s
        else if (match x.effect with | .copy _ => true | _ => false) then
          s.scheduleTask ⟨s.now, 3, .copyAgain, { EvArg.none with req := x.id, cause := cause }⟩
        else if x.home = .core && !x.queue then
          let (s, y) := match x.passClk with
            | some _ => let (s, f) := s.takeLane x.core x.pclk floor x.passes; (s, s.laneFrom x f)
            | none => let d := floor - first; (s, { x with prom := x.prom + d, arrive := x.arrive + d, perf := x.perf + d })
          (s.moved x y cause level).rebookBehind x.id cause level fuel
        else
          let b := bookPath ((s.hier.free x.slots).prune s.now) (max floor (max s.now x.probed)) x.path
          let level := if x.queue then 10 else level
          ((s.setHier b.h).moved x { x.rebooked b with level := level } cause level).rebookBehind x.id cause level fuel) s

/-- Breaks a request whose stage `j` cannot begin before tick `t`: the rest of its path is booked again (R62, R63). -/
def State.breakFrom (s : State) (r : Req) (cause : BreakCause) (level : Level) (j t : Nat) : State :=
  let gap := match r.path[j]? with | some x => x.gap | none => 0
  let b0 : Booked := ⟨(s.hier.free (r.slots.drop j)).prune s.now, t - gap, r.perf, t - gap, r.path.take j, r.slots.take j, []⟩
  let b := bookMore b0 (withFloor t (r.path.drop j))
  let level := if r.queue then 10 else level
  ((s.setHier b.h).moved r (r.rebooked b) cause level).rebookBehind r.id cause level 64

/-! ## Holding (R68) -/

/-- Holds a request, and every request that is ordered behind it (R68, R328). -/
def State.holdReq (s : State) (id : Nat) (cls : HeldClass) (ticket : Word) : Nat → State
  | 0 => s
  | fuel + 1 =>
    match s.req? id with
    | none => s
    | some r =>
      let s := s.setHier (s.hier.free r.slots)
      let booked := r.cached && r.held.isNone && !r.fromL1
      let s := match r.effect with
        | .load .. => if booked then (s.release r.line).l1Fill r.core r.line [] else s
        | .store | .atomic .. => if booked then s.release r.line else s
        | _ => s
      let s := s.putReq { r with held := some (cls, ticket), heldAt := s.now, slots := []
                                 perfDone := r.perfDone || (cls = .error && r.reads) }
      let s := s.refreshOf r
      if cls = .error && r.reads then s
      else (s.reqs.filter fun x => !x.perfDone && x.held.isNone && x.after.any fun d => d.1 = id).foldl
        (fun s x => s.holdReq x.id cls ticket fuel) s

/-! ## Performing (R315, R299, R290) -/

/-- The old and the new value of an atomic's word (R287). -/
def atomNew (op : AtomOp) (w : Nat) (old v x : Nat) : Nat :=
  let m : Nat := 2 ^ (8 * w)
  let sg := fun (n : Nat) => if 2 ^ (8 * w - 1) ≤ n then (n : Int) - (m : Int) else (n : Int)
  match op with
  | .add => (old + v) % m
  | .min => if sg v < sg old then v else old
  | .max => if sg old < sg v then v else old
  | .and => old &&& v
  | .or => old ||| v
  | .xor => old ^^^ v
  | .xchg => v
  | .cas => if old = v then x else old
  | .inc => if v ≤ old then 0 else (old + 1) % m
  | .fadd => Fmt.f32.add old v

/-- Applies an atomic's lanes in ascending order to a byte memory (R287): the memory and each lane's old bytes. -/
def runAtomic (op : AtomOp) (at_ : Piece → Nat) : List Piece → List Host.Cell → List Host.Cell × List (Nat × List Byte)
  | [], m => (m, [])
  | p :: ps, m =>
    let bs := memBytes m (at_ p) p.size
    let new := natLe p.size (atomNew op p.size (leNat bs) (leNat p.data) (leNat p.data2))
    let (m', olds) := runAtomic op at_ ps (memWrite m (at_ p) new)
    (m', (p.lane, bs) :: olds)

/-- The L1 invalidations that wait on reads: acquires (R321) and fences (R327) whose reads are all performed. -/
def State.settleFlushes (s : State) (k : CoreId) : State :=
  let due := s.reqs.filter fun r => r.core = k && r.flush && s.readDone r
  let s := if due.isEmpty then s
    else (s.l1Flush k).setReqs (s.reqs.map fun r => if r.core = k && r.flush && s.readDone r then { r with flush := false } else r)
  (s.gangs.filter fun g => g.core = k && g.fences.any fun f => f.flush).foldl (fun s g =>
    let ready := fun (f : FenceMark) => f.flush && g.obs ≤ s.now && !(s.reqs.any fun r => r.of g.key && r.reads && r.id < f.upTo && !s.readDone r)
    if g.fences.any ready then
      (s.l1Flush k).putGang { g with fences := g.fences.map fun f => if ready f then { f with flush := false } else f }
    else s) s

/-- A request marked performed. -/
def State.done (s : State) (r : Req) : State := (s.putReq { r with perfDone := true }).settleFlushes r.core

/-- Whether an uncorrectable error lies in bytes that a request reads (R312): its ticket. -/
def State.failed (s : State) (r : Req) : Option Word :=
  if r.cached && !r.fromL1 then
    (s.hier.fails.find? fun f => r.bytes.any fun a => f.1 ≤ a && a < f.1 + f.2.1).map fun f => f.2.2
  else none

/-- The arming of a gang's monitor takes effect at the home slice (R212), unless a later `watch` of the gang has re-armed it. -/
def State.performArm (s : State) (r : Req) : State :=
  let cc := s.cc r.core
  let a := match r.pieces with | p :: _ => r.at p | [] => 0
  let later := r.orphan || s.reqs.any fun x => x.of r.owner && x.arms && r.id < x.id
  (s.setCc r.core { cc with mons := cc.mons.map fun m =>
    if m.gang = r.owner && !m.armed && !later then { m with addr := a, armed := true, hit := false } else m }).done r

/-- A scratchpad atomic takes its words as they stand before its clock's writes by the plane port (R184). -/
def State.takeWords (s : State) (r : Req) : State :=
  s.putReq { r with got := r.bytes.eraseDups.map fun a => (a, [memGet (s.core r.core).spad a]) }

/-- A load performed at its point of performance, or served by the store queue or L1 (R315, R316). -/
def State.performLoad (s : State) (r : Req) : State :=
  match s.failed r with
  | some k => s.holdReq r.id .error k 64
  | none =>
    let mem := match r.home with | .core => (s.core r.core).spad | _ => s.mem
    let l1 := if r.fromL1 then s.l1Hit r.core r.line else none
    let got := r.bytes.eraseDups.filterMap fun a =>
      if r.got.any fun x => x.1 = a then none
      else some (a, [match l1 with | some l => l.data.getD (a - r.line) 0 | none => memGet mem a])
    let fill := if r.cached && !r.fromL1 then memBytes s.mem r.line 128 else []
    s.done { r with got := r.got ++ got, fill := fill }

/-- The tick of the first ordinary slot of a cache sector's channel at or after a tick (R408). -/
def State.sectorSlot (s : State) (i t : Nat) : Nat := bookTick s.hier (.hbm (sectorStack i) (sectorChan i)) .ordinary 1 t

/-- The tick of the last fill write of a sector whose tag read found another tag (R308): as booked where a dirty victim goes
first; otherwise the fill reads in the write-back slots. -/
def State.fillTick (s : State) (x : Sector) (back : List Nat) (last : Nat) : Nat :=
  if x.valid && x.dirty then last else s.sectorSlot x.idx (back.getD 15 s.now + 216)

/-- The fill of a cache sector (R308): its last write sets V, D = 0 and the new tag. -/
def State.startFill (s : State) (x : Sector) (tag : Nat) (back : List Nat) (last : Nat) : State :=
  s.schedule (s.fillTick x back last) .mscSectorFill { EvArg.none with n := x.idx, m := tag }

/-- The write-through of a capacity-tier store (R310, R408), booked in the clock of its performance: the links and the
sector's slots, then a slot for the line write. Its entry comes at the tag read of a miss (`flag` false), with the second slot
of the sector read and the write-back slots in `pairs`, the last fill write in `m`, the slot of the line write in `v`; else in
the slot of the line write. -/
def State.writeThrough (s : State) (home : Home) (line : Nat) : State :=
  match home with
  | .cap sl ch =>
    let (stages, sec) := s.capStages (dieOfSlice sl) ch line false
    match sec with
    | none =>
      let b := bookPath (s.hier.prune s.now) s.now stages.dropLast
      let h := b.h.withLine ⟨home, line, 0, 0, 0, 0⟩ s.now fun l => { l with hold := l.hold + 1, till := max l.till (b.last + 7) }
      (s.setHier h).schedule b.last .writeThroughPerform { EvArg.none with n := line, flag := true }
    | some (x, miss) =>
      let k := sectorStack x.idx
      let write : Stage := ⟨.hbm k (sectorChan x.idx), 1, 1, 0, 0, true, 1, .ordinary, true, 4⟩
      let deep := if miss then stages.dropLast else
        links (dieOfSlice sl) (dieOfStack k) ++ [{ hbmRead k (sectorChan x.idx) false x.release with level := 4 }]
      let b := bookPath (s.hier.prune s.now) s.now (deep ++ [write])
      let run := b.path.zip b.slots
      let reads := (run.filter fun z => z.1.level = 4 && z.1.main).map fun z => z.2.tick
      let back := (run.filter fun z => z.1.level = 5 && z.1.main).map fun z => z.2.tick
      let last := ((run.filter fun z => z.1.level = 4 && !z.1.main).map fun z => z.2.tick).foldl max 0
      let h := b.h.putSector { x with release := max x.release (b.last + 2) }
      let h := h.withLine ⟨home, line, 0, 0, 0, 0⟩ s.now fun l => { l with hold := l.hold + 1, till := max l.till (b.last + 2) }
      (s.setHier h).schedule (if miss then reads.headD s.now else b.last) .writeThroughPerform
        { EvArg.none with n := line, m := last, flag := !miss, v := BitVec.ofNat 64 b.last
                          pairs := (reads.getD 1 s.now, 0) :: back.map fun x => (x, 0) }
  | _ => s

/-- A store performed (R299): its bytes are written in ascending lane order, so the highest lane's byte stays (R285). In scratchpad, bytes of
a word that it does not write keep what the plane port wrote in the same clock (DEDUCED from R184, assumption row 134). -/
def State.performStore (s : State) (r : Req) : State :=
  let s := if r.cached then s.l1Drop r.core r.line else s
  match r.home with
  | .core =>
    let co := s.core r.core
    (s.setCore r.core { co with spad := r.pieces.foldl (fun m p => memWrite m (r.at p) p.data) co.spad }).done r
  | _ =>
    let s := s.writeHome r.home r.line r.ctype (r.pieces.map fun p => (r.at p, p.data))
    (s.writeThrough r.home r.line).done r

/-- An atomic or reduction performed at its site (R287 to R290). -/
def State.performAtomic (s : State) (r : Req) (op : AtomOp) : State :=
  match s.failed r with
  | some k => s.holdReq r.id .error k 64
  | none =>
    match r.home with
    | .core =>
      let co := s.core r.core
      let (m, olds) := runAtomic op r.at r.pieces (r.got.foldl (fun m x => memWrite m x.1 x.2) co.spad)
      (s.setCore r.core { co with spad := m }).done { r with got := olds }
    | _ =>
      let s := s.l1Drop r.core r.line
      let (m, olds) := runAtomic op r.at r.pieces s.mem
      let bs := r.pieces.map fun p => (r.at p, memBytes m (r.at p) p.size)
      if r.atBase then (s.writeBelow r.home r.line bs).done { r with got := olds }
      else
        let s := s.writeHome r.home r.line r.ctype bs
        (s.writeThrough r.home r.line).done { r with got := olds }

/-! ## Landing (R50, R56) -/

/-- The bytes that a piece of a load or of an atomic brings back. -/
def Req.result (r : Req) (p : Piece) : List Byte :=
  match r.effect with
  | .atomic .. => (match r.got.find? fun x => x.1 = p.lane with | some x => x.2 | none => [])
  | _ => (List.range p.size).map fun i =>
    match r.got.find? fun x => x.1 = r.at p + i with | some x => x.2.headD 0 | none => 0

/-- The gang with a request's result in its registers (R111, R284). -/
def Req.landIn (r : Req) (g : Gang) : Gang :=
  match r.effect with
  | .load d w | .lanes d w | .atomic _ (some d) w => r.pieces.foldl (fun g p => g.landData d w p.lane (r.result p)) g
  | .scalar d v => g.landS d.val v
  | .queue (.pop d) _ | .queue (.peek d) _ => r.got.foldl (fun g x => g.landV d.val x.1 (BitVec.ofNat 32 (leNat x.2))) g
  | _ => g

/-- The gang after a landing over registers that another write reached since the request was made: each lane has one of the
two values (R25). -/
def Gang.mixWith (new old : Gang) (f : Nat) (xs : List (RegRef × Mask)) : Gang :=
  xs.foldl (fun g x => match x.1 with
    | .s n => if Config.overlapLater f (256 + n.val) 0 then g else { g with s := g.s.set n old.s[n] }
    | .v n => { g with v := g.v.set n (mergeLanes (maskOf fun l => x.2.getLsbD l && !Config.overlapLater f n.val l) g.v[n]
                                         (fun l => vget old.v[n] l)) }
    | .p _ => g) new

/-- Writes the trace record of a sampled instruction when its last request leaves (R385, R386); `settled` is the tick. -/
def State.traceSample (s : State) (r : Req) (settled : Nat) : State :=
  match r.sample with
  | none => s
  | some m =>
    if s.reqs.any fun x => x.id != r.id && (match x.sample with | some y => y.no = m.no | none => false) then s
    else
      let g? := s.gangOf r
      let head := match g? with
        | some g => s.traceHead g 2 m.lanes r.pc
        | none => [BitVec.ofNat 64 (2 * 2 ^ 56 + m.lanes * 2 ^ 48 + r.owner.gang.val * 2 ^ 40 + r.owner.launch.toNat), r.pc.zeroExtend 64]
      let lane := match r.pieces.getLast? with | some p => p.lane | none => 0
      let q := fun (i : Nat) => (List.range 4).foldr (fun j n => min (m.waits.getD (i + j) 0) 65535 + 65536 * n) 0
      s.traceRecord r.core (head ++
        [BitVec.ofNat 64 r.probed,
         BitVec.ofNat 64 (m.sectors * 2 ^ 56 + m.extra * 2 ^ 48 + lane * 2 ^ 43 + r.treg.val * 2 ^ 39 + r.handle),
         BitVec.ofNat 64 (m.first % 2 ^ 56), BitVec.ofNat 64 (settled % 2 ^ 56), BitVec.ofNat 64 (q 0), BitVec.ofNat 64 (q 4)])

/-- The entries of an exited gang become free once its last landing in a vector register is done (R99). -/
def State.endDrain (s : State) (k : CoreId) (o : GangKey) : State :=
  let co := s.core k
  if co.draining.any (fun d => d.1 = o) && !(s.reqs.any fun r => r.owner = o && r.orphan && r.dsts.any fun x => match x with | .v _ => true | _ => false) then
    (s.setCore k { co with draining := co.draining.filter fun d => d.1 != o }).offer k
  else s

/-- A request lands and leaves its set (R50, R56): the result in the registers or the record, L1 filled, holds released,
the time register recomputed. -/
def State.land (s : State) (r : Req) : State :=
  let s := if r.cached then
      (let s := match r.effect with | .arm => s | _ => if r.fromL1 then s else s.release r.line
       match r.effect with
       | .load .. => if r.fromL1 then s else s.l1Fill r.core r.line r.fill
       | _ => s)
    else s
  let seen := s.perfTick r .dev
  let s := (s.dropReq r.id).progress r.core
  let s := if r.orphan then s else s.overlap r.owner r.dsts r.mask s.own.nextReq
  let s := match s.gangOf r with
    | some g =>
      let g := (r.landIn g).mixWith g s.freeNo r.mixed
      let g := if r.tracked || s.now < seen then { g with obsT := g.obsT.set r.treg (max g.obsT[r.treg] seen) } else g
      let s := (s.putGang g).rereadStores g
      let s := s.refreshOf r
      (match s.gangOf r with | some g => s.syncRing g | none => s)
    | none => s
  ((s.traceSample r s.now).endDrain r.core r.owner).checkRetire (crewKeyOf r.owner)

/-! ## Urgent reads (R60) -/

/-- The quarter of a gang: of a record, the one that it last issued from. -/
def Gang.quarter (g : Gang) : Nat := match g.slot? with | some (q, _) => q.val | none => g.hd.lastq.toNat

/-- Whether no other resident gang of a gang's quarter is ready to issue in the next clock, that of a probe which passes (R60,
R279). -/
def State.urgentFor (s : State) (g : Gang) : Bool :=
  !(s.gangs.any fun x => x.key != g.key && x.core = g.core && x.resident && x.quarter = g.quarter && s.readyBy x (s.clock g.core + 1))

/-- Whether a request that is probed again is an urgent read (R60). -/
def State.urgentAgain (s : State) (r : Req) : Bool :=
  match r.effect, s.gangOf r with | .load .., some g => s.urgentFor g | _, _ => false

/-! ## Re-probing (R68, R280) -/

/-- A held request that is free to go on: it is held behind another one, or booked from the present tick (R68, R328). -/
def State.goOn (s : State) (r : Req) : State :=
  let (s, r) := match s.heldBehind r with
    | some h => (s, { r with held := some h, heldAt := s.now })
    | none => s.book { r with held := none, probed := s.now, pclk := s.clock r.core }
  let s := s.putReq r
  let s := if r.held.isSome then s else s.arm r
  s.refreshOf r

/-- A held request whose re-probe has found its translation, or that its page is absent still (R280). -/
def State.reprobed (s : State) (r : Req) (c : Ctx) (b : Vector DWord 8) : State :=
  let va := Buf.base b + r.offset
  match s.translate r.core c va with
  | none =>
    let (s, t) := s.pageTicket r.ctx r.core (va / 65536)
    (s.putReq { r with held := some (.page, t), heldAt := s.now }).refreshOf r
  | some e =>
    let home := homeOf b r.offset
    (s.settleProbe r.core c r.handle [va] r.writes).goOn
      { r with home := home, line := homeKey home (e.map va), urgent := s.urgentAgain r }

/-- Re-probes a held request from translation onward (R280, R68): where its page misses the core's TLB, it stays held until what that
takes has landed (R279). -/
def State.reprobe (s : State) (r : Req) : State :=
  if !r.device then s.goOn r
  else match s.ctx? r.ctx with
  | none => s
  | some c =>
    match s.bufRec c r.handle with
    | none => s
    | some b =>
      if !s.bufReady b then (s.putReq { r with held := some (.page, 0), heldAt := s.now }).refreshOf r
      else
        let m := { s.misses r.core c r.handle [Buf.base b + r.offset] r.writes with recMiss := false }
        if m.blank then s.reprobed r c b
        else
          let (s, t) := s.probeTick r.core c r.handle m
          s.scheduleTask ⟨t, 3, .reprobe, { EvArg.none with req := r.id }⟩

/-- The walk of a re-probe has landed. -/
def State.reprobeDue (s : State) (r : Req) : State :=
  match s.ctx? r.ctx with
  | none => s
  | some c => match s.bufRec c r.handle with
    | none => s
    | some b => if s.bufReady b then s.reprobed r c b else s

/-- Resolves every held request of a class and ticket, in the order in which they were made (R68). -/
def State.resolveHeld (s : State) (cls : HeldClass) (p : Req → Bool) : State :=
  (s.reqs.filter fun r => (match r.held with | some (c, _) => c = cls | none => false) && p r).foldl (fun s r =>
    match s.req? r.id with
    | some r => if r.held.isSome then s.reprobe r else s
    | none => s) s

/-! ## What comes due without a row of its own -/

/-- The performance of a load, or of a monitor's arming, at the tick booked for it. -/
def State.performDue (s : State) : State :=
  match s.req? s.arg.req with
  | none => s
  | some r =>
    if r.perfDone || r.held.isSome || s.now < r.perf then s
    else match r.home, r.effect with
      | .host, _ | .peer _, _ => s
      | _, .arm => s.performArm r
      | _, .atomic .. => s.takeWords r
      | _, _ => s.performLoad r

/-- The ticks from a line's data at a die to the fill of a slice: links, and a bank's fill (R296). -/
def fillAfter (a b : Fin 4) : Nat := 16 * (route a b).length + 12

/-- A capacity-tier request whose line reaches its slice at `t`, ahead of its booking (R308, R61). -/
def State.earlyLine (s : State) (r : Req) (t : Nat) : State :=
  let own := match r.effect with | .load .. => 0 | .store => 8 | _ => 24
  let perf := min r.perf (t + own)
  let arrive := min r.arrive (t + own + 16 * (route (dieOfSlice r.home.slice) (dieOf r.core)).length + returnTicks)
  let s := match s.hier.line? r.line, r.fillDue with
    | some l, some f => if l.fill = f then s.setHier (s.hier.putLine { l with fill := min f t }) else s
    | _, _ => s
  let r := { r with perf := if r.perfDone then r.perf else perf, arrive := arrive }
  (s.putReq r).arm r

/-- A base-die atomic whose line is read at the base die at `t`, ahead of its booking (R296, R311). -/
def State.earlyBase (s : State) (r : Req) (k : Fin 16) (t : Nat) : State :=
  let sd := dieOfSlice r.home.slice
  let back := 16 * ((route (dieOfStack k) sd).length + (route sd (dieOf r.core)).length) + returnTicks
  let r := { r with perf := if r.perfDone then r.perf else min r.perf (t + 8), arrive := min r.arrive (t + 8 + back) }
  (s.putReq r).arm r

/-- The tag read of a line booked as a sector miss (R308): where it finds another tag, the last fill write sets V, D and TAG, the fill
reading in the write-back slots over a clean sector. A request's line comes early: on a hit from its slot of the sector read, over a
clean sector from the first write-back slot; a base-die atomic follows the fill (R311). -/
def State.tagReadDue (s : State) : State :=
  let a := s.arg
  let x := s.hier.sector a.n
  let hit := x.valid && x.tag = BitVec.ofNat 4 a.m
  let back := a.pairs.map fun p => p.1
  let fill := s.fillTick x back a.v.toNat
  let start := fun (s : State) => if hit then s else s.startFill x a.m back a.v.toNat
  let k := sectorStack a.n
  if a.req = 0 then start s
  else match s.req? a.req with
  | none => s
  | some r =>
    match r.home with
    | .cap sl _ =>
      let reads := levelTicks r.path r.slots 4 true
      let line := reads.getD (r.line / 128 % 16) s.now + 160
      if reads.head? != some s.now || r.held.isSome then s
      else
        let s := start s
        if r.atBase then
          if hit then s.earlyBase r k line
          else if x.valid && x.dirty then s else s.earlyBase r k (s.sectorSlot a.n (fill + 1) + 160)
        else if hit then s.earlyLine r (line + fillAfter (dieOfStack k) (dieOfSlice sl))
        else if x.valid && x.dirty then s else s.earlyLine r (back.headD s.now + 200 + 12 + 12)
    | _ => s

end Sys2Proof.Machine
end

