-- ==== Sys2Proof/Machine/Clause.lean ====
section
/-!
DEFINITION. The clause header (R19, R20, R23, R27 to R30): the boundary steps in their order; words that are not instructions.
-/
namespace Sys2Proof.Machine

/-- Whether a migration of the gang's crew stops it (R30 step 1, R361 step 2). -/
def State.migrating (s : State) (g : Gang) : Bool :=
  match s.crew? g.crewKey with
  | some c => (match c.mig with | some m => m.stage = .stopping | none => false)
  | none => false

/-- Holds the requests of a gang for a migration (R361 step 3): every `ld`, `bchk`, `bmeta` and `qpeek` whose value has
not landed becomes class 5 with the migration's number. -/
def State.holdForMigration (s : State) (k : GangKey) (sq : Word) : State :=
  (s.reqs.filter fun r => r.of k && r.held.isNone && (match r.effect with
    | .load .. => r.home != .core
    | .scalar .. => true
    | .queue (.peek _) _ => true
    | _ => false)).foldl (fun s r => s.holdReq r.id .migration sq 64) s

/-- A gang of a killed crew is gone at its boundary (R356 command 4), with what it registered. -/
def State.killGang (s : State) (g : Gang) : State :=
  let s := match s.crew? g.crewKey with | some c => s.putCrew { c with regs := [] } | none => s
  s.gangExit g

/-- CLAUSE_HEADER (R30): the boundary steps in their order, the trap of an `mwait` that timed out (R214, which a trap handler does not
defer: R351 names steps 1 to 4), then the decoding of R20, the SETTLE test of R27 and the issue
of the header, whose first word comes ENTRY clocks later (R24). -/
def execClauseHeader (s : State) : Host.Outcome State Fault Refusal :=
  match s.gang? s.own.cur with
  | none => .fault .noIssuingGang
  | some g0 =>
    let g0 := g0.trimRound
    let free := !g0.inHandler
    if (match s.crew? g0.crewKey with | some c => c.killed | none => false) then .next (s.killGang g0)
    -- step 1
    else if free && s.migrating g0 then
      let sq := match s.crew? g0.crewKey with | some c => (match c.mig with | some m => m.seq | none => 0) | none => 0
      let (s, g) := s.deposit g0 5 { wake := 8 }
      .next ((s.putGang g).holdForMigration g.key sq)
    else
      -- step 2
      let g := s.rotated g0
      match g.select with
      | none => .next s
      | some e =>
        let spent := match s.slice? g.key.launch with | some l => l.spent | none => false
        -- step 3
        if free && spent && !g.budgeted then .next (s.boundaryTrap { g with budgeted := true } ⟨0x0B, 0⟩)
        else
          -- step 4
          match free, g.strict with
          | true, some (r, c) =>
            .next (s.boundaryTrap { g with strict := none } ⟨0x0A, BitVec.ofNat 32 (r.val + 16 * c.toNat)⟩)
          | _, _ =>
            if g.timedOut then .next (s.boundaryTrap { g with timedOut := false } ⟨0x0C, 0⟩)
            else
              -- step 5
              let h := (s.headerAt g e.pc).getD 0
              let ws := fun i => match s.fetched g.core g.ctx (e.pc + BitVec.ofNat 48 (4 * (i + 1))) with
                | some w => w.toNat | none => 0
              match headerOk h ws with
              | none => .next (s.boundaryTrap g ⟨0x01, 0x100⟩)
              | some c =>
                -- step 6
                let regs := g.settleRegs (hSettle h)
                match regs.find? fun x => x.2.isHeld3 with
                | some (i, _) => .next (s.boundaryTrap g ⟨0x09, BitVec.ofNat 32 i⟩)
                | none =>
                  if regs.any fun x => !x.2.isSettled then
                    let (s, g) := s.deposit g 1 { wake := 1, tmask := BitVec.ofNat 16 (hSettle h) }
                    .next (s.putGang g)
                  else
                    -- step 7
                    let (s, g) := s.issueClock g
                    let obs := regs.foldl (fun n x => max n (vget g.obsT x.1)) g.obs
                    .next (s.putGang
                      { g with front := g.front.filter fun x => x.pc != e.pc || x.mask != e.mask
                               sel := some e, clause := some ⟨e.pc, e.pc + 4, hN h, c⟩
                               readyAt := s.clock g.core + 1 + hEntry h, rotPoint := false, obs := obs
                               round := g.round.map fun pcs => pcs.filter fun pc => pc != e.pc })

/-- A word of a clause that is not an instruction (R33, R36 to R39, R41): trap 0x01 at the word, with info 0 also in a gang whose role does
not have the word, between which the manual does not rank (DESIGN CHOICE, assumption row 131). -/
def execIllegal (s : State) : Host.Outcome State Fault Refusal :=
  runWord { stall := 0, illegal := fun _ _ => true } (fun s g _ => .ok (s, g)) s

end Sys2Proof.Machine
end

