-- ==== Sys2Proof/Machine/Ctl.lean ====
section
/-!
DEFINITION. Class CTL: branches, transfers, exit, priorities (R102 to R107), yields, live, fork (R125 to R127), time
branches (R80), trap, rett, brk (R354).
-/
namespace Sys2Proof.Machine

/-- The target of a WB or WBE branch at `a` (R21). -/
def branchTarget (a : Pc) (off : BitVec 16) : Pc := a + 4 * off.signExtend 48

/-- The fall-through header: the address after the last word of the clause (R102). -/
def Gang.fall (g : Gang) : Pc := match g.clause with | some c => c.next | none => 0

/-- A transfer of the selected entry (R102, R103): lanes `go` to `target` with a priority, the others to the fall-through
with the entry's own. In a handler a split, or the PC of another entry, raises trap 0x01 (R352). -/
def Gang.transfer (g : Gang) (go : Mask) (target : Pc) (prio : Fin 32) : Except Trap Gang :=
  match g.sel with
  | none => .ok g
  | some e =>
    let go := go &&& e.mask
    let stay := e.mask &&& ~~~go
    let hits := fun (pc : Pc) => g.front.any fun x => x.pc = pc
    if g.inHandler && ((go != 0 && stay != 0) || (go != 0 && hits target) || (stay != 0 && hits g.fall)) then
      .error ⟨0x01, 0⟩
    else
      .ok { g with front := placeLanes stay g.fall e.prio (placeLanes go target prio g.front)
                   sel := none, clause := none
                   lastPc := some (if go = 0 then g.fall else target)
                   rotPoint := go != 0 || hits g.fall }

/-- A branch word: the lanes that go are `go` of the gang and its predicate register values. -/
def runBranch (w : WordSpec) (off : BitVec 16) (prio : Fin 32) (go : State → Gang → Mask) (pre : Pc → Gang → Gang)
    (s : State) : Host.Outcome State Fault Refusal :=
  runWord w (fun s' g a => (Gang.transfer (pre g.fall g) (go s g) (branchTarget a off) prio).map fun g' => (s', g')) s

/-- `nop` (R107): no effect beyond its issue clock and stall count. -/
def execNop (n0 : Stall) (s : State) : Host.Outcome State Fault Refusal :=
  runPure { stall := n0 } (fun _ _ g => g) s

/-- `bra` (R103). -/
def execBra (n0 : Stall) (off : BitVec 16) (prio : Fin 32) (s : State) : Host.Outcome State Fault Refusal :=
  runBranch { stall := n0 } off prio (fun _ g => g.active) (fun _ g => g) s

/-- `bp` (R103): active lanes with pP set. -/
def execBp (n0 : Stall) (p : PReg) (off : BitVec 16) (prio : Fin 32) (s : State) : Host.Outcome State Fault Refusal :=
  runBranch { stall := n0, reads := [.p p] } off prio (fun s g => g.active &&& s.pread g p) (fun _ g => g) s

/-- `bpz` (R103): active lanes with pP clear. -/
def execBpz (n0 : Stall) (p : PReg) (off : BitVec 16) (prio : Fin 32) (s : State) : Host.Outcome State Fault Refusal :=
  runBranch { stall := n0, reads := [.p p] } off prio (fun s g => g.active &&& ~~~(s.pread g p)) (fun _ g => g) s

/-- `ball` (R103): every active lane, if every one has pP set. -/
def execBall (n0 : Stall) (p : PReg) (off : BitVec 16) (prio : Fin 32) (s : State) : Host.Outcome State Fault Refusal :=
  runBranch { stall := n0, reads := [.p p] } off prio
    (fun s g => if s.pread g p &&& g.active = g.active then g.active else 0) (fun _ g => g) s

/-- `bany` (R103): every active lane, if any has pP set. -/
def execBany (n0 : Stall) (p : PReg) (off : BitVec 16) (prio : Fin 32) (s : State) : Host.Outcome State Fault Refusal :=
  runBranch { stall := n0, reads := [.p p] } off prio
    (fun s g => if s.pread g p &&& g.active != 0 then g.active else 0) (fun _ g => g) s

/-- `call` (R103): every active lane; s63 takes the fall-through. -/
def execCall (n0 : Stall) (off : BitVec 16) (prio : Fin 32) (s : State) : Host.Outcome State Fault Refusal :=
  runBranch { stall := n0, writes := [.s 63] } off prio (fun _ g => g.active)
    (fun fall g => { g with s := g.s.set 63 (fall.zeroExtend 64) }) s

/-- A register transfer of every active lane (R104): trap 0x08 for a target that is not a multiple of 4. -/
def runJump (w : WordSpec) (n : SReg) (s : State) : Host.Outcome State Fault Refusal :=
  runWord w (fun s' g _ =>
    let x : Pc := (s.sread g n).truncate 48
    if x.toNat % 4 != 0 then .error ⟨0x08, 0⟩
    else (g.transfer g.active x ((g.sel.map (·.prio)).getD 0)).map fun g' => (s', g')) s

/-- `ret` (R104): s63[47:0]. -/
def execRet (n0 : Stall) (s : State) : Host.Outcome State Fault Refusal :=
  runJump { stall := n0, reads := [.s 63] } 63 s

/-- `jmp` (R104): sA[47:0]. -/
def execJmp (n0 : Stall) (a : SReg) (s : State) : Host.Outcome State Fault Refusal :=
  runJump { stall := n0, reads := [.s a] } a s

/-- Distinct targets of lanes, ascending, each with its lanes (R104). -/
def targetGroups (xs : List (Nat × Nat)) : List (Nat × Mask) :=
  ((sortBy (fun a b : Nat => a < b) (xs.map (·.2))).eraseDups).map fun x =>
    (x, maskOf fun l => xs.contains (l, x))

/-- `jmpv` (R104): each active lane to its own vA, zero-extended; every lane's target is checked first, and trap 0x08
gives the lowest failing lane (R350). -/
def execJmpv (n0 : Stall) (a : VReg) (s : State) : Host.Outcome State Fault Refusal :=
  runWord { stall := n0, reads := [.v a] } (fun s' g _ =>
    match g.sel with
    | none => .ok (s', g)
    | some e =>
      let xs := (lanesOf e.mask).map fun l => (l, (g.readV s.freeNo (s.clock g.core) a l).toNat)
      match xs.find? fun x => x.2 % 4 != 0 with
      | some x => .error ⟨0x08, BitVec.ofNat 32 x.1⟩
      | none =>
        let gs := targetGroups xs
        let hits := gs.any fun x => g.front.any fun y => y.pc = BitVec.ofNat 48 x.1
        if g.inHandler && (gs.length > 1 || hits) then .error ⟨0x01, 0⟩
        else .ok (s', { g with
          front := gs.foldl (fun f x => placeLanes x.2 (BitVec.ofNat 48 x.1) e.prio f) g.front
          sel := none, clause := none, lastPc := gs.head?.map fun x => BitVec.ofNat 48 x.1, rotPoint := true })) s

/-- `exit` (R105): the active lanes leave the gang; in a handler this ends the handler (R352). -/
def execExit (n0 : Stall) (s : State) : Host.Outcome State Fault Refusal :=
  runPure { stall := n0 } (fun _ _ g =>
    { g with sel := none, clause := none, lastPc := none, rotPoint := true
             trap := g.trap.map fun t => { t with inHandler := false }
             hmask := 0 }) s

/-- `setprio` (R106): the selected entry's priority. -/
def execSetprio (n0 : Stall) (n : Fin 32) (s : State) : Host.Outcome State Fault Refusal :=
  runPure { stall := n0 } (fun _ _ g => { g with sel := g.sel.map fun e => { e with prio := n } }) s

/-- `trap n` (R354): trap 0x80 + n with info 0 at the word. -/
def execTrap (n0 : Stall) (n : Fin 128) (s : State) : Host.Outcome State Fault Refusal :=
  runWord { stall := n0 } (fun _ _ _ => .error ⟨BitVec.ofNat 8 (0x80 + n.val), 0⟩) s

/-- `brk n` (R354): trap 0x0F with info n at the word. -/
def execBrk (n0 : Stall) (n : BitVec 8) (s : State) : Host.Outcome State Fault Refusal :=
  runWord { stall := n0 } (fun _ _ _ => .error ⟨0x0F, n.zeroExtend 32⟩) s

/-- The return from a trap handler (R353, R354): trap 0x01 outside a handler; escalation where the recorded trap has no
resume point; else in-handler is cleared and the entry goes to the resume point with its priority. -/
def returnFromTrap (s : State) (g : Gang) : Except Trap (State × Gang) :=
  match g.trap, g.sel with
  | some t, some e =>
    if !t.inHandler then .error ⟨0x01, 0⟩
    else match resumePoint t with
      | none =>
        let s' := s.escalate g e t.hdr t.pc ⟨t.cause, t.info⟩
        .ok (s', (s'.gang? g.key).getD g)
      | some x =>
        .ok (s, { g with trap := some { t with inHandler := false }, hmask := 0, sel := none, clause := none
                         front := placeLanes e.mask x e.prio g.front, lastPc := some x, rotPoint := true })
  | _, _ => .error ⟨0x01, 0⟩

/-- `rett` (R354). -/
def execRett (n0 : Stall) (s : State) : Host.Outcome State Fault Refusal :=
  runWord { stall := n0 } (fun s' g _ => returnFromTrap s' g) s

/-! ## Yields, live, fork (R125 to R127) -/

/-- The gang with the selected entry at its fall-through header, as a deposit that ends a clause leaves it (R125). -/
def Gang.atFall (g : Gang) : Gang :=
  match g.sel with
  | some e => { g with front := placeLanes e.mask g.fall e.prio g.front, sel := none, clause := none
                       lastPc := some g.fall, rotPoint := true }
  | none => g

/-- A yield (R125): always a deposit. `any` chooses wake kind 2, `floor` makes sX a floor. -/
def runYield (n0 : Stall) (x : Option SReg) (m : BitVec 16) (any floor : Bool) (s : State) :
    Host.Outcome State Fault Refusal :=
  runWord { stall := n0, reads := match x with | some r => [.s r] | none => [] } (fun s' g _ =>
    let t : Option Tick := x.map fun r => (s.sread g r).truncate 56
    let g := g.atFall
    if m = 0 then .ok (s'.deposit g 1 { wake := 0, wtick := t.getD 0 })
    else .ok (s'.deposit g 1
      { wake := if any then 2 else 1, tmask := m, bound := t.isSome, floor := floor && t.isSome, wtick := t.getD 0 })) s

/-- `yield.all` (R125). -/
def execYieldAll (n0 : Stall) (x : Option SReg) (m : BitVec 16) (s : State) : Host.Outcome State Fault Refusal :=
  runYield n0 x m false false s
/-- `yield.any` (R125). -/
def execYieldAny (n0 : Stall) (x : Option SReg) (m : BitVec 16) (s : State) : Host.Outcome State Fault Refusal :=
  runYield n0 x m true false s
/-- `yield.at` (R125). -/
def execYieldAt (n0 : Stall) (x : Option SReg) (m : BitVec 16) (s : State) : Host.Outcome State Fault Refusal :=
  runYield n0 x m false true s

/-- `live n` (R126): the live count; 16n above the allocation raises trap 0x01. -/
def execLive (n0 : Stall) (n : Fin 13) (s : State) : Host.Outcome State Fault Refusal :=
  runPure { stall := n0, illegal := fun s g => s.alloc g < 16 * n.val } (fun _ _ g => { g with live := n.val }) s

/-- The lowest gang index that no gang and no registration of a crew holds (R127, R202). -/
def State.freeIndex (s : State) (k : CrewKey) : Option (Fin 32) :=
  (List.finRange 32).find? fun i =>
    !(s.gangs.any fun g => g.crewKey = k && g.key.gang = i) &&
    !(match s.crew? k with | some c => c.regs.any fun r => r.gang = i | none => false)

/-- The child of a `fork` (R127): the parent's registers and live count, its time registers as values, detached. It is a gang in
every respect: it has still to take trap 0x0B of an exhausted slice (R346). -/
def Gang.child (g : Gang) (i : Fin 32) (target : Pc) (prio : Fin 32) (go : Mask) : Gang :=
  { g with key := { g.key with gang := i }, place := .store, front := [⟨target, prio, go⟩], sel := none, clause := none
           t := g.t.map fun t => { t with soft := true, breaks := 0 }
           lastPc := none, rotPoint := true, fair := 0, rotPend := false, round := none, trap := none, hmask := 0
           strict := none, budgeted := false, timedOut := false, wait := false, stall := 0, probing := none, opnd := 0, block := [], marks := [], probeAt := (0, 0), pend := []
           fences := [], obsT := Vector.replicate 16 0, obs := g.obs
           hd := { Rec.reset with lastq := match g.slot? with | some (q, _) => BitVec.ofNat 8 q.val | none => 0 } }

/-- `fork` (R127). A fork that would split the handler entry raises the trap of R352 (assumption row 122). -/
def execFork (n0 : Stall) (p : PReg) (off : BitVec 16) (prio : Fin 32) (s : State) : Host.Outcome State Fault Refusal :=
  runWord { stall := n0, reads := [.p p] } (fun s' g a =>
    let check := match s.slice? g.key.launch with | some l => l.check | none => false
    let busy := s.reqs.any fun r => r.of g.key && r.dsts.any fun x =>
      match x with | .v n => n.val < 16 * g.live | .s _ => true | .p _ => false
    if check && busy then .error ⟨0x03, 0⟩
    else
      let go := g.active &&& s.pread g p
      match (if go = 0 || go = g.active then none else s.freeIndex g.crewKey) with
      | none => (g.transfer go (branchTarget a off) prio).map fun g' => (s', g')
      | some i =>
        if g.inHandler then .error ⟨0x01, 0⟩
        else
          let c := g.child i (branchTarget a off) prio go
          let (s1, c) := s'.deposit c 1 { wake := 8 }
          let s1 := s1.addGang c
          let s1 := (List.finRange 16).foldl (fun s n => s.armTimer c.key n c.t[n]) s1
          .ok (s1, { g with
            front := placeLanes (g.active &&& ~~~go) g.fall ((g.sel.map (·.prio)).getD 0) g.front
            sel := none, clause := none, lastPc := some g.fall, rotPoint := g.front.any fun x => x.pc = g.fall })) s

/-! ## Time branches (R80) -/

/-- A time branch: every lane of the entry, or none. -/
def runTimeBranch (n0 : Stall) (t : TReg) (off : BitVec 16) (prio : Fin 32) (taken : State → TimeReg → Bool)
    (settles : Bool) (s : State) : Host.Outcome State Fault Refusal :=
  runWord { stall := n0, ext := true } (fun s' g a =>
    let k := taken s g.t[t]
    (g.transfer (if k then g.active else 0) (branchTarget a off) prio).map fun g' =>
      (s', if k && settles then { g' with obs := max g'.obs g'.obsT[t] } else g')) s

/-- `bts` (R80): taken when tT is SETTLED. -/
def execBts (n0 : Stall) (t : TReg) (off : BitVec 16) (prio : Fin 32) (s : State) : Host.Outcome State Fault Refusal :=
  runTimeBranch n0 t off prio (fun _ r => r.isSettled) true s
/-- `btb` (R80): taken when tT is BROKEN. -/
def execBtb (n0 : Stall) (t : TReg) (off : BitVec 16) (prio : Fin 32) (s : State) : Host.Outcome State Fault Refusal :=
  runTimeBranch n0 t off prio (fun _ r => r.state = 2) false s
/-- `bth` (R80): taken when tT is HELD. -/
def execBth (n0 : Stall) (t : TReg) (off : BitVec 16) (prio : Fin 32) (s : State) : Host.Outcome State Fault Refusal :=
  runTimeBranch n0 t off prio (fun _ r => r.isHeld) false s
/-- `btl` (R80): taken when tT is HELD, or PROMISED or BROKEN with a tick later than DELTA ticks from now. -/
def execBtl (n0 : Stall) (t : TReg) (delta : BitVec 28) (off : BitVec 16) (prio : Fin 32) (s : State) :
    Host.Outcome State Fault Refusal :=
  runTimeBranch n0 t off prio
    (fun s r => r.isHeld || (r.isOpen && later r.tick (tickOf (s.now + delta.toNat)))) false s

end Sys2Proof.Machine
end

