-- ==== Sys2Proof/Machine/Place.lean ====
section
/-!
DEFINITION. Crews and starting gangs: roles (R89), the starting state (R90), fresh-spawn records (R115), scratchpad runs
(R177 to R179), the resource check (R84), and the crew's objects in scratchpad (R196, R204, R205).
-/
namespace Sys2Proof.Machine

/-! ## Starting state (R89, R90) -/

/-- The role of a gang index (R89). -/
def Slice.role (l : Slice) (i : Nat) : Role :=
  if i < l.rcopy then .copy
  else if i < l.rcopy + l.rmtx then .matrix
  else if i < l.rcopy + l.rmtx + l.rvec then .vector
  else .general

/-- The scalar registers of a starting gang (R90); `arg` is the phase that a `bar.then` spawn finds in s8 (R197). -/
def Slice.startS (l : Slice) (index : Word) (i : Nat) (arg : Option Word) : Vector DWord 64 :=
  Vector.ofFn fun n => match n.val with
    | 0 => index.zeroExtend 64
    | 1 => BitVec.ofNat 64 i
    | 2 => BitVec.ofNat 64 l.crewSize
    | 3 => BitVec.ofNat 64 l.crews
    | 4 => l.argsHandle
    | 5 => (l.args[0]).zeroExtend 64
    | 6 => (l.args[1]).zeroExtend 64
    | 7 => (l.args[2]).zeroExtend 64
    | 8 => (arg.getD 0).zeroExtend 64
    | _ => 0

/-- A gang in the starting state (R90), not yet placed anywhere. -/
def Slice.start (l : Slice) (c : Crew) (i : Fin 32) (pc : Pc) (arg : Option Word) : Gang :=
  { key := ⟨l.id, c.key.crew, i⟩, ctx := l.ctx, core := c.core, place := .store, role := l.role i.val, live := l.regs
    s := l.startS c.index i.val arg
    v := Vector.ofFn fun n =>
      if n.val = 0 then Vector.ofFn fun k => BitVec.ofNat 32 (32 * i.val + k.val) else Vector.replicate 32 0
    p := Vector.ofFn fun n => if n.val = 0 then 0xFFFFFFFF else 0
    t := Vector.replicate 16 TimeReg.reset, front := [⟨pc, 31, 0xFFFFFFFF⟩], sel := none, clause := none, lastPc := none
    rotPoint := true, fair := 0, rotPend := false, round := none, trap := none, hmask := 0, strict := none
    budgeted := false, timedOut := false, readyAt := 0, wait := false, stall := 0, probing := none, opnd := 0, block := [], marks := [], probeAt := (0, 0), pend := [], fences := []
    obsT := Vector.replicate 16 0, obs := 0, hd := Rec.reset }

/-- Writes a starting gang as a fresh-spawn record (R115): kind 2, wake kind 8. -/
def State.spawn (s : State) (g : Gang) (object : BitVec 16) (arg : Word) : State :=
  let g := { g with hd := { Rec.reset with kind := 2, wake := 8, object := object, arg := arg } }
  let (s, g) := s.writeRecord g
  (s.addGang g).armWake g

/-! ## Scratchpad runs (R177, R178) -/

/-- The size of a core's scratchpad space in bytes (R177). -/
def State.space (s : State) (c : CoreId) : Nat := 2 ^ 20 + (s.cc c).conv * 2 ^ 16

/-- The bytes of a partition's run: whole 4 KiB units (R178). -/
def runBytes (scratch : Nat) : Nat := ceilDiv scratch 4096 * 4096

/-- The runs that are not free on a core: those of its crews, those that saved crews still hold there (R357), and those being
zeroed (R178). -/
def State.takenRuns (s : State) (c : CoreId) : List (Nat × Nat) :=
  ((s.crews.filter fun x => x.core = c && (x.resident || x.held) && x.partLen != 0).map fun x =>
    (x.partBase, runBytes x.partLen)) ++ (s.core c).zeroing

/-- The lowest free run of a core for a partition (R178). -/
def State.freeRun (s : State) (c : CoreId) (scratch : Nat) : Option Nat :=
  let n := runBytes scratch
  if n = 0 then some 0
  else
    let taken := s.takenRuns c
    let fits := fun (a : Nat) => a + n ≤ s.space c && taken.all fun r => a + n ≤ r.1 || r.1 + r.2 ≤ a
    firstBy (fun (a b : Nat) => a < b) ((0 :: taken.map fun r => r.1 + r.2).filter fits)

/-- The resource check of R84, on a die that is ready (R400); `room` is that the scratchpad has space. A context that is being
switched out is active until the banks exchange (R357). -/
def State.passesBut (s : State) (l : Slice) (c : CoreId) (room : Bool) : Bool :=
  let co := s.core c
  co.active = some l.ctx && s.sys.ready.getLsbD (3 + (dieOf c).val) &&
  (s.chooseSlot c (16 * l.regs)).isSome &&
  room &&
  (s.crewsOn c).foldl (fun n x => n + x.bars) 0 + l.bars ≤ 32 &&
  ceilDiv (2 * (1216 + 128 * l.regs * 16)) 64 ≤ s.unreserved c none

/-- The resource check of R84 for a new crew, which passes only while no eligible record of the core waits (R88). -/
def State.passes (s : State) (l : Slice) (c : CoreId) : Bool :=
  s.passesBut l c (s.freeRun c l.scratch).isSome &&
  !(s.gangs.any fun g => g.core = c && g.ctx = l.ctx && g.stored && g.hd.key.isSome)

/-! ## Objects in scratchpad -/

/-- Doubleword `i` of the object at a partition offset. -/
def State.objDw (s : State) (c : Crew) (o i : Nat) : DWord := memDWord (s.core c.core).spad (c.partBase + o + 8 * i)

/-- Writes doublewords of an object. -/
def State.putObj (s : State) (c : Crew) (o : Nat) (ds : List DWord) : State :=
  let co := s.core c.core
  s.setCore c.core { co with spad := memDWords co.spad (c.partBase + o) ds }

/-- Whether `n` bytes at an offset lie in a crew's partition (R179). -/
def Crew.holds (c : Crew) (o n : Nat) : Bool := o + n ≤ c.partLen

end Sys2Proof.Machine
end

