-- ==== Sys2Proof/Machine/Blocks.lean ====
section
/-!
DEFINITION. Block-scaled formats (R136 to R143): element and scale values, the choice of a scale, elements under a scale,
term counts; format slots (R237).
-/
namespace Sys2Proof.Machine

/-! ## Type codes (R141) -/

def isQ (c : Nat) : Bool := 0x10 ≤ c && c ≤ 0x17
def isMx (c : Nat) : Bool := 0x20 ≤ c && c ≤ 0x25
/-- The types whose blocks carry a scale. -/
def isScaled (c : Nat) : Bool := isQ c || isMx c
/-- The types that lane conversions take (R263). -/
def isBlockType (c : Nat) : Bool := isScaled c && c != 0x17
/-- The types of each operand of the lapidary (R235). -/
def isTermType (c : Nat) : Bool := (2 ≤ c && c ≤ 5) || c = 8 || isBlockType c
def isPlaneType (c : Nat) : Bool := c = 8 || c = 9 || isQ c || c = 0x20
def isDrainType (c : Nat) : Bool := (1 ≤ c && c ≤ 5) || isBlockType c

/-- The element width of a type. -/
def typeBits (c : Nat) : Nat :=
  match c with
  | 0x01 | 0x0A => 32
  | 0x02 | 0x03 | 0x09 | 0x17 => 16
  | 0x04 | 0x05 | 0x08 | 0x20 | 0x21 | 0x22 => 8
  | 0x23 | 0x24 => 6
  | 0x25 => 4
  | n => n - 0x0E

/-- The floating format of a type's elements. -/
def typeFmt (c : Nat) : Option Fmt :=
  match c with
  | 0x01 => some .f32 | 0x02 => some .bf16 | 0x03 => some .f16
  | 0x04 | 0x21 => some .f8e4
  | 0x05 | 0x22 => some .f8e5
  | 0x23 => some .mx6e3 | 0x24 => some .mx6e2 | 0x25 => some .mx4
  | _ => none

/-- Bytes of a block's scale (R237): a word for q types, a byte for MX types. -/
def scaleBytes (c : Nat) : Nat := if isQ c then 4 else if isMx c then 1 else 0

/-! ## Bit strings (R136) -/

/-- Bit `n` of a little-endian bit string. -/
def bitOf (bs : List Byte) (n : Nat) : Bool := (bs.getD (n / 8) 0).getLsbD (n % 8)
/-- A byte from its bits. -/
def byteOf (f : Nat → Bool) : Byte := BitVec.ofNat 8 ((List.range 8).foldl (fun n i => if f i then n + 2 ^ i else n) 0)
/-- `w` bits of a bit string from bit `n`. -/
def bitsAt (bs : List Byte) (n w : Nat) : Nat :=
  (List.range w).foldl (fun x i => if bitOf bs (n + i) then x + 2 ^ i else x) 0
/-- Elements of width `w` packed densely. -/
def packElems (w : Nat) (xs : List Nat) : List Byte :=
  (List.range (ceilDiv (w * xs.length) 8)).map fun b => byteOf fun t =>
    (xs.getD ((8 * b + t) / w) 0) / 2 ^ ((8 * b + t) % w) % 2 = 1

/-! ## Element and scale values (R137, R139, R236) -/

/-- The value of an element without its block's scale; a q element is its integer. -/
def elemValue (c x : Nat) : FVal :=
  match typeFmt c with
  | some f => f.decode (x % 2 ^ f.width)
  | none => let v := lowInt (typeBits c) x; .fin (v < 0) v.natAbs (if c = 0x20 then -6 else 0)

/-- The step of a q scale with E from 1 to 254: significand and exponent (R137). -/
def qStep (c s : Nat) : Nat × Int :=
  (65536 + s % 65536, ((s / 65536 % 256 : Nat) : Int) - 127 - (typeBits c - 1 : Nat) - 16)

/-- The value of a block's scale; 1 for a type without scales. -/
def scaleValue (c s : Nat) : FVal :=
  if isQ c then
    (match s / 65536 % 256 with
     | 0 => .fin false 0 0
     | 255 => .nan
     | _ => let (m, e) := qStep c s; .fin false m e)
  else if isMx c then (if s % 256 = 255 then .nan else .fin false 1 (((s % 256 : Nat) : Int) - 127))
  else .fin false 1 0

/-- An element's f32 value under a scale (R265): a zero of a q type is +0. -/
def dequant (c s x : Nat) : Nat :=
  let v := Fmt.f32.encode .rn false ((elemValue c x).mul (scaleValue c s))
  if isQ c && v = 0x80000000 then 0 else v

def FVal.abs : FVal → FVal
  | .nan => .nan
  | .inf _ => .inf false
  | .fin _ m e => .fin false m e

/-- The largest magnitude of finite values. -/
def maxMag (vs : List FVal) : FVal := vs.foldl (fun a v => if a.lt v.abs then v.abs else a) (.fin false 0 0)

/-- Clamps an integer into a byte's range. -/
def clampByte (x : Int) : Nat := (max 0 (min x 254)).toNat

/-- emax of an MX type (R139). -/
def mxEmax (c : Nat) : Int :=
  match c with
  | 0x21 => 8 | 0x22 => 15 | 0x23 => 4 | 0x24 => 2 | 0x25 => 2 | _ => 0

/-- The scale that the device chooses for a block (R138, R140). -/
def chooseScale (c : Nat) (vs : List FVal) : Nat :=
  if vs.any FVal.special then (if isQ c then 255 * 65536 else 255)
  else match maxMag vs with
    | .fin _ m e =>
      if m = 0 then 0
      else if isQ c then
        let w := typeBits c
        let n := m * 2 ^ (w - 1)
        let d := 2 ^ (w - 1) - 1
        let l := floorLog2 n d e
        let sh := e - l + 16
        let f := (if 0 ≤ sh then ceilDiv (n * 2 ^ sh.toNat) d else ceilDiv n (d * 2 ^ (-sh).toNat)) - 65536
        let (ex, f) : Int × Nat := if f = 65536 then (l + 128, 0) else (l + 127, f)
        let (ex, f) : Int × Nat := if 254 < ex then (254, 65535) else if ex < 1 then (1, 0) else (ex, f)
        ex.toNat * 65536 + f
      else clampByte (floorLog2 m 1 e - mxEmax c + 127)
    | _ => 0

/-- An integer as the low `w` bits. -/
def wrapBits (w : Nat) (x : Int) : Nat := (x % 2 ^ w).toNat

/-- The element of a value under a scale (R138, R140, R264), as the type's bits. -/
def elemOf (c s : Nat) (x : FVal) : Nat :=
  let w := typeBits c
  if isQ c then
    let e := s / 65536 % 256
    if e = 0 || e = 255 then 0
    else match x with
      | .nan => 0
      | .inf neg => wrapBits w (if neg then -(2 ^ (w - 1)) else 2 ^ (w - 1) - 1)
      | .fin neg m ex =>
        let (n, se) := qStep c s
        let r : Int := roundAt .rn neg m n (ex - se) 0
        wrapBits w (clampInt w (if neg then -r else r))
  else if s % 256 = 255 then 0
  else
    let k : Int := 127 - ((s % 256 : Nat) : Int)
    match typeFmt c with
    | some f => (match x with
      | .fin neg m e => f.encode .rn true (.fin neg m (e + k))
      | v => f.encode .rn true v)
    | none => (match x with
      | .nan => 0
      | .inf neg => wrapBits w (if neg then -127 else 127)
      | .fin neg m e => wrapBits w (max (-127) (min (roundInt .rn neg m (e + k + 6)) 127)))

/-- The elements of a block under the scale that the device chose for it: all zero in a block of zeros (R140). -/
def blockElems (c s : Nat) (vs : List FVal) : List Nat :=
  if vs.all FVal.isZero then vs.map fun _ => 0 else vs.map (elemOf c s)

/-- An element as a lane holds it (R263): integers sign-extended, codes zero-extended. -/
def laneElem (c x : Nat) : Nat := match typeFmt c with | some _ => x | none => laneInt (lowInt (typeBits c) x)
/-- A scale as a lane holds it (R263). -/
def laneScale (c s : Nat) : Nat := if isQ c then s % 2 ^ 24 else s % 256

/-! ## Term counts (R142, R143) -/

/-- The non-zero digits of a natural number's non-adjacent form; `fuel` bounds its bits. -/
def nafCount : Nat → Nat → Nat
  | 0, _ => 0
  | fuel + 1, n =>
    if n = 0 then 0
    else if n % 2 = 0 then nafCount fuel (n / 2)
    else if n % 4 = 1 then 1 + nafCount fuel ((n - 1) / 2)
    else 1 + nafCount fuel ((n + 1) / 2)

/-- terms(m) (R142): it does not depend on the sign. -/
def terms (m : Int) : Nat := nafCount 64 m.natAbs

/-- The largest term count of the types that have NaN or infinity (R143). -/
def maxTerms (c : Nat) : Nat :=
  match c with
  | 0x02 => 5 | 0x03 => 6 | 0x04 | 0x21 => 3 | 0x05 | 0x22 => 2 | _ => 0

/-- The term count of an element (R143). -/
def termCount (c x : Nat) : Nat :=
  match typeFmt c with
  | some f => (match f.decode (x % 2 ^ f.width) with
    | .fin _ m _ => terms m
    | _ => maxTerms c)
  | none => terms (lowInt (typeBits c) x)

/-! ## Format slots (R237) -/

/-- A format slot's fields. -/
structure FmtSlot where
  typ     : Nat
  spn     : Nat
  scales  : Nat
  sstride : Nat
  idx     : Nat
  smooth  : Nat
deriving DecidableEq, Repr

def FmtSlot.read (d : Vector DWord 2) : FmtSlot :=
  ⟨bits d[0] 7 0, bits d[0] 11 8, bits d[0] 63 32, bits d[0] 31 16, bits d[1] 63 32, bits d[1] 31 0⟩

/-- The check that every use of a slot makes (R237), and the types that the use accepts. -/
def fmtSlotOk (d : Vector DWord 2) (accepts : Nat → Bool) : Bool :=
  let f := FmtSlot.read d
  bits d[0] 15 12 = 0 && (f.spn = 0 || f.spn = 1 || f.spn = 2 || f.spn = 4) && accepts f.typ

/-- Format slot `f` of a gang's launch. -/
def State.fmtSlot (s : State) (g : Gang) (f : Fin 8) : Vector DWord 2 :=
  match s.slice? g.key.launch with | some l => l.fslot f | none => Vector.replicate 2 0

end Sys2Proof.Machine
end

