-- ==== Sys2Proof/Machine/Mem.lean ====
section
/-!
DEFINITION. The memory-port words of class MEM: `ld`, `st`, the atomics and reductions, `pf`, `bchk`, `bmeta` (R276 to
R293), `watch` (R213) and `fence` (R327).
-/
namespace Sys2Proof.Machine

/-! ## Probes (R54, R279) -/

/-- What a probe comes to: it passes; it passes and the gang is gone; it waits until a tick, counted under an event code
(R377), to go on or to start anew, or for its pass of the lane port in a clock, or goes on at the end of a clock; it traps, with nothing done or with a state of its
own. -/
inductive Pass where
  | done (s : State) (g : Gang)
  | left (s : State)
  | wait (s : State) (g : Gang) (tick stall : Nat)
  | retry (s : State) (g : Gang) (tick stall : Nat)
  | pass (s : State) (g : Gang) (clk stall : Nat)
  | later (s : State) (g : Gang) (clk stall : Nat)
  | trap (t : Trap)
  | fail (s : State) (t : Trap)

/-- A word's probe: whether it is the first attempt, the free-value number, then as a body. -/
abbrev Probe := Bool → Nat → State → Gang → Pc → Pass

/-- A gang whose probe passes in the clock numbered `p`: its next word issues after that clock (R54, R96, R405's program). -/
def Gang.passedIn (g : Gang) (p : Nat) : Gang := { g with readyAt := max g.readyAt (p + 1) }

/-- The rank of a waiting probe among the entries of its tick: ring words in their passes come first, and a `bar.wait` after the test of
its slot (R216). -/
def waitRank (i : Instr) : Nat :=
  match i with | .ringInit .. | .ringFill .. | .ringAwait .. | .ringRelease .. | .ringState .. => 1 | .barWait .. => 5 | _ => 3

/-- The rank of a word's pass of the lane port: a record is read before the writes of its clock (R184, R257). -/
def passRank (i : Instr) : Nat := match i with | .mma .. | .mdrain .. | .lrec .. => 0 | _ => waitRank i

/-- Puts the next attempt of a gang's probe on the agenda; of those in one tick, the gang that comes first by R57 goes first. -/
def State.scheduleProbe (s : State) (g : Gang) (d : Due) : State :=
  let before := fun (x y : Due) => x.tick < y.tick || (x.tick = y.tick && (x.rank < y.rank ||
    (x.rank = y.rank && y.task = .ev .probePass && (match s.gang? y.arg.key with | some z => g.pos < z.pos | none => false))))
  s.setAgenda (insertBy before d s.agenda)

/-- The gang waits for a probe that it attempts again at the end of the clock before that of `tick`. -/
def State.waitProbe (s : State) (g : Gang) (i : Instr) (pc : Pc) (tick stall : Nat) (anew : Bool) : State × Gang :=
  (s.scheduleProbe g ⟨max s.now (tick - 1), waitRank i, .ev .probePass, { EvArg.none with key := g.key }⟩,
   { g with wait := true, stall := stall, probing := some (i, pc, anew) })

/-- The gang waits for clock `n`: for its pass of the lane port, or to go on when the clock ends. -/
def State.waitPass (s : State) (g : Gang) (i : Instr) (pc : Pc) (n rank stall : Nat) : State × Gang :=
  (s.dueIn g.core n rank (.ev .probePass) { EvArg.none with key := g.key },
   { g with wait := true, stall := stall, probing := some (i, pc, false) })

/-- A word with a probe: its first attempt is made in the word's own step, for the clock after issue (R279). -/
def runProbe (w : WordSpec) (i : Instr) (p : Probe) (s : State) : Host.Outcome State Fault Refusal :=
  runWord w (fun s' g pc => match p true s.freeNo s' g pc with
    | .done s2 g2 => .ok (s2, g2)
    | .left s2 => .ok (s2, g)
    | .wait s2 g2 tick stall => .ok (s2.waitProbe g2 i pc tick stall false)
    | .retry s2 g2 tick stall => .ok (s2.waitProbe g2 i pc tick stall true)
    | .pass s2 g2 n stall => .ok (s2.waitPass g2 i pc n (passRank i) stall)
    | .later s2 g2 n stall => .ok (s2.waitPass g2 i pc n 3 stall)
    | .trap t => .error t
    | .fail _ t => .error t) s

/-- A later attempt of a waiting probe: PROBE_PASS of a gang (R54, R96). -/
def passAgain (i : Instr) (pc : Pc) (anew : Bool) (p : Probe) (g : Gang) (s : State) : State :=
  let f := s.freeNo
  let marks := g.marks
  let g := { g with wait := false, stall := 0, probing := none, marks := [] }
  match p anew f (s.useFree 1) g pc with
  | .done s2 g2 => (s2.overlap g.key marks g.active s.own.nextReq).endWord g2
  | .left s2 => s2
  | .wait s2 g2 tick stall => let (s3, g3) := s2.waitProbe g2 i pc tick stall false; s3.putGang { g3 with marks := marks }
  | .retry s2 g2 tick stall => let (s3, g3) := s2.waitProbe g2 i pc tick stall true; s3.putGang { g3 with marks := marks }
  | .pass s2 g2 n stall => let (s3, g3) := s2.waitPass g2 i pc n (passRank i) stall; s3.putGang { g3 with marks := marks }
  | .later s2 g2 n stall => let (s3, g3) := s2.waitPass g2 i pc n 3 stall; s3.putGang { g3 with marks := marks }
  | .trap t => s.trapAt g pc t
  | .fail s2 t => s2.trapAt { (s2.gang? g.key).getD g with stall := 0, probing := none, marks := [] } pc t

/-! ## Operands (R283) -/

/-- The lanes that make an access: the active ones, or the lowest for a scalar form. -/
def Gang.accessLanes (g : Gang) (d : DataReg) : List Nat :=
  match d with | .v _ => lanesOf g.active | .s _ => (lanesOf g.active).take 1

/-- The exact offset of a lane (R283). -/
def Gang.offset (g : Gang) (f c : Nat) (m : MemOp) (l : Nat) : Int :=
  (match m.off with | .v n => ((g.readV f c n l).toNat : Int) | .s n => ((g.readS f c n).toNat : Int)) + m.imm.toInt

/-- The accesses of a word. -/
def Gang.accesses (g : Gang) (f c : Nat) (m : MemOp) (lanes : List Nat) (size : Nat) : List Access :=
  lanes.map fun l => ⟨l, g.offset f c m l, size⟩

/-- The handle of a word: sH[19:0] (R271). -/
def Gang.handle (g : Gang) (f c : Nat) (h : SReg) : Nat := bits (g.readS f c h) 19 0

/-- The clock after this one, as a tick and as a number: that of a probe which passes at once (R279). -/
def State.nextClock (s : State) (k : CoreId) : Nat × Nat := (s.edgeTick k (s.clock k + 1), s.clock k + 1)

/-! ## Samples (R385) -/

/-- Counts an instruction for sampling; every PERIOD-th is sampled. -/
def State.sampleNext (s : State) (k : CoreId) (sectors extra lanes : Nat) : State × Option Sample :=
  let cc := s.cc k
  let t := cc.trc
  let n := t.seen + 1
  let s := s.setCc k { cc with trc := { t with seen := n } }
  if t.k = 0 || t.period = 0 || n % t.period != 0 then (s, none)
  else (s, some ⟨s.own.nextReq, sectors, extra, lanes, 0, []⟩)

/-- The first promise put into the requests of a sample once they are booked. -/
def State.sampleFirst (s : State) (x : Option Sample) : State :=
  match x with
  | none => s
  | some x =>
    let mine := fun (r : Req) => match r.sample with | some y => y.no = x.no | none => false
    let first := (s.reqs.filter mine).foldl (fun n r => max n r.prom) 0
    s.setReqs (s.reqs.map fun r => if mine r then { r with sample := r.sample.map fun y => { y with first := first } } else r)

/-! ## Loads, stores, atomics (R284, R285, R287) -/

/-- What a device access is: the right it needs, its effect, the data groups of its operands (R287). -/
structure DevAccess where
  need   : Need
  effect : Effect
  data   : Option Nat
  data2  : Option Nat := none
  arm    : Bool := false

/-- The key by which accesses share a request: their line (R282, R284, R285). -/
def groupKey (x : Access) : Nat := x.off.toNat / 128 * 128

/-- The promise-table entries that the accesses of a word take: one for each line, or on the host and peer tiers one for each aligned
access (R282). -/
def entriesFor (tier : Nat) (xs : List Access) : Nat := if tier < 2 then (xs.map groupKey).eraseDups.length else xs.length

/-- The monitor that a `watch` uses: the gang's own, or the lowest free one (R212). -/
def State.monitorFor (s : State) (g : Gang) : Option (Fin 64) :=
  let ms := (s.cc g.core).mons
  match ms.find? fun m => m.gang = g.key with
  | some m => some m.num
  | none => (List.finRange 64).find? fun n => !ms.any fun m => m.num = n

/-- The monitor given to a gang, not yet armed (R212, R213). -/
def State.giveMonitor (s : State) (g : Gang) (n : Fin 64) (size : Nat) : State :=
  let cc := s.cc g.core
  s.setCc g.core { cc with mons := ⟨n, g.key, 0, size, false, false⟩ :: cc.mons.filter fun m => m.gang != g.key }

/-- The probe of a device access (R54, R276, R279, R282): the checks in their order, the translation, room in the promise
table and the store queue, then one request per line, booked or held, and the time register. -/
def probeDevice (m : MemOp) (a : DevAccess) : Probe := fun first f s g pc =>
  match s.ctx? g.ctx with
  | none => .trap ⟨0x06, 0⟩
  | some c =>
    let k := g.core
    let clk := s.clock k
    let h := g.handle f clk m.h
    let lanes := if a.arm then (lanesOf g.active).take 1 else g.accessLanes m.data
    let xs := g.accesses f clk m lanes m.w.size
    let (q, qclk) := s.nextClock k
    if xs.isEmpty then .done s ((if a.arm then g else s.joinT g m.t false q).passedIn qclk)
    else match s.portCheck k c h a.need xs with
    | .error t => .trap t
    | .ok b =>
      let free := if a.arm then s.monitorFor g else some 0
      if a.arm && 2 ≤ Buf.tier b then .trap ⟨0x05, BitVec.ofNat 32 (lanes.headD 0)⟩
      else match free with
      | none => .trap ⟨0x0C, 2⟩
      | some mon =>
      let write := a.need != .read
      let vas := xs.map fun x => Buf.base b + x.off.toNat
      let ms := s.misses k c h vas write
      if first && !ms.blank then
        let (s, t) := s.probeTick k c h ms
        .wait s g t 0x11
      else
        let keys := (xs.map groupKey).eraseDups
        let queues := Buf.tier b < 2 && (match a.effect with | .store | .atomic _ none _ => true | _ => false)
        if 1024 < s.promisesUsed k + entriesFor (Buf.tier b) xs then .wait s g (q + 1) 0x12
        else if queues && 64 < s.queueUsed k + keys.length then .wait s g (q + 1) 0x13
        else
          let found := fun (va : Nat) => s.translate k c va
          let s := s.settleProbe k c h vas write
          let s := if a.arm then s.giveMonitor g mon m.w.size else s
          let touched := (xs.map fun x => x.off.toNat / 32).eraseDups.length
          let (s, smp) := if a.arm then (s, none) else s.sampleNext k touched (keys.length - 1) lanes.length
          let acq := (m.sem = .acq || m.sem = .acqRel) && wide m.sc
          let urgent := s.urgentFor g && (match a.effect with | .load .. => true | _ => false)
          let delay := Config.storeReadDelay f % 9
          let srcs := match a.effect with | .store => [m.data] | _ => []
          let s := keys.foldl (fun (s : State) (off : Nat) =>
            let ys : List Access := xs.filter fun x => groupKey x = off
            let home := homeOf b off
            let va := Buf.base b + off
            let r := { Req.base g pc m.t q qclk with
              tracked := !a.arm, handle := h, offset := off, home := home, scope := m.sc, sem := m.sem, effect := a.effect
              srcs := srcs, readAt := if srcs.isEmpty then 0 else qclk + delay
              mask := maskOf fun l => ys.any fun (y : Access) => y.lane = l
              site := Buf.asite b, urgent := urgent, ctype := BitVec.ofNat 8 (Buf.ctype b), flush := acq && a.need != Need.write
              start := if wide m.sc then g.obs else 0, sample := smp
              pieces := ys.map fun (y : Access) => Piece.mk y.lane y.off.toNat y.size
                (match a.data with | some n => g.dataBytes f clk m.data m.w n y.lane | none => [])
                (match a.data2 with | some n => g.dataBytes f clk m.data m.w n y.lane | none => []) }
            match found va with
            | none =>
              let (s, t) : State × Word := if s.bufReady b then s.pageTicket c.id k (va / 65536) else (s, 0)
              let r := { r with held := some (.page, t) }
              s.addReq { r with after := s.orders g r (if m.after then some m.afterT else none) }
            | some e =>
              let r := { r with line := homeKey home (e.map va), held := if s.bufReady b then none else some (.page, 0) }
              let r := { r with after := s.orders g r (if m.after then some m.afterT else none) }
              let s := if write && r.cached then s.l1Drop k r.line else s
              s.addReq r) s
          let s := (s.sampleFirst smp).settleFlushes k
          .done s ((if a.arm then g else s.joinT g m.t true q).passedIn qclk)

/-- The registers of a device access: its offset, handle and data. -/
def memSpec (w : Stall) (m : MemOp) (reads writes : List RegRef) (short : Bool) : WordSpec :=
  { stall := w, ext := true, kind := .mem, reads := .s m.h :: offRefs m.off ++ reads, writes := writes
    illegal := fun _ _ => short }

/-- Whether `n` operand groups of a width from D upward exist (R33, R287). -/
def groupsFit (d : DataReg) (w : Width) (n : Nat) : Bool :=
  match d with | .v k => k.val + n * w.vregs ≤ 192 | .s k => k.val + n * w.sregs ≤ 64

/-- An atomic (R287): `n` data groups beside the destination. -/
def runAtom (w : Stall) (i : Instr) (m : MemOp) (op : AtomOp) (s : State) : Host.Outcome State Fault Refusal :=
  let n := if op = .cas then 2 else 1
  runProbe (memSpec w m (dataRefs m.data m.w 1 ++ (if n = 2 then dataRefs m.data m.w 2 else [])) (dataRefs m.data m.w 0)
      (!groupsFit m.data m.w (n + 1))) i
    (probeDevice m ⟨.atomic, .atomic op (some m.data) m.w, some 1, if n = 2 then some 2 else none, false⟩) s

/-- A reduction (R289). -/
def runRed (w : Stall) (i : Instr) (m : MemOp) (op : AtomOp) (s : State) : Host.Outcome State Fault Refusal :=
  runProbe (memSpec w m (dataRefs m.data m.w 0) [] (!groupsFit m.data m.w 1)) i
    (probeDevice m ⟨.atomic, .atomic op none m.w, some 0, none, false⟩) s

/-- The probe of each device access by its word. -/
def loadProbe (m : MemOp) : Probe := probeDevice m ⟨.read, .load m.data m.w, none, none, false⟩
def storeProbe (m : MemOp) : Probe := probeDevice m ⟨.write, .store, some 0, none, false⟩
def atomProbe (m : MemOp) (op : AtomOp) : Probe :=
  probeDevice m ⟨.atomic, .atomic op (some m.data) m.w, some 1, if op = .cas then some 2 else none, false⟩
def redProbe (m : MemOp) (op : AtomOp) : Probe := probeDevice m ⟨.atomic, .atomic op none m.w, some 0, none, false⟩
def watchProbe (m : MemOp) : Probe := probeDevice m ⟨.read, .arm, none, none, true⟩

/-- `ld` (R284). -/
def execLd (n0 : Stall) (m : MemOp) (s : State) : Host.Outcome State Fault Refusal :=
  runProbe (memSpec n0 m [] (dataRefs m.data m.w 0) (!groupsFit m.data m.w 1)) (.ld n0 m) (loadProbe m) s
/-- `st` (R285). -/
def execSt (n0 : Stall) (m : MemOp) (s : State) : Host.Outcome State Fault Refusal :=
  runProbe (memSpec n0 m (dataRefs m.data m.w 0) [] (!groupsFit m.data m.w 1)) (.st n0 m) (storeProbe m) s
/-- `atom.add` (R287). -/
def execAtomAdd (n0 : Stall) (m : MemOp) (s : State) : Host.Outcome State Fault Refusal :=
  runAtom n0 (.atomAdd n0 m) m .add s
/-- `atom.min` (R287). -/
def execAtomMin (n0 : Stall) (m : MemOp) (s : State) : Host.Outcome State Fault Refusal :=
  runAtom n0 (.atomMin n0 m) m .min s
/-- `atom.max` (R287). -/
def execAtomMax (n0 : Stall) (m : MemOp) (s : State) : Host.Outcome State Fault Refusal :=
  runAtom n0 (.atomMax n0 m) m .max s
/-- `atom.and` (R287). -/
def execAtomAnd (n0 : Stall) (m : MemOp) (s : State) : Host.Outcome State Fault Refusal :=
  runAtom n0 (.atomAnd n0 m) m .and s
/-- `atom.or` (R287). -/
def execAtomOr (n0 : Stall) (m : MemOp) (s : State) : Host.Outcome State Fault Refusal :=
  runAtom n0 (.atomOr n0 m) m .or s
/-- `atom.xor` (R287). -/
def execAtomXor (n0 : Stall) (m : MemOp) (s : State) : Host.Outcome State Fault Refusal :=
  runAtom n0 (.atomXor n0 m) m .xor s
/-- `atom.xchg` (R287). -/
def execAtomXchg (n0 : Stall) (m : MemOp) (s : State) : Host.Outcome State Fault Refusal :=
  runAtom n0 (.atomXchg n0 m) m .xchg s
/-- `atom.cas` (R287). -/
def execAtomCas (n0 : Stall) (m : MemOp) (s : State) : Host.Outcome State Fault Refusal :=
  runAtom n0 (.atomCas n0 m) m .cas s
/-- `atom.inc` (R287). -/
def execAtomInc (n0 : Stall) (m : MemOp) (s : State) : Host.Outcome State Fault Refusal :=
  runAtom n0 (.atomInc n0 m) m .inc s
/-- `atom.fadd` (R287). -/
def execAtomFadd (n0 : Stall) (m : MemOp) (s : State) : Host.Outcome State Fault Refusal :=
  runAtom n0 (.atomFadd n0 m) m .fadd s
/-- `red.add` (R289). -/
def execRedAdd (n0 : Stall) (m : MemOp) (s : State) : Host.Outcome State Fault Refusal :=
  runRed n0 (.redAdd n0 m) m .add s
/-- `red.min` (R289). -/
def execRedMin (n0 : Stall) (m : MemOp) (s : State) : Host.Outcome State Fault Refusal :=
  runRed n0 (.redMin n0 m) m .min s
/-- `red.max` (R289). -/
def execRedMax (n0 : Stall) (m : MemOp) (s : State) : Host.Outcome State Fault Refusal :=
  runRed n0 (.redMax n0 m) m .max s
/-- `red.fadd` (R289). -/
def execRedFadd (n0 : Stall) (m : MemOp) (s : State) : Host.Outcome State Fault Refusal :=
  runRed n0 (.redFadd n0 m) m .fadd s
/-- `watch` (R213). -/
def execWatch (n0 : Stall) (m : MemOp) (s : State) : Host.Outcome State Fault Refusal :=
  runProbe { (memSpec n0 m [] [] false) with kind := .mem } (.watch n0 m) (watchProbe m) s

/-! ## Prefetch (R281, R291) -/

/-- The lines that a `pf` may bring in: those of its lanes that pass every check by a translation already held. -/
def State.prefetchable (s : State) (g : Gang) (c : Ctx) (b : Vector DWord 8) (x : Access) : Option (Home × Nat) :=
  if x.off < 0 || (Buf.length b : Int) < x.off + 1 || !Buf.r b || 2 ≤ Buf.tier b then none
  else
    let off := x.off.toNat / 128 * 128
    let va := Buf.base b + off
    match s.coreTlb? g.core c.id va, s.spanTlb? g.core c.id va with
    | some e, _ | none, some e => some (homeOf b off, homeKey (homeOf b off) (e.map va))
    | none, none => none

/-- A line brought into the home slice and the core's L1 (R291). -/
def State.prefetch (s : State) (k : CoreId) (home : Home) (line : Nat) : State :=
  let w := s.hier.makeWay s.now home.slice line
  let a : LineAt := ⟨home, line, 0, 0, 0, 0⟩
  let s := (s.setHier (w.h.withLine a s.now fun l => { l with valid := 15 })).victimGoes home.slice w
  if (s.l1Hit k line).isSome then s
  else
    let (s, wait) := s.l1Alloc k line
    if wait = 0 then s.l1Fill k line (memBytes s.mem line 128) else s.l1Drop k line

/-- `pf` (R291): each line is fetched or not, as unbooked slots allow. -/
def execPf (n0 : Stall) (m : MemOp) (s : State) : Host.Outcome State Fault Refusal :=
  runWord { stall := n0, ext := true, kind := .mem, reads := .s m.h :: offRefs m.off } (fun s' g _ =>
    match s'.ctx? g.ctx with
    | none => .ok (s', g)
    | some c =>
      let f := s.freeNo
      let clk := s.clock g.core
      match s'.usableRec c (g.handle f clk m.h) with
      | none => .ok (s', g)
      | some b =>
        let lines := ((g.accesses f clk m (lanesOf g.active) 1).filterMap (s'.prefetchable g c b)).eraseDups
        .ok (lines.foldl (fun s x => if Config.prefetchFills s.freeNo then (s.useFree 1).prefetch g.core x.1 x.2 else s.useFree 1) s', g)) s

/-! ## Examining records (R292, R293) -/

/-- A request whose scalar result lands `n` clocks after its probe passes (R292). -/
def State.addTimed (s : State) (g : Gang) (pc : Pc) (t : TReg) (h : Nat) (d : SReg) (v : DWord) (n : Nat) : State × Gang :=
  let (q, qclk) := s.nextClock g.core
  let land := q + s.ticksOf g.core n
  let s := s.addReq { Req.base g pc t q qclk with
    handle := h, effect := .scalar d v, prom := land, arrive := land, perf := land, clk := qclk + n }
  (s, (s.joinT g t true q).passedIn qclk)

/-- The result of `bchk` (R292). -/
def State.bchkValue (s : State) (k : CoreId) (c : Ctx) (h : Nat) (x : Access) : DWord :=
  let code : Except Trap (Vector DWord 8) := s.portCheck k c h .read [x]
  let rec_ := s.usableRec c h
  let va := match rec_ with | some b => Buf.base b + x.off.toNat | none => 0
  let held := match code with | .ok b => Buf.pageable b && (s.translate k c va).isNone | .error _ => false
  let inTlb := (s.coreTlb? k c.id va).isSome || (s.spanTlb? k c.id va).isSome
  let reached := match code with | .ok _ => true | .error t => t.cause = 0x07
  BitVec.ofNat 64 ((match code with | .ok _ => 0 | .error t => t.cause.toNat) + (if held then 2 ^ 8 else 0) +
    (if reached && inTlb then 2 ^ 9 else 0) +
    (match rec_ with
     | some b => (if Buf.r b then 2 ^ 10 else 0) + (if Buf.w b then 2 ^ 11 else 0) + (if Buf.a b then 2 ^ 12 else 0)
     | none => 0))

/-- The probe of `bchk` (R292): it may wait for a record read or a walk, for which it books no slot; it fills no TLB and sets no A or D
(R281). -/
def bchkProbe (m : MemOp) : Probe := fun first f s g pc =>
  match s.ctx? g.ctx, m.data with
  | some c, .s d =>
    let k := g.core
    let clk := s.clock k
    let h := g.handle f clk m.h
    (match g.accesses f clk m ((lanesOf g.active).take 1) m.w.size with
     | x :: _ =>
       let va := match s.usableRec c h with | some b => [Buf.base b + x.off.toNat] | none => []
       let ms := s.misses k c h va false
       if first && !ms.blank then .wait s g (s.probeTick k c h ms).2 0x11
       else if 1024 < s.promisesUsed k + 1 then .wait s g ((s.nextClock k).1 + 1) 0x12
       else
         let s := s.settleProbe k c h [] false
         let (s, g) := s.addTimed g pc m.t h d (s.bchkValue k c h x) 8
         .done s g
     | [] => .done s ((s.joinT g m.t false (s.nextClock k).1).passedIn (s.nextClock k).2))
  | _, _ => .done s g

/-- `bchk` (R292). -/
def execBchk (n0 : Stall) (m : MemOp) (s : State) : Host.Outcome State Fault Refusal :=
  runProbe (memSpec n0 m [] (dataRefs m.data .b64 0) false) (.bchk n0 m) (bchkProbe m) s

/-- The doubleword that `bmeta` reads (R293). -/
def State.bmetaValue (s : State) (c : Ctx) (h n : Nat) : DWord :=
  match s.bufRec c h with
  | some b => if Buf.owner b = c.id then vget b n else 0
  | none => 0

/-- The probe of `bmeta` (R293): a record that is not cached is read first (R279). -/
def bmetaProbe (m : MemOp) : Probe := fun first f s g pc =>
  match s.ctx? g.ctx, m.data with
  | some c, .s d =>
    let k := g.core
    let h := g.handle f (s.clock k) m.h
    let ms := s.misses k c h [] false
    if first && ms.recMiss then
      let (s, t) := s.probeTick k c h ms
      .wait s g t 0x11
    else if 1024 < s.promisesUsed k + 1 then .wait s g ((s.nextClock k).1 + 1) 0x12
    else
      let s := s.settleProbe k c h [] false
      let (s, g) := s.addTimed g pc m.t h d (s.bmetaValue c h (m.imm.toNat % 8)) 8
      .done s g
  | _, _ => .done s g

/-- `bmeta` (R293). -/
def execBmeta (n0 : Stall) (m : MemOp) (s : State) : Host.Outcome State Fault Refusal :=
  runProbe { stall := n0, ext := true, kind := .mem, reads := [.s m.h], writes := dataRefs m.data .b64 0 } (.bmeta n0 m)
    (bmetaProbe m) s

/-! ## Fences (R327) -/

/-- The marks of a gang that still order something. -/
def State.liveFences (s : State) (g : Gang) : List FenceMark :=
  g.fences.filter fun f => f.flush ||
    s.reqs.any fun r => r.id < f.upTo && (r.of g.key && r.access || (f.kind != .acq && r.core = g.core && r.queued))

/-- `fence` (R327): it leaves the order for the accesses that follow; an acquire invalidates L1 once every earlier read is
performed, at once when all are. -/
def execFence (n0 : Stall) (sc : Scope) (k : FenceKind) (s : State) : Host.Outcome State Fault Refusal :=
  runWord { stall := n0, kind := .fence } (fun s' g _ =>
    let acq := k != .rel
    let obs := if acq && wide sc then g.obsT.toList.foldl max g.obs else g.obs
    let g := { g with fences := s'.liveFences g ++ [⟨k, sc, s'.own.nextReq, acq && wide sc⟩], obs := obs }
    let s2 := (s'.putGang g).settleFlushes g.core
    .ok (s2, (s2.gang? g.key).getD g)) s

end Sys2Proof.Machine
end

