-- ==== Sys2Proof/Machine/Scratch.lean ====
section
/-!
DEFINITION. Scratchpad words of class MEM: `lds`, `sts`, the scratchpad atomics (R190, R191), `plpack` and `plunpack`
(R185, R192), `l1cfg` (R189, R193), the plane port (R184), and the zeroing of freed runs (R178).
-/
namespace Sys2Proof.Machine

/-! ## The lane port (R180 to R183, R190, R191) -/

/-- What a lane-port word is: its effect, and the data groups of its operands. -/
structure LaneAccess where
  effect : Effect
  data   : Option Nat
  data2  : Option Nat := none

/-- The probe of a lane-port word (R190): bounds of every lane, then alignment, then one request, which reads its data registers in
the probe's clock. -/
def laneProbe (m : MemOp) (a : LaneAccess) : Probe := fun _ f s g pc =>
  match s.crew? g.crewKey with
  | none => .done s g
  | some c =>
    let clk := s.clock g.core
    let size := m.w.size
    let xs := g.accesses f clk m (g.accessLanes m.data) size
    let (q, qclk) := s.nextClock g.core
    if xs.isEmpty then .done s ((s.joinT g m.t false q).passedIn qclk)
    else match lowestFail xs fun x => x.off < 0 || (c.partLen : Int) < x.off + size with
    | some l => .trap ⟨0x04, BitVec.ofNat 32 l⟩
    | none => match lowestFail xs fun x => x.off % size != 0 with
      | some l => .trap ⟨0x08, BitVec.ofNat 32 l⟩
      | none =>
        if 1024 < s.promisesUsed g.core + 1 then .wait s g (q + 1) 0x12
        else
          let bytes := fun (n : Option Nat) (l : Nat) =>
            match n with | some k => g.dataBytes f clk m.data m.w k l | none => []
          let r := { Req.base g pc m.t q qclk with
            scope := m.sc, sem := m.sem, effect := a.effect, line := c.partBase
            srcs := if a.data.isSome then [m.data] else [], readAt := if a.data.isSome then qclk else 0
            mask := maskOf fun l => xs.any fun (x : Access) => x.lane = l
            pieces := xs.map fun (x : Access) => Piece.mk x.lane x.off.toNat size (bytes a.data x.lane) (bytes a.data2 x.lane) }
          let r := { r with after := s.orders g r (if m.after then some m.afterT else none) }
          let s := s.addReq r
          .done s ((s.joinT g m.t true q).passedIn qclk)

/-- The registers of a lane-port word. -/
def laneSpec (w : Stall) (m : MemOp) (reads writes : List RegRef) (groups : Nat) : WordSpec :=
  { stall := w, ext := true, kind := .mem, reads := offRefs m.off ++ reads, writes := writes
    illegal := fun _ _ => !groupsFit m.data m.w groups }

def ldsProbe (m : MemOp) : Probe := laneProbe m ⟨.lanes m.data m.w, none, none⟩
def stsProbe (m : MemOp) : Probe := laneProbe m ⟨.store, some 0, none⟩
def atomsAddProbe (m : MemOp) : Probe := laneProbe m ⟨.atomic .add (some m.data) m.w, some 1, none⟩
def atomsCasProbe (m : MemOp) : Probe := laneProbe m ⟨.atomic .cas (some m.data) m.w, some 1, some 2⟩

/-- `lds` (R190). -/
def execLds (n0 : Stall) (m : MemOp) (s : State) : Host.Outcome State Fault Refusal :=
  runProbe (laneSpec n0 m [] (dataRefs m.data m.w 0) 1) (.lds n0 m) (ldsProbe m) s
/-- `sts` (R190). -/
def execSts (n0 : Stall) (m : MemOp) (s : State) : Host.Outcome State Fault Refusal :=
  runProbe (laneSpec n0 m (dataRefs m.data m.w 0) [] 1) (.sts n0 m) (stsProbe m) s
/-- `atoms.add` (R191). -/
def execAtomsAdd (n0 : Stall) (m : MemOp) (s : State) : Host.Outcome State Fault Refusal :=
  runProbe (laneSpec n0 m (dataRefs m.data m.w 1) (dataRefs m.data m.w 0) 2) (.atomsAdd n0 m) (atomsAddProbe m) s
/-- `atoms.cas` (R191). -/
def execAtomsCas (n0 : Stall) (m : MemOp) (s : State) : Host.Outcome State Fault Refusal :=
  runProbe (laneSpec n0 m (dataRefs m.data m.w 1 ++ dataRefs m.data m.w 2) (dataRefs m.data m.w 0) 3) (.atomsCas n0 m)
    (atomsCasProbe m) s

/-! ## The plane port (R184, R185, R192) -/

/-- The first clock at or after `c` in which a core's plane port is not booked; `fuel` bounds the search. -/
def planeFree (booked : List Nat) : Nat → Nat → Nat
  | 0, c => c
  | fuel + 1, c => if booked.contains c then planeFree booked fuel (c + 1) else c

/-- Books one plane-port clock at or after clock `c`. -/
def State.bookPlane (s : State) (k : CoreId) (c : Nat) : State × Nat :=
  let co := s.core k
  let live := co.plane.filter fun x => s.clock k ≤ x
  let n := planeFree live (live.length + 1) c
  (s.setCore k { co with plane := n :: live }, n)

/-- Books `n` plane-port clocks, each the first free one at or after the clock after the one before. -/
def State.bookPlanes (s : State) (k : CoreId) (c : Nat) : Nat → State × List Nat
  | 0 => (s, [])
  | n + 1 =>
    let (s, x) := s.bookPlane k c
    let (s, xs) := s.bookPlanes k (x + 1) n
    (s, x :: xs)

/-- A packed block of 256 elements of width `w` as a plane block (R185). -/
def packPlanes (w : Nat) (bs : List Byte) : List Byte :=
  (List.range (32 * w)).map fun k => byteOf fun t => bitOf bs (w * (8 * (k % 32) + t) + k / 32)
/-- A plane block as a packed block (R185). -/
def unpackPlanes (w : Nat) (bs : List Byte) : List Byte :=
  (List.range (32 * w)).map fun k => byteOf fun t => bitOf bs (256 * ((8 * k + t) % w) + (8 * k + t) / w)

/-- Converts `n` blocks in ascending order, each read in full before it is written (R192). -/
def convertBlocks (f : List Byte → List Byte) (size : Nat) : Nat → Nat → Nat → List Host.Cell → List Host.Cell
  | 0, _, _, m => m
  | n + 1, src, dst, m => convertBlocks f size n (src + size) (dst + size) (memWrite m dst (f (memBytes m src size)))

/-- A `plpack` or `plunpack` (R192): its checks, then the plane port is held until its last write, which later lane-port
requests follow (R181). -/
def runPlane (n0 : Stall) (d a b : SReg) (w : PlaneWidth) (pack : Bool) (s : State) : Host.Outcome State Fault Refusal :=
  runWord { stall := n0, ext := true, kind := .mem, reads := [.s d, .s a, .s b] } (fun s' g _ =>
    match s'.crew? g.crewKey with
    | none => .ok (s', g)
    | some c =>
      let dst := (s.sread g d).toNat
      let src := (s.sread g a).toNat
      let n := (s.sread g b).toNat
      let width := w.val + 2
      let bytes := 32 * width * n
      if dst % 32 != 0 || src % 32 != 0 then .error ⟨0x08, 0⟩
      else if 64 < n || (bytes != 0 && (c.partLen < dst + bytes || c.partLen < src + bytes)) then .error ⟨0x04, 0⟩
      else if n = 0 then .ok (s', g)
      else
        let k := g.core
        let moves := 2 * n * ceilDiv width 8
        let clk := s'.clock k
        let (s1, _) := s'.bookPlanes k (clk + 7) moves
        let co := s1.core k
        let s1 := s1.setCore k { co with laneHold := max co.laneHold (clk + 6 + moves + 1) }
        .ok (s1.dueIn k (clk + 6 + moves) 2 (.ev .plpackLastWrite)
          { EvArg.none with core := k, key := g.key, n := n, m := width, flag := pack, pairs := [(src, dst)] }, g)) s

/-- `plpack` (R192). -/
def execPlpack (n0 : Stall) (d a b : SReg) (w : PlaneWidth) (s : State) : Host.Outcome State Fault Refusal :=
  runPlane n0 d a b w true s
/-- `plunpack` (R192). -/
def execPlunpack (n0 : Stall) (d a b : SReg) (w : PlaneWidth) (s : State) : Host.Outcome State Fault Refusal :=
  runPlane n0 d a b w false s

/-- PLPACK_LAST_WRITE (R192): the blocks of a `plpack` or `plunpack` are converted. -/
def execPlpackLastWrite (s : State) : Host.Outcome State Fault Refusal :=
  let a := s.arg
  match s.crew? (crewKeyOf a.key) with
  | none => .next s
  | some c =>
    let f := if a.flag then packPlanes a.m else unpackPlanes a.m
    let co := s.core c.core
    .next (s.setCore c.core { co with spad := a.pairs.foldl (fun m x =>
      convertBlocks f (32 * a.m) a.n (c.partBase + x.1) (c.partBase + x.2) m) co.spad })

/-! ## Converting L1 ways (R189, R193) -/

/-- The conversion count that a core has or is going to have, and the tick from which a further `l1cfg` starts. -/
def State.convTarget (s : State) (k : CoreId) : Nat × Nat :=
  s.reqs.foldl (fun x r => match r.effect with | .l1cfg c => if r.core = k then (c, max x.2 r.prom) else x | _ => x)
    ((s.cc k).conv, 0)

/-- The least conversion count that keeps every partition byte of a core (R193), those of saved partitions that still stand there too
(R357). -/
def State.leastConv (s : State) (k : CoreId) : Nat :=
  let top := ((s.crews.filter fun c => c.core = k && (c.resident || c.held)).map fun c => c.partBase + c.partLen).foldl max
    (((s.core k).zeroing.map fun z => z.1 + z.2).foldl max 0)
  ceilDiv (top - 2 ^ 20) (2 ^ 16)

/-- The lines of L1 that stand in the ways which a conversion to `c` takes (R189). -/
def L1Line.excess (ls : List L1Line) (c : Nat) : List Nat :=
  (ls.filter fun l => !(lineWays c).contains l.way).map fun l => l.addr

/-- The probe of `l1cfg` (R189, R193). -/
def l1cfgProbe (a : SReg) (t : TReg) : Probe := fun _ f s g pc =>
  let k := g.core
  let v := (g.readS f (s.clock k) a).toNat
  let (cur, ready) := s.convTarget k
  let (q, qclk) := s.nextClock k
  if 4 < v then .trap ⟨0x04, 0⟩
  else if v < cur && v < s.leastConv k then .trap ⟨0x04, BitVec.ofNat 32 (s.leastConv k)⟩
  else if v = cur then .done s ((s.joinT g t false q).passedIn qclk)
  else if 1024 < s.promisesUsed k + 1 then .wait s g (q + 1) 0x12
  else
    let out := if cur < v then L1Line.excess (s.core k).l1 v else []
    let held := (s.core k).l1.filter fun l => out.contains l.addr && l.hold != 0
    let s := out.foldl (fun s x => s.l1Drop k x) s
    let start := held.foldl (fun n l => max n l.till) (max q ready)
    let prom := start + s.ticksOf k 512
    let s := s.addReq { Req.base g pc t q qclk with
      effect := .l1cfg v, prom := prom, arrive := prom, perf := prom
      clk := (if start = q then qclk else s.clockFrom k start) + 512 }
    .done s ((s.joinT g t true q).passedIn qclk)

/-- `l1cfg` (R193). -/
def execL1cfg (n0 : Stall) (a : SReg) (t : TReg) (s : State) : Host.Outcome State Fault Refusal :=
  runProbe { stall := n0, kind := .mem, reads := [.s a] } (.l1cfg n0 a t) (l1cfgProbe a t) s

/-- L1CFG_COMPLETE (R189): the count changes and bytes that leave the scratchpad are discarded, behind the placements of the clock, which do
not see the new space yet. -/
def execL1cfgComplete (s : State) : Host.Outcome State Fault Refusal :=
  match s.req? s.arg.req with
  | none => .next s
  | some r =>
    match r.effect with
    | .l1cfg c =>
      if s.now < r.arrive then .next s
      else
        let k := r.core
        let co := s.core k
        let top := 2 ^ 20 + c * 2 ^ 16
        let s := s.setCore k { co with cc := { co.cc with conv := c }, spad := co.spad.filter fun x => x.1 < top }
        .next ((s.land r).offer k)
    | _ => .next s

/-! ## Freed runs (R178) -/

/-- Starts the zeroing of a run by the plane port, 256 bytes per clock; the run is free once it is done. -/
def State.zeroRun (s : State) (k : CoreId) (base len : Nat) : State :=
  if len = 0 then s
  else
    let (s, cs) := s.bookPlanes k (s.clock k + 1) (len / 256)
    let last := cs.foldl max (s.clock k)
    let co := s.core k
    (s.setCore k { co with zeroing := (base, len) :: co.zeroing }).dueIn k last 3 (.ev .partitionZeroDone)
      { EvArg.none with core := k, n := base, m := len }

/-- PARTITION_ZERO_DONE (R178): the run is zero and counts as free. -/
def execPartitionZeroDone (s : State) : Host.Outcome State Fault Refusal :=
  let a := s.arg
  let co := s.core a.core
  if co.zeroing.contains (a.n, a.m) then
    .next ((s.setCore a.core { co with zeroing := co.zeroing.filter fun z => z != (a.n, a.m)
                                       spad := memZero co.spad a.n a.m }).offer a.core)
  else .next s

end Sys2Proof.Machine
end

