-- ==== Sys2Proof/Machine/Sync.lean ====
section
/-!
DEFINITION. Barrier slots (R195 to R203), slot rings (R204 to R211) and `mwait` (R214): the objects in scratchpad, and the
SYN words that work on them as single-pass lane-port requests.
-/
namespace Sys2Proof.Machine

/-! ## Barrier objects (R196, R197) -/

/-- A barrier object's fields (R196). -/
structure Bar where
  phase  : Word
  amask  : Word
  expect : Nat
  xbytes : Nat
  lbytes : Nat
  spare  : Nat
deriving DecidableEq, Repr

def Bar.read (d0 d1 : DWord) : Bar :=
  ⟨highWord d0, lowWord d0, bits d1 63 58, bits d1 55 28, bits d1 27 0, bits d1 57 56⟩
def Bar.image (b : Bar) : List DWord :=
  [joinWords b.amask b.phase,
   BitVec.ofNat 64 (b.expect % 64 * 2 ^ 58 + b.spare % 4 * 2 ^ 56 + b.xbytes % 2 ^ 28 * 2 ^ 28 + b.lbytes % 2 ^ 28)]

/-- The barrier object of a slot. -/
def State.bar (s : State) (c : Crew) (d : BReg) : Bar := Bar.read (s.objDw c c.bind[d] 0) (s.objDw c c.bind[d] 1)
def State.putBar (s : State) (c : Crew) (d : BReg) (b : Bar) : State := s.putObj c c.bind[d] b.image

/-- The expected arrivals of a slot; 0 means CREW (R196). -/
def State.expected (s : State) (c : Crew) (b : Bar) : Nat :=
  if b.expect = 0 then (match s.slice? c.key.launch with | some l => l.crewSize | none => 0) else b.expect

/-- A saturating sum of 28 bits (R196). -/
def sat28 (a b : Nat) : Nat := min (a + b) (2 ^ 28 - 1)

/-- Makes eligible, at this tick, the parked records of a crew that wait with a wake kind on an object and argument. -/
def State.wakeOn (s : State) (c : CrewKey) (wake : BitVec 4) (object : BitVec 16) (arg : Word) : State :=
  (s.gangs.filter fun g => g.crewKey = c && g.parked && !g.wait && g.hd.wake = wake && g.hd.object = object && g.hd.arg = arg).foldl
    (fun s g => s.makeEligible g.key (tickOf s.now)) s

/-- The completion test of R197: the phase advances, the records parked on the old phase become eligible, and the
registered spawns are written in the order in which they came. -/
def State.barTest (s : State) (k : CrewKey) (d : BReg) : State :=
  match s.crew? k with
  | none => s
  | some c =>
    let b := s.bar c d
    if popcount b.amask = s.expected c b && b.xbytes ≤ b.lbytes then
      let s := s.putBar c d { b with phase := b.phase + 1, amask := 0, xbytes := 0, lbytes := 0 }
      let s := s.wakeOn k 3 (BitVec.ofNat 16 d.val) b.phase
      let (mine, rest) := c.regs.partition fun r => r.slot = d
      let s := s.putCrew { c with regs := rest }
      match s.slice? k.launch with
      | none => s
      | some l => mine.foldl (fun s r =>
          s.spawn (l.start c r.gang r.pc (some (b.phase + 1))) (BitVec.ofNat 16 d.val) (b.phase + 1)) s
    else s

/-- Counts bytes that a copy landed at a slot (R200, R224); the test of R197 follows once the arrivals of the clock are counted too
(R216). -/
def State.barLand (s : State) (k : CrewKey) (d : BReg) (n : Nat) : State :=
  match s.crew? k with
  | none => s
  | some c =>
    if c.holds c.bind[d] 16 then
      let b := s.bar c d
      (s.putBar c d { b with lbytes := sat28 b.lbytes n }).scheduleTask
        ⟨s.now, 4, .barTest, { EvArg.none with key := ⟨k.launch, k.crew, 0⟩, n := d.val }⟩
    else s

/-! ## Words on objects (R198, R206) -/

/-- The tick at which every earlier access of a gang is performed at scope crew; nothing while one of them is held (R198,
R328). -/
def State.crewFloor (s : State) (g : Gang) : Option Nat :=
  let own := s.reqs.filter fun r => r.of g.key && r.access
  if own.any fun r => match r.held with | some (.error, _) => !r.reads | some _ => true | none => false then none
  else some (own.foldl (fun n r => if r.held.isSome then n else max n (s.perfTick r .crew)) 0)

/-- An operation on an object, in the clock of its pass. -/
abbrev ObjOp := State → Gang → Crew → Pc → Pass

/-- A word on an object: its own checks at the probe, then one pass of the lane port in probe order, not before every
earlier access of the gang is performed where the word is a release; then the operation (R198, R206). -/
def objProbe (release : Bool) (pre : State → Gang → Crew → Option Trap) (op : ObjOp) : Probe := fun first _ s g pc =>
  match s.crew? g.crewKey with
  | none => .done s g
  | some c =>
    let k := g.core
    let floor := if release then s.crewFloor g else some 0
    let (q, qclk) := s.nextClock k
    match pre s g c, floor with
    | some t, _ => .trap t
    | none, none => .retry s g (q + 1) 0x11
    | none, some fl =>
      if first then
        let (s, f) := s.takeLane k qclk fl 1
        .pass s { g with probeAt := (q, qclk) } f 0x11
      else if s.now < fl then .retry s g (fl + 1) 0x11
      else match op s g c pc with
        | .done s g => .done (s.countPasses k 1) g
        | .left s => .left (s.countPasses k 1)
        | x => x

/-- A word on an object: its operand is read in its issue clock. -/
def runObj (w : WordSpec) (i : Instr) (a : Option SReg) (p : Probe) (s : State) : Host.Outcome State Fault Refusal :=
  runProbe w i (fun first f s' g pc =>
    p first f s' { g with opnd := match a with | some n => g.readS f (s.clock g.core) n | none => 0 } pc) s

/-- Trap 0x04 for a slot whose object lies outside the partition (R195). -/
def barOut (d : BReg) (_ : State) (_ : Gang) (c : Crew) : Option Trap :=
  if c.holds c.bind[d] 16 then none else some ⟨0x04, BitVec.ofNat 32 d.val⟩

/-- A barrier word's frame: a slot that the crew does not own raises trap 0x01 (R195). -/
def barSpec (w : Stall) (ext : Bool) (d : BReg) (reads writes : List RegRef) : WordSpec :=
  { stall := w, ext := ext, reads := reads, writes := writes
    illegal := fun s g => match s.crew? g.crewKey with | some c => c.bars ≤ d.val | none => true }

/-- The bit of a gang in AMASK. -/
def gangBit (g : Gang) : Word := BitVec.ofNat 32 (2 ^ g.key.gang.val)

/-- `bar.init` (R199): checks, then the binding and the object. -/
def barInitOp (d : BReg) (n : Fin 32) : ObjOp := fun s g c _ =>
  let o := (lowWord g.opnd).toNat
  let old := if c.holds c.bind[d] 16 then s.bar c d else ⟨0, 0, 0, 0, 0, 0⟩
  let waits := s.gangs.any fun x => x.crewKey = c.key && x.parked && x.hd.wake = 3 && x.hd.object = BitVec.ofNat 16 d.val
  if old.amask != 0 || old.lbytes != 0 || c.regs.any (fun r => r.slot = d) || waits then
    .trap ⟨0x0D, BitVec.ofNat 32 d.val⟩
  else
    let c := { c with bind := c.bind.set d o }
    .done ((s.putCrew c).putBar c d ⟨0, 0, n.val + 1, 0, 0, 0⟩) g
/-- What `bar.init` checks before its operation (R199, R195). -/
def barInitPre (d : BReg) (_ : State) (g : Gang) (c : Crew) : Option Trap :=
  let o := (lowWord g.opnd).toNat
  if o % 16 != 0 then some ⟨0x08, 0⟩ else if c.partLen < o + 16 then some ⟨0x04, BitVec.ofNat 32 d.val⟩ else none
def barInitProbe (d : BReg) (n : Fin 32) : Probe := objProbe true (barInitPre d) (barInitOp d n)

/-- An arrival (R200): the object with the gang's bit, or nothing where trap 0x0D applies. -/
def State.arrival (s : State) (g : Gang) (c : Crew) (d : BReg) : Option Bar :=
  let b := s.bar c d
  if b.amask &&& gangBit g != 0 || popcount b.amask = s.expected c b then none
  else some { b with amask := b.amask ||| gangBit g }

/-- `bar.arrive` (R200). -/
def barArriveOp (d : BReg) : ObjOp := fun s g c _ =>
  match s.arrival g c d with
  | none => .trap ⟨0x0D, BitVec.ofNat 32 d.val⟩
  | some b => .done ((s.putBar c d b).barTest c.key d) g
def barArriveProbe (d : BReg) : Probe := objProbe true (barOut d) (barArriveOp d)

/-- `bar.wait` in its pass of the lane port (R201, R216): ARG is the phase in which the gang has arrived, or the one before,
and the record is then eligible at once. -/
def barWaitOp (s : State) (g : Gang) (c : Crew) (d : BReg) : Pass :=
  let b := s.bar c d
  let waits := b.amask &&& gangBit g != 0
  let s := s.putGang { g with hd := { g.hd with arg := if waits then b.phase else b.phase - 1 } }
  let s := if waits then s else s.makeEligible g.key (tickOf s.now)
  .done s ((s.gang? g.key).getD g)

/-- `bar.wait` (R201): the gang deposits in the issue clock, and ARG is taken in the pass, which comes after every earlier
access of the gang (R198, R216). -/
def barWaitProbe (d : BReg) : Probe := fun first _ s g _ =>
  match s.crew? g.crewKey with
  | none => .done s g
  | some c =>
    let k := g.core
    let (q, qclk) := s.nextClock k
    match barOut d s g c with
    | some t => .trap t
    | none =>
      if first then
        let (s, f) := s.takeLane k qclk ((s.crewFloor g).getD 0) 1
        let (s, g) := s.deposit g.atFall 1 { wake := 3, object := BitVec.ofNat 16 d.val }
        .pass s g f 0x11
      else match s.crewFloor g with
        | none => .wait s g (q + 1) 0x11
        | some fl => if s.now < fl then .wait s g (fl + 1) 0x11 else barWaitOp (s.countPasses k 1) g c d

/-- What `bar.then` checks first (R202, R195): no lanes outside the selected entry. -/
def barThenPre (d : BReg) (s : State) (g : Gang) (c : Crew) : Option Trap :=
  if !g.front.isEmpty then some ⟨0x01, 0⟩ else barOut d s g c
/-- `bar.then` (R202): the arrival, the registration, the exit of the active lanes, the completion test. -/
def barThenOp (d : BReg) (off : BitVec 30) : ObjOp := fun s g c pc =>
  match s.arrival g c d with
  | none => .trap ⟨0x0D, BitVec.ofNat 32 d.val⟩
  | some b =>
    let target : Pc := pc + 4 * off.signExtend 48
    let s := (s.putBar c d b).putCrew { c with regs := c.regs ++ [⟨d, g.key.gang, target⟩] }
    let s := s.putGang { g with sel := none, clause := none }
    .left ((s.gangExit { g with sel := none, clause := none }).barTest c.key d)
def barThenProbe (d : BReg) (off : BitVec 30) : Probe := objProbe true (barThenPre d) (barThenOp d off)

/-- `bar.bytes` (R200). -/
def barBytesOp (d : BReg) : ObjOp := fun s g c _ =>
  let b := s.bar c d
  .done (s.putBar c d { b with xbytes := sat28 b.xbytes (lowWord g.opnd).toNat }) g
def barBytesProbe (d : BReg) : Probe := objProbe true (barOut d) (barBytesOp d)

/-- `bar.phase` (R203). -/
def barPhaseOp (d : SReg) (a : BReg) : ObjOp := fun s g c _ =>
  .done s (g.writeS s.freeNo (s.clock g.core) 0 d ((s.bar c a).phase.zeroExtend 64))
def barPhaseProbe (d : SReg) (a : BReg) : Probe := objProbe true (barOut a) (barPhaseOp d a)

/-- `bar.init` (R199). -/
def execBarInit (n0 : Stall) (d : BReg) (a : SReg) (n : Fin 32) (s : State) : Host.Outcome State Fault Refusal :=
  runObj (barSpec n0 true d [.s a] []) (.barInit n0 d a n) (some a) (barInitProbe d n) s
/-- `bar.arrive` (R200). -/
def execBarArrive (n0 : Stall) (d : BReg) (s : State) : Host.Outcome State Fault Refusal :=
  runObj (barSpec n0 false d [] []) (.barArrive n0 d) none (barArriveProbe d) s
/-- `bar.wait` (R201). -/
def execBarWait (n0 : Stall) (d : BReg) (s : State) : Host.Outcome State Fault Refusal :=
  runObj (barSpec n0 false d [] []) (.barWait n0 d) none (barWaitProbe d) s
/-- `bar.then` (R202). -/
def execBarThen (n0 : Stall) (d : BReg) (off : BitVec 30) (s : State) : Host.Outcome State Fault Refusal :=
  runObj (barSpec n0 true d [] []) (.barThen n0 d off) none (barThenProbe d off) s
/-- `bar.bytes` (R200). -/
def execBarBytes (n0 : Stall) (d : BReg) (a : SReg) (s : State) : Host.Outcome State Fault Refusal :=
  runObj (barSpec n0 false d [.s a] []) (.barBytes n0 d a) (some a) (barBytesProbe d) s
/-- `bar.phase` (R203). -/
def execBarPhase (n0 : Stall) (d : SReg) (a : BReg) (s : State) : Host.Outcome State Fault Refusal :=
  runObj (barSpec n0 false a [] [.s d]) (.barPhase n0 d a) none (barPhaseProbe d a) s

/-! ## Ring objects (R204, R205) -/

/-- A ring object's fields (R205). -/
structure Ring where
  size   : Nat
  base   : Nat
  full   : DWord
  fills  : Nat
  claims : Nat
  rels   : Nat
  count  : Nat
  ovr    : Bool
  strict : Bool
  num    : Nat
deriving DecidableEq, Repr

def Ring.read (d0 d1 d2 d3 : DWord) : Ring :=
  ⟨bits d0 63 32, bits d0 31 0, d1, bits d2 63 32, bits d2 31 0, bits d3 63 32, bits d3 31 24, bits d3 9 9 = 1,
   bits d3 8 8 = 1, bits d3 5 0⟩
def Ring.image (r : Ring) : List DWord :=
  [BitVec.ofNat 64 (r.size * 2 ^ 32 + r.base % 2 ^ 32), r.full, BitVec.ofNat 64 (r.fills * 2 ^ 32 + r.claims % 2 ^ 32),
   BitVec.ofNat 64 (r.rels * 2 ^ 32 + r.count % 256 * 2 ^ 24 + (if r.ovr then 512 else 0) + (if r.strict then 256 else 0) +
     r.num % 64)]

/-- The modulus of FILLS, CLAIMS and RELEASES. -/
def Ring.modulus (r : Ring) : Nat := r.count * 2 ^ 24
/-- A difference of two of the counts. -/
def Ring.diff (r : Ring) (a b : Nat) : Nat := (a + r.modulus - b) % r.modulus
def Ring.slotFull (r : Ring) (i : Nat) : Bool := r.full.getLsbD i

def State.ring (s : State) (c : Crew) (o : Nat) : Ring :=
  Ring.read (s.objDw c o 0) (s.objDw c o 1) (s.objDw c o 2) (s.objDw c o 3)
def State.putRing (s : State) (c : Crew) (o : Nat) (r : Ring) : State := s.putObj c o r.image

/-- The ring entry that a crew names by an object offset (R204). -/
def State.ringAt (s : State) (c : Crew) (o : Nat) : Option RingEnt :=
  (s.cc c.core).rings.find? fun e => e.crew = c.key && e.off = o

/-- The fill of the write slot of a ring (R208), which is not full: the record that waits on the slot becomes eligible. -/
def State.fillRing (s : State) (c : Crew) (o : Nat) (num : Nat) : State :=
  let r := s.ring c o
  let i := r.fills % r.count
  let s := s.putRing c o { r with full := r.full ||| BitVec.ofNat 64 (2 ^ i), fills := (r.fills + 1) % r.modulus }
  s.wakeOn c.key 4 (BitVec.ofNat 16 num) (BitVec.ofNat 32 i)

/-- Whether a copy holds data for a ring (R207, R208). -/
def CopyCmd.holdsFor (x : CopyCmd) (c : CrewKey) (o : Nat) : Bool :=
  x.holding && x.dkind = 2 && x.dcrew = c.crew && x.crew.launch = c.launch && x.ring = o

/-- Lets the copies held on a ring's write slot land in the next clock (R210, R216). -/
def State.resumeCopies (s : State) (c : Crew) (o : Nat) : State :=
  (List.finRange 256).foldl (fun s k =>
    ((s.cc k).cmds.filter fun x => x.holdsFor c.key o).foldl (fun s x =>
      s.dueIn c.core (s.clock c.core + 1) 2 (.ev .copyRowLanding)
        { EvArg.none with core := k, key := ⟨x.crew.launch, x.crew.crew, 0⟩, n := x.group.val, flag := true }) s) s

/-! ## Ring words (R206 to R211) -/

/-- A ring word's operation on the ring that sA names; trap 0x04 with the offset where it names none (R204). -/
def onRing (op : State → Gang → Crew → Nat → RingEnt → Ring → Pass) : ObjOp := fun s g c _ =>
  let o := (lowWord g.opnd).toNat
  match s.ringAt c o with
  | none => .trap ⟨0x04, BitVec.ofNat 32 o⟩
  | some e => op s g c o e (s.ring c o)

/-- A misuse (R206): OVR is set; with STRICT, trap 0x0D with the ring number. -/
def misuse (s : State) (g : Gang) (c : Crew) (o : Nat) (e : RingEnt) (r : Ring) : Pass :=
  let s := s.putRing c o { r with ovr := true }
  if r.strict then .fail s ⟨0x0D, BitVec.ofNat 32 e.num.val⟩ else .done s g

/-- `ring.init` (R207). -/
def ringInitOp (d : SReg) (n : Fin 64) (strict : Bool) (size : BitVec 24) : ObjOp := fun s g c _ =>
  let o := (lowWord g.opnd).toNat
  let base := (highWord g.opnd).toNat
  let f := s.freeNo
  let clk := s.clock g.core
  let set := fun (s : State) (g : Gang) (num : Fin 64) =>
    Pass.done (s.putRing c o ⟨128 * size.toNat, base, 0, 0, 0, 0, n.val + 1, false, strict, num.val⟩)
      (g.writeS f clk 0 d (BitVec.ofNat 64 num.val))
  match s.ringAt c o with
  | some e =>
    let r := s.ring c o
    let ahead := r.diff r.claims r.fills
    let held := s.cores.toList.any fun k => k.cc.cmds.any fun x => x.holdsFor c.key o
    if (1 ≤ ahead && ahead ≤ r.count) || held then .trap ⟨0x0D, BitVec.ofNat 32 e.num.val⟩ else set s g e.num
  | none =>
    let cc := s.cc g.core
    match (List.finRange 64).find? fun m => !cc.rings.any fun e => e.num = m with
    | none => .done s (g.writeS f clk 0 d (BitVec.allOnes 64))
    | some m => set (s.setCc g.core { cc with rings := cc.rings ++ [⟨m, c.key, o⟩] }) g m
/-- What `ring.init` checks first (R207). -/
def ringInitPre (n : Fin 64) (size : BitVec 24) (_ : State) (g : Gang) (c : Crew) : Option Trap :=
  let o := (lowWord g.opnd).toNat
  let base := (highWord g.opnd).toNat
  if o % 32 != 0 || base % 128 != 0 then some ⟨0x08, 0⟩
  else if c.partLen < o + 32 || c.partLen < base + (n.val + 1) * (128 * size.toNat) then some ⟨0x04, 0⟩ else none
def ringInitProbe (d : SReg) (n : Fin 64) (strict : Bool) (size : BitVec 24) : Probe :=
  objProbe false (ringInitPre n size) (ringInitOp d n strict size)

/-- `ring.fill` (R208). -/
def ringFillOp : ObjOp := onRing fun s g c o e r =>
  if r.slotFull (r.fills % r.count) then misuse s g c o e r else .done (s.fillRing c o r.num) g
def ringFillProbe : Probe := objProbe true (fun _ _ _ => none) ringFillOp

/-- `ring.await` (R209): the claim, its slot's offset in sD, and a deposit while the slot is not full. -/
def ringAwaitOp (d : SReg) : ObjOp := onRing fun s g c o e r =>
  if r.diff r.claims r.rels = r.count then .trap ⟨0x0D, BitVec.ofNat 32 e.num.val⟩
  else
    let i := r.claims % r.count
    let s := s.putRing c o { r with claims := (r.claims + 1) % r.modulus }
    let g := g.writeS s.freeNo (s.clock g.core) 0 d (BitVec.ofNat 64 (r.base + i * r.size))
    if r.slotFull i then .done s g
    else
      let (s, g) := s.deposit g.atFall 1 { wake := 4, object := BitVec.ofNat 16 r.num, arg := BitVec.ofNat 32 i }
      .done s g
def ringAwaitProbe (d : SReg) : Probe := objProbe false (fun _ _ _ => none) (ringAwaitOp d)

/-- `ring.release` (R210). -/
def ringReleaseOp : ObjOp := onRing fun s g c o e r =>
  let i := r.rels % r.count
  if r.rels = r.claims || !r.slotFull i then misuse s g c o e r
  else
    let s := s.putRing c o { r with full := r.full &&& ~~~(BitVec.ofNat 64 (2 ^ i)), rels := (r.rels + 1) % r.modulus }
    .done (s.resumeCopies c o) g
def ringReleaseProbe : Probe := objProbe true (fun _ _ _ => none) ringReleaseOp

/-- The image that `ring.state` writes (R211). -/
def Ring.stateImage (r : Ring) : DWord :=
  BitVec.ofNat 64 (popcount r.full % 128 + r.fills % r.count % 256 * 2 ^ 8 + r.claims % r.count % 256 * 2 ^ 16 +
    r.rels % r.count % 256 * 2 ^ 24 + (if r.ovr then 2 ^ 32 else 0) + (if r.strict then 2 ^ 33 else 0))
/-- `ring.state` (R211). -/
def ringStateOp (d : SReg) : ObjOp := onRing fun s g _ _ _ r =>
  .done s (g.writeS s.freeNo (s.clock g.core) 0 d r.stateImage)
def ringStateProbe (d : SReg) : Probe := objProbe false (fun _ _ _ => none) (ringStateOp d)

/-- `ring.init` (R207). -/
def execRingInit (n0 : Stall) (d a : SReg) (n : Fin 64) (strict : Bool) (size : BitVec 24) (s : State) :
    Host.Outcome State Fault Refusal :=
  runObj { stall := n0, ext := true, reads := [.s a], writes := [.s d] } (.ringInit n0 d a n strict size) (some a)
    (ringInitProbe d n strict size) s
/-- `ring.fill` (R208). -/
def execRingFill (n0 : Stall) (a : SReg) (s : State) : Host.Outcome State Fault Refusal :=
  runObj { stall := n0, reads := [.s a] } (.ringFill n0 a) (some a) ringFillProbe s
/-- `ring.await` (R209). -/
def execRingAwait (n0 : Stall) (d a : SReg) (s : State) : Host.Outcome State Fault Refusal :=
  runObj { stall := n0, reads := [.s a], writes := [.s d] } (.ringAwait n0 d a) (some a) (ringAwaitProbe d) s
/-- `ring.release` (R210). -/
def execRingRelease (n0 : Stall) (a : SReg) (s : State) : Host.Outcome State Fault Refusal :=
  runObj { stall := n0, reads := [.s a] } (.ringRelease n0 a) (some a) ringReleaseProbe s
/-- `ring.state` (R211). -/
def execRingState (n0 : Stall) (d a : SReg) (s : State) : Host.Outcome State Fault Refusal :=
  runObj { stall := n0, reads := [.s a], writes := [.s d] } (.ringState n0 d a) (some a) (ringStateProbe d) s

/-! ## `mwait` (R214) -/

/-- `mwait` (R214): a deposit on the gang's monitor, with an optional timeout; trap 0x0C with info 1 without a monitor. -/
def execMwait (n0 : Stall) (n : BitVec 32) (s : State) : Host.Outcome State Fault Refusal :=
  runWord { stall := n0, ext := true } (fun s' g _ =>
    match (s'.cc g.core).mons.find? fun m => m.gang = g.key with
    | none => .error ⟨0x0C, 1⟩
    | some m =>
      let (s1, g) := s'.deposit g.atFall 1
        { wake := 5, object := BitVec.ofNat 16 m.num.val, wtick := if n = 0 then 0 else tickOf (s'.now + n.toNat) }
      let s1 := s1.putGang g
      let s1 := if m.hit then s1.makeEligible g.key (tickOf s1.now) else s1
      .ok (s1, (s1.gang? g.key).getD g)) s

end Sys2Proof.Machine
end

