-- ==== Sys2Proof/Machine/Copy.lean ====
section
/-!
DEFINITION. Copy channels (R217 to R232): the slice descriptor and its checks, joining a command, the booking of rows, their
reads, writes and landings, holding and booking again, `cwp`.
-/
namespace Sys2Proof.Machine

/-! ## The descriptor (R218 to R220) -/

/-- A slice descriptor's fields (R218). -/
structure Desc where
  slices : Nat
  slice  : Nat
  group  : Nat
  bv     : Bool
  bar    : BReg
  dkind  : Nat
  skind  : Nat
  soff   : Nat
  doff   : Nat
  sh     : Nat
  dh     : Nat
  dcore  : Nat
  dcrew  : BitVec 16
  len    : Nat
  ring   : Nat
deriving DecidableEq, Repr

def Desc.read (d : Nat → DWord) : Desc :=
  { slices := bits (d 0) 63 56, slice := bits (d 0) 55 48, group := bits (d 0) 47 40, bv := bits (d 0) 39 39 = 1
    bar := ⟨bits (d 0) 36 32 % 32, Nat.mod_lt _ (by decide)⟩, dkind := bits (d 0) 3 2, skind := bits (d 0) 1 0
    soff := bits (d 1) 47 0, doff := bits (d 2) 47 0, sh := bits (d 3) 63 44, dh := bits (d 3) 43 24
    dcore := bits (d 4) 63 56, dcrew := BitVec.ofNat 16 (bits (d 4) 55 40), len := bits (d 4) 31 0, ring := bits (d 5) 31 0 }

/-- The limits of R218 and R220 on a descriptor's fields. -/
def Desc.legal (x : Desc) (d : Nat → DWord) : Bool :=
  bits (d 0) 38 37 = 0 && bits (d 0) 31 4 = 0 && bits (d 1) 63 48 = 0 && bits (d 2) 63 48 = 0 && bits (d 3) 23 0 = 0 &&
  bits (d 4) 39 32 = 0 && bits (d 5) 63 32 = 0 && d 6 = 0 && d 7 = 0 &&
  x.skind ≤ 1 && x.dkind != 3 && 1 ≤ x.slices && x.slices ≤ 32 && x.slice < x.slices && x.group ≤ 31 &&
  (x.dkind != 2 || x.doff = 0) && (x.skind = 0 || x.sh = 0) && (x.dkind = 0 || x.dh = 0) &&
  (x.dkind != 0 || (x.dcore = 0 && x.dcrew = 0)) && (x.dkind = 2 || x.ring = 0)

/-- The destination crew of a descriptor (R218): on the physical core that its logical core maps to, of the same launch. -/
def State.destCrew (s : State) (cid : CtxId) (l : LaunchId) (dcore : Nat) (dcrew : BitVec 16) : Option Crew :=
  match s.ctx? cid, s.crew? ⟨l, dcrew⟩ with
  | some c, some d => if d.core = vget c.map dcore then some d else none
  | _, _ => none

/-- The pages of a buffer range, as 32-byte accesses that begin in them. -/
def pageAccesses (base off len : Nat) : List Access :=
  if len = 0 then []
  else
    let first := (base + off) / 65536
    let last := (base + off + len - 1) / 65536
    (⟨0, off, 32⟩ : Access) :: ((List.range (last - first)).map fun (i : Nat) =>
      (⟨0, ((first + i + 1) * 65536 : Int) - base, 32⟩ : Access)) ++ [⟨0, (off : Int) + len - 32, 32⟩]

/-- The check of a range in a buffer (R220): the port's checks, with `info` in place of a lane. -/
def State.checkRange (s : State) (k : CoreId) (c : Ctx) (h : Nat) (need : Need) (off len : Nat) (info : Word) :
    Except Trap (Vector DWord 8) :=
  let base := match s.usableRec c h with | some b => Buf.base b | none => 0
  match s.portCheck k c h need (pageAccesses base off len) with
  | .ok b => .ok b
  | .error t => .error ⟨t.cause, info⟩

/-- The translations of a range's pages that are there, and the virtual addresses of the pages that are not. -/
def State.rangeMap (s : State) (k : CoreId) (c : Ctx) (b : Vector DWord 8) (off len : Nat) : List TlbEntry × List Nat :=
  let vas := (pageAccesses (Buf.base b) off len).map fun x => Buf.base b + x.off.toNat
  (vas.filterMap fun v => s.translate k c v, vas.filter fun v => (s.translate k c v).isNone)

/-! ## Commands -/

/-- The slices that have arrived are all that slice 0 names (R219, R221). -/
def CopyCmd.whole (x : CopyCmd) : Bool := (List.range x.slices).all fun i => x.parts.any fun p => p.index = i
/-- A command that still waits for slices. -/
def CopyCmd.gathering (x : CopyCmd) : Bool := !x.done && !(x.slices != 0 && x.whole)

def State.cmd? (s : State) (k : CoreId) (c : CrewKey) (g : Nat) : Option CopyCmd :=
  (s.cc k).cmds.find? fun x => x.crew = c && x.group.val = g
/-- The core on which a crew's command stands: its own, or another after a migration (R228). -/
def State.cmdCore (s : State) (k : CoreId) (c : CrewKey) (g : Nat) : CoreId :=
  if (s.cmd? k c g).isSome then k
  else ((List.finRange 256).find? fun j => (s.cmd? j c g).isSome).getD k
def State.putCmd (s : State) (k : CoreId) (x : CopyCmd) : State :=
  let cc := s.cc k
  s.setCc k { cc with cmds := cc.cmds.map fun y => if y.crew = x.crew && y.group = x.group then x else y }

/-- The commands that a core's channels are carrying out, in ascending channel number (R222). -/
def State.running (s : State) (k : CoreId) : List CopyCmd :=
  (List.finRange 8).filterMap fun ch => (s.cc k).cmds.find? fun x => x.chan = some ch && !x.done

/-- Entries of a core's command FIFO that are taken (R217). -/
def State.fifoUsed (s : State) (k : CoreId) : Nat := ((s.cc k).cmds.filter fun x => x.entry).length

/-- The request of the slice that opened a command, by which entries of the agenda name it. -/
def CopyCmd.first (x : CopyCmd) : Nat := (x.parts.map fun p => p.req).headD 0

/-- Whether a request of a command is held. -/
def State.cmdHeld (s : State) (x : CopyCmd) : Bool :=
  x.parts.any fun p => match s.req? p.req with | some r => r.held.isSome | none => false

/-- A command is complete once its slices have all arrived and none is held, in the clock `n` whose tick is `tick`; the channels look at
it in the next clock (R221, R222, R232). -/
def State.testComplete (s : State) (k : CoreId) (c : CrewKey) (g tick n : Nat) : State :=
  match s.cmd? k c g with
  | none => s
  | some x =>
    if x.gathering || s.cmdHeld x || x.complete.isSome then s
    else (s.putCmd k { x with complete := some (tick, n) }).dueIn k (n + 1) 3 (.ev .channelTakeCommand) { EvArg.none with core := k }

/-- A command that a slice opens (R220). -/
def CopyCmd.opened (g : Fin 32) (c : CrewKey) : CopyCmd :=
  { group := g, crew := c, slices := 0, bv := false, bar := 0, dkind := 0, dcore := 0, dcrew := 0, ring := 0, rel := false
    scope := .crew, parts := [], complete := none, entry := true, chan := none, resume := false, halt := false, rows := []
    landed := 0, fillDone := 0, holding := false, done := false }

/-- What a `copy` found at its probe: the descriptor, its destination crew and the ranges. -/
structure CopyProbe where
  desc : Desc
  dest : Option Crew
  sRec : Vector DWord 8
  dRec : Vector DWord 8
  size : Nat

/-- The checks of R220 up to the ranges, in their order. -/
def State.copyCheck (s : State) (g : Gang) (c : Crew) (x : Ctx) (d : Nat) : Except Trap CopyProbe :=
  if d % 64 != 0 then .error ⟨0x08, 0⟩
  else if !c.holds d 64 then .error ⟨0x04, 0⟩
  else
    let dw := fun i => s.objDw c d i
    let y := Desc.read dw
    let dest := if y.dkind = 0 then none else s.destCrew g.ctx g.key.launch y.dcore y.dcrew
    let counts := if y.dkind = 0 then some c else dest
    if !y.legal dw then .error ⟨0x01, 0⟩
    else if y.dkind != 0 && dest.isNone then .error ⟨0x04, 2⟩
    else if y.bv && (match counts with | some z => z.bars ≤ y.bar.val | none => false) then .error ⟨0x01, 0⟩
    else if y.bv && (match counts with | some z => !z.holds z.bind[y.bar] 16 | none => false) then .error ⟨0x04, 2⟩
    else if y.soff % 32 != 0 || y.doff % 32 != 0 || y.len % 32 != 0 then .error ⟨0x08, 0⟩
    else
      let ring := dest.bind fun z => (s.ringAt z y.ring).map fun _ => s.ring z y.ring
      let size := match ring with | some r => r.size | none => 0
      if y.dkind = 2 && ring.isNone then .error ⟨0x04, 2⟩
      else if y.dkind = 2 && y.len % size != 0 then .error ⟨0x08, 2⟩
      else
        let k := g.core
        let none8 : Vector DWord 8 := Vector.replicate 8 0
        match (if y.skind = 0 then s.checkRange k x y.sh .read y.soff y.len 1
               else if c.holds y.soff y.len then .ok none8 else .error ⟨0x04, 1⟩) with
        | .error t => .error t
        | .ok sr =>
          match (match y.dkind, dest with
                 | 0, _ => s.checkRange k x y.dh .write y.doff y.len 2
                 | 1, some z => if z.holds y.doff y.len then .ok none8 else .error ⟨0x04, 2⟩
                 | _, _ => .ok none8) with
          | .error t => .error t
          | .ok dr => .ok ⟨y, dest, sr, dr, size⟩

/-- The requests that the reads of a slice with `.rel` follow (R226): the gang's accesses at the copy's scope, and its
writes to device memory at their homes. -/
def State.copyOrders (s : State) (g : Gang) (sc : Scope) (rel : Bool) : List (Nat × Scope) :=
  if rel then
    let own := s.reqs.filter fun x => x.of g.key && x.access
    own.map (fun x => (x.id, sc)) ++ (own.filter fun x => x.writes && x.device).map (fun x => (x.id, Scope.sys)) ++
      (own.filter fun x => x.writes && x.cached).map (fun x => (x.id, Scope.dev))
  else []

/-- The buffer that a slice whose own DKIND is not 0 still names as its destination, where its range there would pass the checks: its
command's DKIND may be 0 (R219, assumption row 128). -/
def State.spareRange (s : State) (k : CoreId) (c : Ctx) (y : Desc) : Vector DWord 8 :=
  match s.checkRange k c y.dh .write y.doff y.len 2 with | .ok b => b | .error _ => Vector.replicate 8 0

/-- How a slice is held while a side of it is not ready or not reachable (R395, R400): class 1 with ticket 0 goes first. -/
def State.sidesHeld (s : State) (src dst : Bool) (sb db : Vector DWord 8) : Option (HeldClass × Word) :=
  let a := if src then s.bufHeld sb else none
  let b := if dst then s.bufHeld db else none
  match a, b with
  | some (.page, t), _ => some (.page, t)
  | _, some (.page, t) => some (.page, t)
  | some h, _ => some h
  | none, h => h

/-- The probe of `copy` (R220, R221). -/
def copyProbe (a : SReg) (t : TReg) (sc : Scope) (rel : Bool) : Probe := fun first f s g pc =>
  match s.crew? g.crewKey, s.ctx? g.ctx with
  | some c, some x =>
    let k := g.core
    let d := (lowWord (g.readS f (s.clock k) a)).toNat
    match s.copyCheck g c x d with
    | .error t => .trap t
    | .ok p =>
      let y := p.desc
      let vas := fun (b : Vector DWord 8) (off : Nat) => (pageAccesses (Buf.base b) off y.len).map fun z => Buf.base b + z.off.toNat
      let sv := if y.skind = 0 then vas p.sRec y.soff else []
      let dv := if y.dkind = 0 then vas p.dRec y.doff else []
      let sm := s.misses k x y.sh sv false
      let dm := s.misses k x y.dh dv true
      let sMiss := y.skind = 0 && !sm.blank
      let dMiss := y.dkind = 0 && !dm.blank
      let (q, qclk) := s.nextClock k
      if first && (sMiss || dMiss) then
        let (s, t1) := if sMiss then s.probeTick k x y.sh sm else (s, q)
        let (s, t2) := if dMiss then s.probeTick k x y.dh dm else (s, q)
        .wait s g (max t1 t2) 0x11
      else if 1024 < s.promisesUsed k + 1 then .wait s g (q + 1) 0x12
      else
        let at_ := s.cmdCore k c.key y.group
        let old := s.cmd? at_ c.key y.group
        let gathering := match old with | some z => z.gathering | none => false
        let busy := match old with | some z => !z.gathering && !z.done | none => false
        if gathering && (match old with | some z => z.parts.any fun w => w.index = y.slice | none => false) then
          .trap ⟨0x0D, BitVec.ofNat 32 (0x100 + y.group)⟩
        else if busy then .trap ⟨0x0D, BitVec.ofNat 32 (0x200 + y.group)⟩
        else if !gathering && 32 ≤ s.fifoUsed k then
          let front := match g.sel with | some e => frontInsert e g.front | none => g.front
          let (s, g) := s.deposit { g with front := front, sel := none, clause := none } 1 { wake := 7 }
          .done s g
        else
          let s := if y.skind = 0 then s.settleProbe k x y.sh sv false else s
          let s := if y.dkind = 0 then s.settleProbe k x y.dh dv true else s
          let (sMap, sGone) := if y.skind = 0 then s.rangeMap k x p.sRec y.soff y.len else ([], [])
          let dRec := if y.dkind = 0 then p.dRec else s.spareRange k x y
          let (dMap, dGone) := s.rangeMap k x dRec y.doff y.len
          let notReady := s.sidesHeld (y.skind = 0) (y.dkind = 0) p.sRec p.dRec
          let (s, held) : State × Option (HeldClass × Word) := match notReady, sGone ++ (if y.dkind = 0 then dGone else []) with
            | some (.page, t), _ => (s, some (.page, t))
            | _, v :: _ => (let (s, n) := s.pageTicket x.id k (v / 65536); (s, some (.page, n)))
            | h, [] => (s, h)
          let id := s.own.nextReq
          let lane := (s.core k).laneFree
          let s := s.addReq { Req.base g pc t q qclk with
            effect := .copy ⟨y.group % 32, Nat.mod_lt _ (by decide)⟩, handle := if y.skind = 0 then y.sh else 0, scope := sc
            prom := openTick q, arrive := openTick q, perf := openTick q, level := 9, held := held
            start := if y.skind = 1 then s.edgeTick k lane else 0, after := s.copyOrders g sc rel }
          let part : CopySlice := ⟨y.slice, g.key, id, y.skind, y.soff, y.doff, y.sh, y.dh, y.len, sMap, dMap, p.sRec, dRec, y.dkind = 0⟩
          let fresh := { CopyCmd.opened ⟨y.group % 32, Nat.mod_lt _ (by decide)⟩ c.key with rel := rel, scope := sc }
          let z := match old with | some z => if z.gathering then z else fresh | none => fresh
          let z := { z with parts := z.parts ++ [part] }
          let z := if y.slice = 0 then
              { z with slices := y.slices, bv := y.bv, bar := y.bar, dkind := y.dkind, dcore := y.dcore, dcrew := y.dcrew
                       ring := y.ring, scope := sc }
            else z
          let mine := fun (w : CopyCmd) => w.crew = z.crew && w.group = z.group
          let s := s.setCc at_ { s.cc at_ with cmds := (s.cc at_).cmds.filter fun w => !mine w }
          let s := s.setCc k { s.cc k with cmds := z :: (s.cc k).cmds.filter fun w => !mine w }
          .done (s.testComplete k c.key y.group q qclk) ((s.joinT g t true q).passedIn qclk)
  | _, _ => .done s g

/-- `copy` (R220). -/
def execCopy (n0 : Stall) (a : SReg) (t : TReg) (sc : Scope) (rel : Bool) (s : State) : Host.Outcome State Fault Refusal :=
  runProbe { stall := n0, ext := true, kind := .copy, reads := [.s a] } (.copy n0 a t sc rel) (copyProbe a t sc rel) s

/-- The image that `cwp` writes (R225). -/
def CopyCmd.progress (x : CopyCmd) : DWord :=
  BitVec.ofNat 64 (x.landed % 2 ^ 48 + (if x.done then 2 ^ 63 else 0))

/-- `cwp` (R225). -/
def execCwp (n0 : Stall) (d a : SReg) (s : State) : Host.Outcome State Fault Refusal :=
  runWord { stall := n0, kind := .copy, reads := [.s a], writes := [.s d] } (fun s' g _ =>
    let n := bits (s.sread g a) 4 0
    let v := match s'.cmd? (s'.cmdCore g.core g.crewKey n) g.crewKey n with | some x => x.progress | none => 0
    .ok (s', g.writeS s.freeNo (s.clock g.core) 2 d v)) s

/-! ## Rows (R223) -/

/-- A copied range line by line: the line's offset, the first byte's offset, the bytes, the place in the row. -/
def linesOf (off len : Nat) : List (Nat × Nat × Nat × Nat) :=
  if len = 0 then []
  else (List.range ((off + len - 1) / 128 - off / 128 + 1)).map fun i =>
    let line := (off / 128 + i) * 128
    let a := max off line
    (line, a, min (off + len) (line + 128) - a, a - off)

/-- The line of a buffer at an offset, as a booking sees it, by translations made at the probe. -/
def bufLine (b : Vector DWord 8) (es : List TlbEntry) (c : CtxId) (line a n : Nat) (write : Bool) : LineAt :=
  let home := homeOf b line
  let va := Buf.base b + line
  let pa := match es.find? fun e => e.covers c va with | some e => e.map va | none => 0
  let cover := (List.range n).map fun i => a - line + i
  { home := home, line := homeKey home pa, bank := bankOf (match home with | .cap .. => true | _ => false) line
    need := touchedSectors cover, whole := if write then wholeSectors cover else 0, ctype := BitVec.ofNat 8 (Buf.ctype b) }

/-- The lines of a buffer range whose pages are there. -/
def sideLines (b : Vector DWord 8) (es : List TlbEntry) (c : CtxId) (off len : Nat) : List (Nat × Nat × Nat × Nat) :=
  (linesOf off len).filter fun l => es.any fun e => e.covers c (Buf.base b + l.1)

/-- The port of a home outside the device, with its allowance (R58, R396). -/
def State.portOf (s : State) (home : Home) : Option (Port × Nat) :=
  match home with
  | .host => some (.host, s.sys.hostAlw.toNat)
  | .peer p => let k := (s.linkTo p).getD 0; some (.fab k, s.sys.fabAlw[k].toNat)
  | _ => none

/-- One side of a row booked: the state, the last arrival or performance, the tick of each line, the slots. -/
structure SideBooked where
  s     : State
  t     : Nat
  ticks : List Nat
  slots : List Slot

/-- Books the lines of one side of a row from tick `t`, not before `floor` (R55, R420). -/
def State.bookSide (s : State) (d : Fin 4) (b : Vector DWord 8) (es : List TlbEntry) (c : CtxId) (off len : Nat)
    (write : Bool) (t floor : Nat) : SideBooked :=
  (sideLines b es c off len).foldl (fun (x : SideBooked) l =>
    let a := bufLine b es c l.1 l.2.1 l.2.2.1 write
    match x.s.portOf a.home with
    | some (p, alw) =>
      let y := bookPath (x.s.hier.prune x.s.now) (max t floor) (portStages d p alw l.2.2.1 write)
      let done := if write then y.perf else y.t + dieTicks
      ⟨x.s.setHier y.h, max x.t done, x.ticks ++ [done], x.slots ++ y.slots⟩
    | none =>
      let y := x.s.bookLine (some d) a (if write then .write else .read) false t floor
      let s := match y.tag, a.home with | true, .cap _ ch => y.s.armTag 0 ch a.line y.b.path y.b.slots | _, _ => y.s
      let done := if write then y.b.perf else y.b.t + dieTicks
      ⟨s, max x.t done, x.ticks ++ [y.b.perf], x.slots ++ y.b.slots⟩) ⟨s, t, [], []⟩

/-- Ends the holds of a row's lines (R59). -/
def State.releaseSide (s : State) (b : Vector DWord 8) (es : List TlbEntry) (c : CtxId) (off len : Nat) : State :=
  if 2 ≤ Buf.tier b then s
  else (sideLines b es c off len).foldl (fun s l => s.release (bufLine b es c l.1 l.2.1 l.2.2.1 false).line) s

/-- The tick at which data at core `a` at tick `t` reaches core `b` (R223), and its die-link slots. -/
def hop (h : Hier) (a b : CoreId) (t : Nat) : Hier × Nat × List Slot :=
  if a = b then (h, t, [])
  else
    let y := bookPath h t (links (dieOf a) (dieOf b))
    (y.h, y.t + 4, y.slots)

/-- The arguments of an entry for a row of a command, for booking `v` of its read or of its landing. -/
def rowArg (k : CoreId) (x : CopyCmd) (r : CopyRow) (v : Nat) (pairs : List (Nat × Nat)) : EvArg :=
  { EvArg.none with core := k, key := ⟨x.crew.launch, x.crew.crew, 0⟩, req := x.first, n := x.group.val, m := r.no, pairs := pairs
                    v := BitVec.ofNat 64 v }

/-- The crew into whose partition or ring a command copies. -/
def State.cmdDest (s : State) (x : CopyCmd) : Option Crew :=
  if x.dkind = 0 then none else s.crew? ⟨x.crew.launch, x.dcrew⟩

/-- Whether the destination crew of a command is on the move (R228). -/
def State.destMoves (s : State) (x : CopyCmd) : Option Word :=
  (s.cmdDest x).bind fun d => d.mig.bind fun m => if m.stage = .moving then some m.seq else none

/-- Whether the destination crew of a command is saved (R229). -/
def State.destSaved (s : State) (x : CopyCmd) : Bool := match s.cmdDest x with | some d => !d.resident | none => false

/-- The context of a command's crew. -/
def State.cmdCtx (s : State) (k : CoreId) (x : CopyCmd) : CtxId :=
  match s.crew? x.crew with | some c => c.ctx | none => ((s.core k).active).getD 0

/-- The core that the data of a row reaches: the destination crew's, or the channel's own; for a partition, the core on which it lies. -/
def State.rowCore (s : State) (k : CoreId) (x : CopyCmd) (p : CopySlice) : CoreId :=
  if p.skind = 0 then (match s.cmdDest x with | some c => c.core | none => k)
  else (match s.crew? x.crew with | some c => c.core | none => k)

/-- Whether every byte of a row has been read. -/
def CopyRow.filled (r : CopyRow) : Bool := r.got.foldl (fun n z => n + z.2.length) 0 ≥ r.len

/-- Each line of a side: its tick, the buffer offset of its first byte, that byte's place in the row, its bytes. -/
def lineTicks (ls : List (Nat × Nat × Nat × Nat)) (ticks : List Nat) : List (Nat × Nat × Nat × Nat) :=
  (ls.zip ticks).map fun z => (z.2, z.1.2.1, z.1.2.2.2, z.1.2.2.1)

/-- The slots of a command into a ring are given back at once: the channel books nothing for it (R223). -/
def State.unbookRing (s s0 : State) (x : CopyCmd) : State :=
  if x.dkind = 2 then (s.setHier s0.hier).setCores s0.cores else s

/-- Books the read of a row from tick `t` (R223, R226), unless all of it has been read. -/
def State.readRow (s : State) (k : CoreId) (x : CopyCmd) (p : CopySlice) (row : CopyRow) (t : Nat) : State × CopyRow :=
  let floor := match s.req? p.req with | some r => s.floorTick r | none => 0
  let row := { row with gen := row.gen + 1, slots := [] }
  let kept := fun (ss : List Slot) => if x.dkind = 2 then [] else ss
  if row.filled then (s, { row with dataAt := max t row.dataAt })
  else if p.skind = 0 then
    let off := p.soff + row.off
    let y := s.bookSide (dieOf (s.rowCore k x p)) p.sRec p.sMap (s.cmdCtx k x) off row.len false t (max t floor)
    let row := { row with dataAt := y.t, slots := kept y.slots, alw := match s.portOf (homeOf p.sRec off) with | some a => a.2 | none => 0 }
    let s := if 2 ≤ Buf.tier p.sRec then y.s.schedule y.t .pathAllowanceOverrun { rowArg k x row row.gen [] with flag := true }
      else (lineTicks (sideLines p.sRec p.sMap (s.cmdCtx k x) off row.len) y.ticks).foldl
        (fun s z => s.scheduleTask ⟨z.1, 0, .rowRead, rowArg k x row row.gen [(z.2.1, z.2.2.1), (z.2.2.2, 0)]⟩) y.s
    (s, row)
  else
    let c := s.rowCore k x p
    let (s, n) := s.bookPlane c (s.clockFrom c (max t floor))
    (s.dueIn c n 0 .rowRead (rowArg k x row row.gen [(p.soff + row.off, 0), (row.len, 0)]),
     { row with dataAt := s.edgeTick c n, dataClk := n })

/-- Books the landing of a row whose data is there, after the row before, which lands at tick `prev.1`, in a partition in clock `prev.2`
(R223, R224). -/
def State.landRow (s : State) (k : CoreId) (x : CopyCmd) (p : CopySlice) (row : CopyRow) (prev : Nat × Nat) : State × CopyRow :=
  let at_ := s.rowCore k x p
  let row := { row with turn := row.turn + 1 }
  if x.dkind = 0 then
    let off := p.doff + row.off
    let y := s.bookSide (dieOf at_) p.dRec p.dMap (s.cmdCtx k x) off row.len true row.dataAt row.dataAt
    let row := { row with ready := y.t, landAt := max y.t prev.1, landClk := 0, back := y.slots }
    let s := (lineTicks (sideLines p.dRec p.dMap (s.cmdCtx k x) off row.len) y.ticks).foldl
      (fun s z => s.scheduleTask ⟨z.1, 2, .rowWrite, rowArg k x row row.turn [(z.2.1, z.2.2.1), (z.2.2.2, 0)]⟩) y.s
    (s.scheduleTask ⟨row.landAt, 2, .ev .copyRowLanding, rowArg k x row row.turn []⟩, row)
  else
    let c := match s.cmdDest x with | some c => c.core | none => k
    let (h, t, sl) := hop (s.hier.prune s.now) at_ c row.dataAt
    let own := if p.skind = 1 && at_ = c then row.dataClk + 1 else 0
    let (s, n) := (s.setHier h).bookPlane c (max (max (s.clockFrom c t) own) (prev.2 + 1))
    let row := { row with ready := t, landAt := s.edgeTick c n, landClk := n, back := if x.dkind = 2 then [] else sl }
    (s.dueIn c n 2 (.ev .copyRowLanding) (rowArg k x row row.turn []), row)

/-- Books rows one after another, each its read and then its landing (R223); of a command into a ring, only the first. -/
def State.bookRows (s : State) (k : CoreId) (x : CopyCmd) (t : Nat) : List CopyRow → Nat × Nat → State × List CopyRow
  | [], _ => (s, [])
  | r :: rs, prev =>
    match x.parts.find? fun p => p.index = r.slice with
    | none => (s, r :: rs)
    | some p =>
      let (s1, r) := s.readRow k x p r t
      let (s1, r) := s1.landRow k x p r prev
      let s1 := s1.unbookRing s x
      if x.dkind = 2 then (s1, r :: rs)
      else
        let (s, rs) := s1.bookRows k x t rs (r.landAt, r.landClk)
        (s, r :: rs)

/-- The rows of a command (R223): slice by slice, 256 bytes each, the rest of a slice shorter. -/
def CopyCmd.cut (x : CopyCmd) : List CopyRow :=
  let pieces := (List.range x.slices).flatMap fun i => match x.parts.find? fun p => p.index = i with
    | none => []
    | some p => (List.range (ceilDiv p.len 256)).map fun j => (i, 256 * j, min 256 (p.len - 256 * j))
  (pieces.zip (List.range pieces.length)).map fun z =>
    { no := z.2, slice := z.1.1, off := z.1.2.1, len := z.1.2.2, dataAt := 0, dataClk := 0, alw := 0, got := [], slots := [], gen := 0
      ready := 0, landAt := 0, landClk := 0, back := [], turn := 0 }

/-- Gives the requests of a command a new promise (R221). Where `cause` is given it is a break (R63). -/
def State.promiseCmd (s : State) (x : CopyCmd) (prom : Nat) (cause : Option BreakCause) : State :=
  x.parts.foldl (fun s p => match s.req? p.req with
    | none => s
    | some r =>
      let r' := { r with prom := prom, arrive := prom }
      let s := s.putReq r'
      match cause with
      | some b => if r.prom < prom then s.breakEffects r' b 9 r.prom
                  else s.refreshOf r
      | none => s.refreshOf r) s

/-- Holds the requests of a command (R68, R228). -/
def State.holdCmd (s : State) (x : CopyCmd) (cls : HeldClass) (ticket : Word) : State :=
  x.parts.foldl (fun s p => s.holdReq p.req cls ticket 64) s

/-- A clock of a core's plane port that is booked no more. -/
def State.freePlane (s : State) (c : CoreId) (n : Nat) : State :=
  s.setCore c { s.core c with plane := (s.core c).plane.filter fun x => x != n }

/-- Gives the booking of a row's landing back, with the holds of its lines (R59, R63). -/
def State.unlandRow (s : State) (k : CoreId) (x : CopyCmd) (p : CopySlice) (r : CopyRow) : State × CopyRow :=
  let s := s.setHier (s.hier.free r.back)
  let s := if x.dkind = 0 then (if r.back.isEmpty then s else s.releaseSide p.dRec p.dMap (s.cmdCtx k x) (p.doff + r.off) r.len)
    else match x.dkind, s.cmdDest x with | 1, some c => s.freePlane c.core r.landClk | _, _ => s
  (s, { r with back := [], landAt := 0, landClk := 0, turn := r.turn + 1 })

/-- Gives the bookings of some rows of a command back (R59, R63). -/
def State.unbookRows (s : State) (k : CoreId) (x : CopyCmd) : List CopyRow → State × List CopyRow
  | [] => (s, [])
  | r :: rs =>
    match x.parts.find? fun p => p.index = r.slice with
    | none => (s, r :: rs)
    | some p =>
      let (s, r) := if r.landAt = 0 then (s, r) else s.unlandRow k x p r
      let s := s.setHier (s.hier.free r.slots)
      let s := if p.skind = 0 then (if r.slots.isEmpty then s else s.releaseSide p.sRec p.sMap (s.cmdCtx k x) (p.soff + r.off) r.len)
        else if x.dkind != 2 && !r.filled then s.freePlane (s.rowCore k x p) r.dataClk else s
      let (s, rs) := s.unbookRows k x rs
      (s, { r with slots := [], gen := r.gen + 1 } :: rs)

/-- Gives the requests of a command whose rows are all booked the tick at which the last one lands (R221). -/
def State.promiseRows (s : State) (x : CopyCmd) (cause : Option BreakCause) : State :=
  if x.dkind = 2 || x.rows.any fun r => r.landAt = 0 then s
  else s.promiseCmd x (x.rows.foldl (fun n r => max n r.landAt) s.now) cause

/-- Books the remaining rows of a command on its channel, from tick `t` (R223, R228, R229); of one that a save has stopped, only those that
were booked. A ring's requests keep their open tick. -/
def State.bookCmd (s : State) (k : CoreId) (x : CopyCmd) (t : Nat) (cause : Option BreakCause) : State :=
  let (go, stay) := if x.halt then x.rows.partition fun r => r.landAt != 0 else (x.rows, [])
  let (s, go) := s.unbookRows k x go
  let (s, go) := s.bookRows k x t go (t, 0)
  let x := { x with rows := go ++ stay, holding := false }
  (s.putCmd k x).promiseRows x cause

/-- Books again the landings of booked rows which `force` names, and of those that must follow them (R224). -/
def State.relandRows (s : State) (k : CoreId) (x : CopyCmd) (force : CopyRow → Bool) : List CopyRow → Nat × Nat → State × List CopyRow
  | [], _ => (s, [])
  | r :: rs, prev =>
    match x.parts.find? fun p => p.index = r.slice with
    | none => (s, r :: rs)
    | some p =>
      let (s, r) : State × CopyRow :=
        if r.landAt = 0 then (s, r)
        else if force r || (x.dkind != 0 && r.landClk ≤ prev.2) then
          let (s1, r) := s.unlandRow k x p r
          let (s2, r) := s1.landRow k x p r prev
          (s2.unbookRing s1 x, r)
        else if x.dkind = 0 && r.landAt != max r.ready prev.1 then
          let r := { r with landAt := max r.ready prev.1 }
          (s.scheduleTask ⟨r.landAt, 2, .ev .copyRowLanding, rowArg k x r r.turn []⟩, r)
        else (s, r)
      let (s, rs) := s.relandRows k x force rs (r.landAt, r.landClk)
      (s, r :: rs)

/-- Books the landings of some rows of a command again; its requests follow. -/
def State.relandCmd (s : State) (k : CoreId) (x : CopyCmd) (force : CopyRow → Bool) (cause : BreakCause) : State :=
  let (s, rows) := s.relandRows k x force x.rows (0, 0)
  let x := { x with rows := rows }
  (s.putCmd k x).promiseRows x (some cause)

/-- The slices of a command with `.rel` whose rows are booked to be read before what they follow has been performed: the command is booked
again (R226, R328). -/
def State.copyAgainDue (s : State) : State :=
  match s.req? s.arg.req with
  | none => s
  | some r => match r.effect with
    | .copy g =>
      let k := s.cmdCore r.core (crewKeyOf r.owner) g.val
      (match s.cmd? k (crewKeyOf r.owner) g.val with
       | some x =>
         let floor := s.floorTick r
         let mine := fun (i : Nat) => x.parts.any fun p => p.index = i && p.req = r.id
         let early := x.rows.any fun y => mine y.slice && y.landAt != 0 && !y.filled && (y.dataAt < floor || y.slots.any fun z => z.tick < floor)
         if x.chan.isSome && !x.done && early && !s.cmdHeld x then s.bookCmd k x s.now (some s.arg.cause) else s
       | none => s)
    | _ => s

/-- The end of a command: its requests settle, its channel and crews are free of it (R224, R100). -/
def State.endCmd (s : State) (k : CoreId) (x : CopyCmd) : State :=
  let s := s.putCmd k { x with done := true, chan := none, rows := [], holding := false }
  let s := x.parts.foldl (fun s p => match s.req? p.req with | some r => s.land r | none => s) s
  let s := s.inClocks k 1 .channelTakeCommand { EvArg.none with core := k }
  (s.checkRetire x.crew).checkRetire ⟨x.crew.launch, x.dcrew⟩

/-- The order in which free channels take commands (R222, R229). -/
def cmdBefore (crewIndex : CrewKey → Nat) (a b : CopyCmd) : Bool :=
  let key := fun (x : CopyCmd) =>
    [(if x.resume then 0 else 1), (x.complete.getD (0, 0)).1, (x.complete.getD (0, 0)).2, x.group.val, crewIndex x.crew]
  key a < key b

/-- In the next clock a place in a core's command FIFO is free: that of a command, or of commands that have gone (R221, R227, R231). -/
def State.entryFrees (s : State) (k : CoreId) (x : Option CopyCmd) : State :=
  s.inClocks k 1 .channelTakeCommand (match x with
    | some x => { EvArg.none with core := k, key := ⟨x.crew.launch, x.crew.crew, 0⟩, n := x.group.val, req := x.first, flag := true }
    | none => { EvArg.none with core := k, flag := true })

/-- A channel takes a command: its rows are cut, or those that remain, and booked; an empty command lands at once. A channel whose
destination is saved holds the command until it comes back (R229). -/
def State.takeCmd (s : State) (k : CoreId) (ch : Fin 8) (x : CopyCmd) : State :=
  let fresh := !x.resume
  let x := { x with chan := some ch, resume := false, halt := s.destSaved x, rows := if fresh then x.cut else x.rows }
  let s := s.putCmd k x
  let s := if x.entry then s.entryFrees k (some x) else s
  if x.rows.isEmpty then s.endCmd k x
  else match s.destMoves x with
    | some sq => s.holdCmd x .migration sq
    | none => s.bookCmd k x s.now (if fresh then none else some .engine)

/-- Every free channel, in ascending number, takes the command that became complete earliest (R222). -/
def State.takeAll (s : State) (k : CoreId) : List (Fin 8) → State
  | [] => s
  | ch :: rest =>
    let cmds := (s.cc k).cmds
    if cmds.any fun x => x.chan = some ch then s.takeAll k rest
    else
      let can := cmds.filter fun x => x.chan.isNone && !x.done &&
        (match x.complete with | some (t, n) => t < s.now || n < s.clock k | none => false)
      let idx := fun (c : CrewKey) => match s.crew? c with | some y => y.index.toNat | none => 0
      match firstBy (cmdBefore idx) can with
      | none => s
      | some x => (s.takeCmd k ch x).takeAll k rest

/-- CHANNEL_TAKE_COMMAND (R222): free channels take complete commands; a clock later the entry of a taken command is free,
and the records that wait for one become eligible (R221, R227). -/
def execChannelTakeCommand (s : State) : Host.Outcome State Fault Refusal :=
  let a := s.arg
  let k := a.core
  if a.flag then
    let s := match s.cmd? k (crewKeyOf a.key) a.n with
      | some x => if x.first = a.req then s.putCmd k { x with entry := false } else s
      | none => s
    .next ((s.gangs.filter fun g => g.core = k && g.parked && g.hd.wake = 7).foldl
      (fun s g => s.makeEligible g.key (tickOf s.now)) s)
  else if (s.core k).stopped then .next s
  else .next (s.takeAll k (List.finRange 8))

/-! ## Reads and writes of rows -/

/-- The command and row that an agenda entry names, for the present booking of its read or (`land`) of its landing. -/
def State.rowOf (s : State) (land : Bool) : Option (CopyCmd × CopyRow × CopySlice) :=
  match s.cmd? s.arg.core (crewKeyOf s.arg.key) s.arg.n with
  | none => none
  | some x =>
    let mine := fun (r : CopyRow) => r.no = s.arg.m && BitVec.ofNat 64 (if land then r.turn else r.gen) = s.arg.v
    match x.rows.find? fun r => x.first = s.arg.req && mine r with
    | none => none
    | some r => (x.parts.find? fun p => p.index = r.slice).map fun p => (x, r, p)

def CopyCmd.withRow (x : CopyCmd) (r : CopyRow) : CopyCmd := { x with rows := x.rows.map fun y => if y.no = r.no then r else y }

/-- The read of one line of a row, or of a row of a partition, when it is performed (R315, R184). -/
def State.rowReadDue (s : State) : State :=
  match s.rowOf false, s.arg.pairs with
  | some (x, r, p), [(off, pos), (n, _)] =>
    let held := match s.req? p.req with | some q => q.held.isSome | none => false
    if x.chan.isNone || held || r.got.any fun z => z.1 = pos then s
    else
      let k := s.arg.core
      if p.skind = 0 then
        let a := bufLine p.sRec p.sMap (s.cmdCtx k x) (off / 128 * 128) off n false
        let from_ := a.line + off % 128
        match s.hier.fails.find? fun f => f.1 < from_ + n && from_ < f.1 + f.2.1 with
        | some f => s.holdReq p.req .error f.2.2 64
        | none => s.putCmd k (x.withRow { r with got := (pos, memBytes s.mem from_ n) :: r.got })
      else match s.crew? x.crew with
        | some c => s.putCmd k (x.withRow { r with got := (pos, memBytes (s.core c.core).spad (c.partBase + off) n) :: r.got })
        | none => s
  | _, _ => s

/-- `n` bytes of a row from place `pos`. -/
def CopyRow.bytes (r : CopyRow) (pos n : Nat) : List Byte :=
  (List.range n).map fun i =>
    match r.got.find? fun z => z.1 ≤ pos + i && pos + i < z.1 + z.2.length with
    | some z => z.2.getD (pos + i - z.1) 0
    | none => 0

/-- The write of one line of a row at its home (R224, R299). -/
def State.rowWriteDue (s : State) : State :=
  match s.rowOf true, s.arg.pairs with
  | some (x, r, p), [(off, pos), (n, _)] =>
    if x.chan.isNone || !r.filled then s
    else
      let a := bufLine p.dRec p.dMap (s.cmdCtx s.arg.core x) (off / 128 * 128) off n true
      (s.writeHome a.home a.line a.ctype [(a.line + off % 128, r.bytes pos n)]).writeThrough a.home a.line
  | _, _ => s

/-! ## Landing (R224) -/

/-- Lands bytes of a row in a ring's slots from its write slot onward; the answer counts the bytes landed before a full
slot stops it. `fuel` bounds the slots. -/
def State.landRing (s : State) (c : Crew) (o : Nat) (bs : List Byte) (fill : Nat) : Nat → State × Nat × Nat
  | 0 => (s, 0, fill)
  | fuel + 1 =>
    let r := s.ring c o
    let i := r.fills % r.count
    if bs.isEmpty || r.slotFull i || r.size = 0 then (s, 0, fill)
    else
      let n := min bs.length (r.size - fill)
      let co := s.core c.core
      let s := s.setCore c.core { co with spad := memWrite co.spad (c.partBase + r.base + i * r.size + fill) (bs.take n) }
      let (s, fill') := if fill + n = r.size then (s.fillRing c o r.num, 0) else (s, fill + n)
      let (s, m, fill'') := s.landRing c o (bs.drop n) fill' fuel
      (s, n + m, fill'')

/-- A row, or a part of it, has landed: bytes are counted, and the next row or the end of the command follows. -/
def State.rowLanded (s : State) (k : CoreId) (x : CopyCmd) (r : CopyRow) (n : Nat) (fill : Nat) : State :=
  let rest := x.rows.filter fun y => y.no != r.no
  let left : List CopyRow := if n = r.len then [] else [{ r with off := r.off + n, len := r.len - n, got := [(0, r.bytes n (r.len - n))] }]
  let x := { x with rows := left ++ rest, landed := x.landed + n, fillDone := fill, holding := !left.isEmpty }
  let s := s.putCmd k x
  let s := if n = r.len then s.count k 0x40 1 none none else s
  let s := if x.bv && n != 0 then
      s.barLand (if x.dkind = 0 then x.crew else ⟨x.crew.launch, x.dcrew⟩) x.bar n
    else s
  if !left.isEmpty then s
  else match rest with
    | [] => s.endCmd k x
    | y :: _ =>
      if x.dkind = 2 then
        (if x.halt then s
         else let (s, rows) := s.bookRows k x s.now rest (s.now, r.landClk); s.putCmd k { x with rows := rows })
      else if y.landAt != 0 && y.landAt ≤ s.now then
        s.scheduleTask ⟨s.now, 2, .ev .copyRowLanding, rowArg k x y y.turn []⟩
      else s

/-- COPY_ROW_LANDING (R224): the command's first row lands when its booked tick has come and its data is there; a row of a
ring lands slot by slot and is held at a full one. -/
def execCopyRowLanding (s : State) : Host.Outcome State Fault Refusal :=
  let k := s.arg.core
  match s.cmd? k (crewKeyOf s.arg.key) s.arg.n with
  | none => .next s
  | some x =>
    match x.rows with
    | [] => .next s
    | r :: _ =>
      let mine := s.arg.flag || (s.arg.m = r.no && s.arg.req = x.first && s.arg.v = BitVec.ofNat 64 r.turn)
      let early := s.now < r.landAt || (match s.cmdDest x with | some c => s.clock c.core < r.landClk | none => false)
      if x.chan.isNone || r.landAt = 0 || early || !r.filled || s.cmdHeld x || !mine then .next s
      else match x.parts.find? fun p => p.index = r.slice with
      | none => .next s
      | some p =>
        let cid := s.cmdCtx k x
        let s := if r.slots.isEmpty then s else s.releaseSide p.sRec p.sMap cid (p.soff + r.off) r.len
        match x.dkind, s.cmdDest x with
        | 0, _ =>
          let s := if r.back.isEmpty then s else s.releaseSide p.dRec p.dMap cid (p.doff + r.off) r.len
          .next (s.rowLanded k x r r.len 0)
        | 1, some c =>
          let co := s.core c.core
          let s := if c.holds (p.doff + r.off) r.len then
              s.setCore c.core { co with spad := memWrite co.spad (c.partBase + p.doff + r.off) (r.bytes 0 r.len) } else s
          .next (s.rowLanded k x r r.len 0)
        | _, some c =>
          let (s, n, fill) := s.landRing c x.ring (r.bytes 0 r.len) x.fillDone 64
          .next (s.rowLanded k x r n fill)
        | _, none => .next s

/-! ## Holds, moves and ends (R228 to R231) -/

/-- A slice that was held and whose walks have landed: once every page is there the request is no longer held and the command may be
complete (R68, R221). -/
def State.reprobeCopyDue (s : State) (r : Req) : State :=
  let g := match r.effect with | .copy g => g.val | _ => 0
  let k := s.cmdCore r.core (crewKeyOf r.owner) g
  match s.cmd? k (crewKeyOf r.owner) g, s.ctx? r.ctx with
  | some x, some c =>
    (match x.parts.find? fun p => p.req = r.id with
     | none => s
     | some p =>
       let (sMap, sGone) := if p.skind = 0 then s.rangeMap r.core c p.sRec p.soff p.len else ([], [])
       let (dMap, dGone) := s.rangeMap r.core c p.dRec p.doff p.len
       match s.sidesHeld (p.skind = 0) p.dbuf p.sRec p.dRec, sGone ++ (if p.dbuf then dGone else []) with
       | some h, _ => (s.putReq { r with held := some h, heldAt := s.now }).refreshOf r
       | none, v :: _ =>
         let (s, n) := s.pageTicket r.ctx r.core (v / 65536)
         (s.putReq { r with held := some (.page, n), heldAt := s.now }).refreshOf r
       | none, [] =>
         let s := if p.skind = 0 then s.settleProbe r.core c p.sh (sMap.map fun e => e.va) false else s
         let s := if p.dbuf then s.settleProbe r.core c p.dh (dMap.map fun e => e.va) true else s
         let s := s.putReq { r with held := s.heldBehind r }
         let s := s.putCmd k { x with parts := x.parts.map fun y => if y.req = r.id then { y with sMap := sMap, dMap := dMap } else y }
         let s := s.testComplete k x.crew x.group.val s.now (s.clock k)
         let s := match s.cmd? k x.crew x.group.val with
           | some y => if y.chan.isSome && !y.done && !s.cmdHeld y then s.bookCmd k y s.now none else s
           | none => s
         s.refreshOf r)
  | _, _ => s

/-- A slice that was held: its pages are looked up again; while some of them miss the core's TLB it stays held (R68, R279). -/
def State.reprobeCopy (s : State) (r : Req) : State :=
  let g := match r.effect with | .copy g => g.val | _ => 0
  let k := s.cmdCore r.core (crewKeyOf r.owner) g
  match (s.cmd? k (crewKeyOf r.owner) g).bind fun x => x.parts.find? fun p => p.req = r.id, s.ctx? r.ctx with
  | some p, some c =>
    let vas := fun (b : Vector DWord 8) (off : Nat) => (pageAccesses (Buf.base b) off p.len).map fun z => Buf.base b + z.off.toNat
    let miss := fun (b : Bool) (h : Nat) (v : List Nat) (w : Bool) =>
      if b then { s.misses r.core c h v w with recMiss := false } else ⟨false, [], [], []⟩
    let sm := miss (p.skind = 0) p.sh (vas p.sRec p.soff) false
    let dm := miss p.dbuf p.dh (vas p.dRec p.doff) true
    if sm.blank && dm.blank then s.reprobeCopyDue r
    else
      let (s, t1) := if sm.blank then (s, 0) else s.probeTick r.core c p.sh sm
      let (s, t2) := if dm.blank then (s, 0) else s.probeTick r.core c p.dh dm
      s.scheduleTask ⟨max t1 t2, 3, .reprobe, { EvArg.none with req := r.id }⟩
  | _, _ => s

/-- What a held request looked up again has landed (R279, R280). -/
def State.walkDone (s : State) : State :=
  match s.req? s.arg.req with
  | none => s
  | some r =>
    if r.held.isNone || r.withdrawn then s
    else match r.effect with | .copy _ => s.reprobeCopyDue r | _ => s.reprobeDue r

/-- The per-context state of the core on which a crew stands or was saved (R357). -/
def State.homeCc (s : State) (c : Crew) : CoreCtx :=
  if (s.core c.core).active = some c.ctx then s.cc c.core
  else match s.saved.find? fun x => x.1 = c.ctx && x.2.1 = c.core with | some x => x.2.2 | none => CoreCtx.reset
def State.setHomeCc (s : State) (c : Crew) (x : CoreCtx) : State :=
  if (s.core c.core).active = some c.ctx then s.setCc c.core x
  else s.setSaved (s.saved.map fun y => if y.1 = c.ctx && y.2.1 = c.core then (y.1, y.2.1, x) else y)

/-- Discards the gathering commands of a crew, saved or not (R231): their entries are free from the next clock, their requests settle
without effect. -/
def State.cancelCopies (s : State) (c : Crew) : State :=
  let cc := s.homeCc c
  let (gone, rest) := cc.cmds.partition fun x => x.crew = c.key && x.gathering
  let s := s.setHomeCc c { cc with cmds := rest }
  let ids := gone.flatMap fun x => x.parts.map fun p => p.req
  let s := s.setReqs (s.reqs.filter fun r => !ids.contains r.id)
  if (gone.any fun x => x.entry) && (s.core c.core).active = some c.ctx then s.entryFrees c.core none else s

/-! ## Saves (R229) -/

/-- Whether a row is in progress: some of it has been read, or a slot of it has come. -/
def CopyRow.begun (r : CopyRow) (now : Nat) : Bool := r.landAt != 0 && (!r.got.isEmpty || r.slots.any fun x => x.tick ≤ now)

/-- A save reaches a command on a channel (R229): the row in progress lands, the bookings of the others are given back. -/
def State.haltCmd (s : State) (k : CoreId) (x : CopyCmd) : State :=
  if x.halt then s
  else
    let n := match x.rows with | r :: _ => if r.begun s.now then 1 else 0 | [] => 0
    let (s, rest) := s.unbookRows k x (x.rows.drop n)
    s.putCmd k { x with rows := x.rows.take n ++ rest, halt := true }

/-- Whether a command still has the row in progress to land before a save can stop it. -/
def State.rowBusy (s : State) (x : CopyCmd) : Bool :=
  x.chan.isSome && !x.done && !x.holding && !s.cmdHeld x && (match x.rows with | r :: _ => r.landAt != 0 | [] => false)

/-- Whether a command on core `j` copies to a crew that stands on core `k`. -/
def State.copiesTo (s : State) (x : CopyCmd) (k : CoreId) : Bool := match s.cmdDest x with | some d => d.core = k && d.resident | none => false

/-- The commands on channels that a save on core `k` reaches, with their cores: its own, and those into partitions there. -/
def State.savedCmds (s : State) (k : CoreId) : List (CoreId × CopyCmd) :=
  (List.finRange 256).flatMap fun j => ((s.running j).filter fun x => j = k || s.copiesTo x k).map fun x => (j, x)

/-- The commands that are held for a destination that has come back are booked again (R229). -/
def State.resumeHalted (s : State) (c : CrewKey) : State :=
  (List.finRange 256).foldl (fun s j =>
    if (s.core j).stopped then s
    else ((s.running j).filter fun x => x.halt && x.dkind != 0 && x.dcrew = c.crew && x.crew.launch = c.launch).foldl
      (fun s x => s.bookCmd j { x with halt := false } s.now none) s) s

end Sys2Proof.Machine
end

