-- ==== Sys2Proof/Machine/Uni.lean ====
section
/-!
DEFINITION. Class UNI: 64-bit scalar arithmetic (R145, R149 to R153) and `sreg` (R108). Every result has a latency of 2
clocks (R147).
-/
namespace Sys2Proof.Machine

/-- A word with one scalar source. -/
def uni1 (w : Stall) (d a : SReg) (op : DWord → DWord) (s : State) : Host.Outcome State Fault Refusal :=
  runPure { stall := w, reads := [.s a], writes := [.s d] } (fun f c g => g.writeS f c 2 d (op (g.readS f c a))) s

/-- A word with two scalar sources, with or without an extension word. -/
def uni2 (w : Stall) (ext : Bool) (d a b : SReg) (op : DWord → DWord → DWord) (s : State) :
    Host.Outcome State Fault Refusal :=
  runPure { stall := w, ext := ext, reads := [.s a, .s b], writes := [.s d] }
    (fun f c g => g.writeS f c 2 d (op (g.readS f c a) (g.readS f c b))) s

/-- Bits [127:64] of the signed product (R150). -/
def mulHighSigned (a b : DWord) : DWord := BitVec.ofInt 64 (a.toInt * b.toInt / 2 ^ 64)
/-- Bits [127:64] of the unsigned product (R150). -/
def mulHighUnsigned (a b : DWord) : DWord := BitVec.ofNat 64 (a.toNat * b.toNat / 2 ^ 64)
/-- A shift count: bits [5:0] of sB (R150). -/
def shiftCount (b : DWord) : Nat := b.toNat % 64
/-- Leading zero bits (R150, R155). -/
def leadingZeros {n : Nat} (x : BitVec n) : Nat := if x = 0 then n else n - 1 - Nat.log2 x.toNat
/-- A field of a value: `w` bits from bit `p`, zero- or sign-extended (R151, R157). -/
def extractField {n : Nat} (sg : Bool) (p w : Nat) (x : BitVec n) : BitVec n :=
  let v := x.toNat / 2 ^ p % 2 ^ w
  if sg && v / 2 ^ (w - 1) % 2 = 1 then BitVec.ofInt n ((v : Int) - 2 ^ w) else BitVec.ofNat n v
/-- `d` with `w` bits from bit `p` replaced by the low bits of `x` (R151, R157). -/
def insertField {n : Nat} (p w : Nat) (d x : BitVec n) : BitVec n :=
  BitVec.ofNat n (d.toNat - d.toNat / 2 ^ p % 2 ^ w * 2 ^ p + x.toNat % 2 ^ w * 2 ^ p)
/-- The lesser or the greater of two values, signed or unsigned (R150, R156). -/
def pick {n : Nat} (signed greater : Bool) (a b : BitVec n) : BitVec n :=
  let aLess := if signed then a.slt b else a.ult b
  if aLess = greater then b else a
/-- An integer comparison (R152, R158). -/
def compareInt {n : Nat} (c : Cond) (signed : Bool) (a b : BitVec n) : Bool :=
  intCond c (if signed then a.slt b else a.ult b) (a = b)

/-- `smov` (R149). -/
def execSmov (n0 : Stall) (d a : SReg) (s : State) : Host.Outcome State Fault Refusal :=
  uni1 n0 d a id s
/-- `sli` (R149): the sign-extended immediate. -/
def execSli (n0 : Stall) (d : SReg) (imm : BitVec 32) (s : State) : Host.Outcome State Fault Refusal :=
  runPure { stall := n0, ext := true, writes := [.s d] } (fun f c g => g.writeS f c 2 d (imm.signExtend 64)) s
/-- `slih` (R149): the high word, the low word unchanged. -/
def execSlih (n0 : Stall) (d : SReg) (imm : BitVec 32) (s : State) : Host.Outcome State Fault Refusal :=
  runPure { stall := n0, ext := true, writes := [.s d] } (fun f c g => g.writeS f c 2 d (joinWords (lowWord g.s[d]) imm)) s
/-- `sadd` (R150). -/
def execSadd (n0 : Stall) (d a b : SReg) (s : State) : Host.Outcome State Fault Refusal :=
  uni2 n0 false d a b (fun a b => a + b) s
/-- `ssub` (R150). -/
def execSsub (n0 : Stall) (d a b : SReg) (s : State) : Host.Outcome State Fault Refusal :=
  uni2 n0 false d a b (fun a b => a - b) s
/-- `smul` (R150). -/
def execSmul (n0 : Stall) (d a b : SReg) (s : State) : Host.Outcome State Fault Refusal :=
  uni2 n0 false d a b (fun a b => a * b) s
/-- `sand` (R150). -/
def execSand (n0 : Stall) (d a b : SReg) (s : State) : Host.Outcome State Fault Refusal :=
  uni2 n0 false d a b (fun a b => a &&& b) s
/-- `sor` (R150). -/
def execSor (n0 : Stall) (d a b : SReg) (s : State) : Host.Outcome State Fault Refusal :=
  uni2 n0 false d a b (fun a b => a ||| b) s
/-- `sxor` (R150). -/
def execSxor (n0 : Stall) (d a b : SReg) (s : State) : Host.Outcome State Fault Refusal :=
  uni2 n0 false d a b (fun a b => a ^^^ b) s
/-- `saddi` (R149). -/
def execSaddi (n0 : Stall) (d a : SReg) (imm : BitVec 8) (s : State) : Host.Outcome State Fault Refusal :=
  uni1 n0 d a (fun a => a + imm.signExtend 64) s
/-- `smulh.i` (R150). -/
def execSmulhI (n0 : Stall) (d a b : SReg) (s : State) : Host.Outcome State Fault Refusal :=
  uni2 n0 false d a b mulHighSigned s
/-- `smulh.n` (R150). -/
def execSmulhN (n0 : Stall) (d a b : SReg) (s : State) : Host.Outcome State Fault Refusal :=
  uni2 n0 false d a b mulHighUnsigned s
/-- `snot` (R150). -/
def execSnot (n0 : Stall) (d a : SReg) (s : State) : Host.Outcome State Fault Refusal :=
  uni1 n0 d a (fun a => ~~~a) s
/-- `sshl` (R150). -/
def execSshl (n0 : Stall) (d a b : SReg) (s : State) : Host.Outcome State Fault Refusal :=
  uni2 n0 false d a b (fun a b => a <<< shiftCount b) s
/-- `sshr` (R150). -/
def execSshr (n0 : Stall) (d a b : SReg) (s : State) : Host.Outcome State Fault Refusal :=
  uni2 n0 false d a b (fun a b => a >>> shiftCount b) s
/-- `ssra` (R150). -/
def execSsra (n0 : Stall) (d a b : SReg) (s : State) : Host.Outcome State Fault Refusal :=
  uni2 n0 false d a b (fun a b => a.sshiftRight (shiftCount b)) s
/-- `smin.i` (R150). -/
def execSminI (n0 : Stall) (d a b : SReg) (s : State) : Host.Outcome State Fault Refusal :=
  uni2 n0 false d a b (pick true false) s
/-- `smin.n` (R150). -/
def execSminN (n0 : Stall) (d a b : SReg) (s : State) : Host.Outcome State Fault Refusal :=
  uni2 n0 false d a b (pick false false) s
/-- `smax.i` (R150). -/
def execSmaxI (n0 : Stall) (d a b : SReg) (s : State) : Host.Outcome State Fault Refusal :=
  uni2 n0 false d a b (pick true true) s
/-- `smax.n` (R150). -/
def execSmaxN (n0 : Stall) (d a b : SReg) (s : State) : Host.Outcome State Fault Refusal :=
  uni2 n0 false d a b (pick false true) s
/-- `sclz` (R150). -/
def execSclz (n0 : Stall) (d a : SReg) (s : State) : Host.Outcome State Fault Refusal :=
  uni1 n0 d a (fun a => BitVec.ofNat 64 (leadingZeros a)) s
/-- `spop` (R150). -/
def execSpop (n0 : Stall) (d a : SReg) (s : State) : Host.Outcome State Fault Refusal :=
  uni1 n0 d a (fun a => BitVec.ofNat 64 (popcount a)) s
/-- `sbfx` (R151). -/
def execSbfx (n0 : Stall) (d a : SReg) (sg : Bool) (bf : BitField) (s : State) : Host.Outcome State Fault Refusal :=
  runPure { stall := n0, ext := true, reads := [.s a], writes := [.s d] }
    (fun f c g => g.writeS f c 2 d (extractField sg bf.pos.val (bf.wid.val + 1) (g.readS f c a))) s
/-- `sbfi` (R151): sD is a source as well. -/
def execSbfi (n0 : Stall) (d a : SReg) (bf : BitField) (s : State) : Host.Outcome State Fault Refusal :=
  runPure { stall := n0, ext := true, reads := [.s a, .s d], writes := [.s d] }
    (fun f c g => g.writeS f c 2 d (insertField bf.pos.val (bf.wid.val + 1) (g.readS f c d) (g.readS f c a))) s
/-- `scmp` (R152). -/
def execScmp (n0 : Stall) (d a b : SReg) (cc : Cond) (sg : Bool) (s : State) : Host.Outcome State Fault Refusal :=
  uni2 n0 true d a b (fun a b => if compareInt cc sg a b then 1 else 0) s
/-- `ssel` (R153). -/
def execSsel (n0 : Stall) (d a b c : SReg) (s : State) : Host.Outcome State Fault Refusal :=
  runPure { stall := n0, ext := true, reads := [.s a, .s b, .s c], writes := [.s d] }
    (fun f k g => g.writeS f k 2 d (if g.readS f k c != 0 then g.readS f k a else g.readS f k b)) s

/-- The logical core of a physical core in a context (R13): the logical number that its map gives the core. -/
def Ctx.logical (c : Ctx) (k : CoreId) : Nat := (List.range 256).findIdx fun l => vget c.map l = k

/-- The special registers of R35 as `sreg` reads them (R108). -/
def State.special (s : State) (g : Gang) (n : Nat) : Nat :=
  let t := g.trap
  match n with
  | 0 => (match s.ctx? g.ctx with | some c => c.logical g.core | none => g.core.val)
  | 1 => g.core.val
  | 2 => (match g.slot? with | some (q, _) => q.val | none => 0)
  | 3 => (match g.slot? with | some (_, k) => k.val | none => 0)
  | 4 => (match s.crew? g.crewKey with | some c => c.index.toNat | none => 0)
  | 5 => g.key.launch.toNat
  | 6 => g.ctx.toNat
  | 7 => (match t with | some t => t.pc.toNat | none => 0)
  | 8 => (match t with | some t => t.cause.toNat | none => 0)
  | 9 => (match t with | some t => t.info.toNat | none => 0)
  | _ => (match s.slice? g.key.launch with | some l => l.fair | none => 4096)

/-- `sreg` (R108). -/
def execSreg (n0 : Stall) (d : SReg) (n : Fin 11) (s : State) : Host.Outcome State Fault Refusal :=
  runPure { stall := n0, writes := [.s d] }
    (fun f c g => g.writeS f c 2 d (BitVec.ofNat 64 (s.special g n.val))) s

end Sys2Proof.Machine
end

