-- ==== Sys2Proof/Machine/Vec.lean ====
section
/-!
DEFINITION. Class VEC: 32 lanes of 32 bits (R144, R154 to R175, R109), with the latencies of R147.
-/
namespace Sys2Proof.Machine

/-- What a VEC word sees: the free-value number, the clock, the gang. -/
abbrev LaneFn := Nat → Nat → Gang → Nat → Word

/-- A VEC word that writes vD in the active lanes (R144). -/
def vecWord (w : Stall) (ext : Bool) (lat : Nat) (d : VReg) (reads : List RegRef) (val : LaneFn) (s : State) :
    Host.Outcome State Fault Refusal :=
  runPure { stall := w, ext := ext, kind := .vec, reads := reads, writes := [.v d] }
    (fun f c g => g.writeV f c lat d g.active (val f c g)) s

/-- One vector source. -/
def vec1 (w : Stall) (ext : Bool) (lat : Nat) (d : VReg) (a : VSrc) (op : Word → Word) (s : State) :
    Host.Outcome State Fault Refusal :=
  vecWord w ext lat d (srcRefs a) (fun f c g l => op (g.readSrc f c a l)) s

/-- Two vector sources. -/
def vec2 (w : Stall) (ext : Bool) (lat : Nat) (d : VReg) (a b : VSrc) (op : Word → Word → Word) (s : State) :
    Host.Outcome State Fault Refusal :=
  vecWord w ext lat d (srcRefs a ++ srcRefs b) (fun f c g l => op (g.readSrc f c a l) (g.readSrc f c b l)) s

/-- Three vector sources. -/
def vec3 (w : Stall) (lat : Nat) (d : VReg) (a b x : VSrc) (op : Word → Word → Word → Word) (s : State) :
    Host.Outcome State Fault Refusal :=
  vecWord w true lat d (srcRefs a ++ srcRefs b ++ srcRefs x)
    (fun f c g l => op (g.readSrc f c a l) (g.readSrc f c b l) (g.readSrc f c x l)) s

/-- A comparison: the active bits of pD (R146). -/
def vecTest (w : Stall) (lat : Nat) (d : PReg) (a b : VSrc) (op : Word → Word → Bool) (s : State) :
    Host.Outcome State Fault Refusal :=
  runPure { stall := w, ext := true, kind := .vec, reads := srcRefs a ++ srcRefs b, writes := [.p d] }
    (fun f c g => g.writeP f c lat d g.active (maskOf fun l => op (g.readSrc f c a l) (g.readSrc f c b l))) s

/-- A predicate operation on the active bits (R174). -/
def predWord (w : Stall) (d : PReg) (reads : List RegRef) (val : Nat → Nat → Gang → Mask) (s : State) :
    Host.Outcome State Fault Refusal :=
  runPure { stall := w, kind := .vec, reads := reads, writes := [.p d] }
    (fun f c g => g.writeP f c 2 d g.active (val f c g)) s

/-- A number as a lane's word. -/
def laneWord (n : Nat) : Word := BitVec.ofNat 32 n
/-- The count of a lane shift: bits [4:0] (R155). -/
def laneShift (b : Word) : Nat := b.toNat % 32
/-- A one-operand f32 function as a lane function. -/
def f32op1 (f : Nat → Nat) (a : Word) : Word := laneWord (f a.toNat)
/-- A two-operand f32 function as a lane function. -/
def f32op2 (f : Nat → Nat → Nat) (a b : Word) : Word := laneWord (f a.toNat b.toNat)
/-- A 16-bit operation on both elements of a lane (R169). -/
def packed2 (f : Nat → Nat → Nat) (a b : Word) : Word :=
  laneWord (f (a.toNat % 65536) (b.toNat % 65536) + 65536 * f (a.toNat / 65536) (b.toNat / 65536))
def packed3 (f : Nat → Nat → Nat → Nat) (a b c : Word) : Word :=
  laneWord (f (a.toNat % 65536) (b.toNat % 65536) (c.toNat % 65536) +
    65536 * f (a.toNat / 65536) (b.toNat / 65536) (c.toNat / 65536))

/-- The source lane of a lane move by a number (R170). -/
def moveLane (k : ShflKind) (n l : Nat) : Nat :=
  match k with
  | .up => if n ≤ l then l - n else l
  | .down => if l + n ≤ 31 then l + n else l
  | .xor => l ^^^ n

/-- `combine` of R173. -/
def combine (op : RedOp) (a b : Word) : Word :=
  match op with
  | .add => a + b
  | .minI => pick true false a b
  | .maxI => pick true true a b
  | .minN => pick false false a b
  | .maxN => pick false true a b
  | .and => a &&& b
  | .or => a ||| b
  | .xor => a ^^^ b
  | .fadd => f32op2 Fmt.f32.add a b
  | .fmin => f32op2 (Fmt.f32.minMax false) a b
  | .fmax => f32op2 (Fmt.f32.minMax true) a b

/-- The identities of R173. -/
def redIdentity : RedOp → Word
  | .add | .or | .xor | .maxN => 0
  | .and | .minN => 0xFFFFFFFF
  | .minI => 0x7FFFFFFF
  | .maxI => 0x80000000
  | .fadd => 0x80000000
  | .fmin => 0x7F800000
  | .fmax => 0xFF800000

/-- The latency of a reduction or scan (R147). -/
def redLatency : RedOp → Nat
  | .fadd | .fmin | .fmax => 10
  | _ => 6

/-- The accumulator after the active lanes of a list, in its order (R173). -/
def reduceLanes (op : RedOp) (x : Nat → Word) (ls : List Nat) : Word :=
  ls.foldl (fun acc l => combine op acc (x l)) (redIdentity op)

/-- `vmov` (R154). -/
def execVmov (n0 : Stall) (d : VReg) (a : VSrc) (s : State) : Host.Outcome State Fault Refusal :=
  vec1 n0 false 2 d a id s
/-- `vli` (R154). -/
def execVli (n0 : Stall) (d : VReg) (imm : BitVec 32) (s : State) : Host.Outcome State Fault Refusal :=
  vecWord n0 true 2 d [] (fun _ _ _ _ => imm) s
/-- `vaddi` (R154). -/
def execVaddi (n0 : Stall) (d : VReg) (a : VSrc) (imm : BitVec 8) (s : State) : Host.Outcome State Fault Refusal :=
  vec1 n0 false 2 d a (fun a => a + imm.signExtend 32) s
/-- `vadd` (R155). -/
def execVadd (n0 : Stall) (d : VReg) (a b : VSrc) (s : State) : Host.Outcome State Fault Refusal :=
  vec2 n0 false 2 d a b (fun a b => a + b) s
/-- `vsub` (R155). -/
def execVsub (n0 : Stall) (d : VReg) (a b : VSrc) (s : State) : Host.Outcome State Fault Refusal :=
  vec2 n0 false 2 d a b (fun a b => a - b) s
/-- `vmul` (R155). -/
def execVmul (n0 : Stall) (d : VReg) (a b : VSrc) (s : State) : Host.Outcome State Fault Refusal :=
  vec2 n0 false 2 d a b (fun a b => a * b) s
/-- `vand` (R155). -/
def execVand (n0 : Stall) (d : VReg) (a b : VSrc) (s : State) : Host.Outcome State Fault Refusal :=
  vec2 n0 false 2 d a b (fun a b => a &&& b) s
/-- `vor` (R155). -/
def execVor (n0 : Stall) (d : VReg) (a b : VSrc) (s : State) : Host.Outcome State Fault Refusal :=
  vec2 n0 false 2 d a b (fun a b => a ||| b) s
/-- `vxor` (R155). -/
def execVxor (n0 : Stall) (d : VReg) (a b : VSrc) (s : State) : Host.Outcome State Fault Refusal :=
  vec2 n0 false 2 d a b (fun a b => a ^^^ b) s
/-- `vshl` (R155). -/
def execVshl (n0 : Stall) (d : VReg) (a b : VSrc) (s : State) : Host.Outcome State Fault Refusal :=
  vec2 n0 false 2 d a b (fun a b => a <<< laneShift b) s
/-- `vshr` (R155). -/
def execVshr (n0 : Stall) (d : VReg) (a b : VSrc) (s : State) : Host.Outcome State Fault Refusal :=
  vec2 n0 false 2 d a b (fun a b => a >>> laneShift b) s
/-- `vsra` (R155). -/
def execVsra (n0 : Stall) (d : VReg) (a b : VSrc) (s : State) : Host.Outcome State Fault Refusal :=
  vec2 n0 false 2 d a b (fun a b => a.sshiftRight (laneShift b)) s
/-- `vmulh.i` (R155): bits [63:32] of the signed product. -/
def execVmulhI (n0 : Stall) (d : VReg) (a b : VSrc) (s : State) : Host.Outcome State Fault Refusal :=
  vec2 n0 false 2 d a b (fun a b => BitVec.ofInt 32 (a.toInt * b.toInt / 2 ^ 32)) s
/-- `vmulh.n` (R155): bits [63:32] of the unsigned product. -/
def execVmulhN (n0 : Stall) (d : VReg) (a b : VSrc) (s : State) : Host.Outcome State Fault Refusal :=
  vec2 n0 false 2 d a b (fun a b => laneWord (a.toNat * b.toNat / 2 ^ 32)) s
/-- `vmad` (R156). -/
def execVmad (n0 : Stall) (d : VReg) (a b c : VSrc) (s : State) : Host.Outcome State Fault Refusal :=
  vec3 n0 2 d a b c (fun a b c => a * b + c) s
/-- `vnot` (R155). -/
def execVnot (n0 : Stall) (d : VReg) (a : VSrc) (s : State) : Host.Outcome State Fault Refusal :=
  vec1 n0 false 2 d a (fun a => ~~~a) s
/-- `vmin` (R156). -/
def execVmin (n0 : Stall) (d : VReg) (a b : VSrc) (sg : Bool) (s : State) : Host.Outcome State Fault Refusal :=
  vec2 n0 true 2 d a b (pick sg false) s
/-- `vmax` (R156). -/
def execVmax (n0 : Stall) (d : VReg) (a b : VSrc) (sg : Bool) (s : State) : Host.Outcome State Fault Refusal :=
  vec2 n0 true 2 d a b (pick sg true) s
/-- `vabs` (R155): wrapping. -/
def execVabs (n0 : Stall) (d : VReg) (a : VSrc) (s : State) : Host.Outcome State Fault Refusal :=
  vec1 n0 false 2 d a (fun a => if a.msb then -a else a) s
/-- `vclz` (R155). -/
def execVclz (n0 : Stall) (d : VReg) (a : VSrc) (s : State) : Host.Outcome State Fault Refusal :=
  vec1 n0 false 2 d a (fun a => laneWord (leadingZeros a)) s
/-- `vpop` (R155). -/
def execVpop (n0 : Stall) (d : VReg) (a : VSrc) (s : State) : Host.Outcome State Fault Refusal :=
  vec1 n0 false 2 d a (fun a => laneWord (popcount a)) s
/-- `vbfx` (R157). -/
def execVbfx (n0 : Stall) (d : VReg) (a : VSrc) (sg : Bool) (bf : BitField) (s : State) : Host.Outcome State Fault Refusal :=
  vec1 n0 true 2 d a (extractField sg bf.pos.val (bf.wid.val + 1)) s
/-- `vbfi` (R157): vD is a source as well. -/
def execVbfi (n0 : Stall) (d : VReg) (a : VSrc) (bf : BitField) (s : State) : Host.Outcome State Fault Refusal :=
  vec2 n0 true 2 d a (.v d) (fun a d => insertField bf.pos.val (bf.wid.val + 1) d a) s
/-- `vcmp` (R158). -/
def execVcmp (n0 : Stall) (d : PReg) (a b : VSrc) (cc : Cond) (sg : Bool) (s : State) : Host.Outcome State Fault Refusal :=
  vecTest n0 2 d a b (compareInt cc sg) s
/-- `vsel` (R158). -/
def execVsel (n0 : Stall) (d : VReg) (a b : VSrc) (p : PReg) (s : State) : Host.Outcome State Fault Refusal :=
  vecWord n0 true 2 d (.p p :: srcRefs a ++ srcRefs b)
    (fun f c g l => if (g.readP f c p).getLsbD l then g.readSrc f c a l else g.readSrc f c b l) s
/-- `fadd` (R159). -/
def execFadd (n0 : Stall) (d : VReg) (a b : VSrc) (s : State) : Host.Outcome State Fault Refusal :=
  vec2 n0 false 4 d a b (f32op2 Fmt.f32.add) s
/-- `fsub` (R159). -/
def execFsub (n0 : Stall) (d : VReg) (a b : VSrc) (s : State) : Host.Outcome State Fault Refusal :=
  vec2 n0 false 4 d a b (f32op2 Fmt.f32.sub) s
/-- `fmul` (R159). -/
def execFmul (n0 : Stall) (d : VReg) (a b : VSrc) (s : State) : Host.Outcome State Fault Refusal :=
  vec2 n0 false 4 d a b (f32op2 Fmt.f32.mul) s
/-- `ffma` (R160). -/
def execFfma (n0 : Stall) (d : VReg) (a b c : VSrc) (fv : FmaVar) (s : State) : Host.Outcome State Fault Refusal :=
  vec3 n0 4 d a b c (fun a b c => laneWord (Fmt.f32.fma fv a.toNat b.toNat c.toNat)) s
/-- `fmin` (R161). -/
def execFmin (n0 : Stall) (d : VReg) (a b : VSrc) (s : State) : Host.Outcome State Fault Refusal :=
  vec2 n0 false 4 d a b (f32op2 (Fmt.f32.minMax false)) s
/-- `fmax` (R161). -/
def execFmax (n0 : Stall) (d : VReg) (a b : VSrc) (s : State) : Host.Outcome State Fault Refusal :=
  vec2 n0 false 4 d a b (f32op2 (Fmt.f32.minMax true)) s
/-- `fabs` (R162). -/
def execFabs (n0 : Stall) (d : VReg) (a : VSrc) (s : State) : Host.Outcome State Fault Refusal :=
  vec1 n0 false 4 d a (f32op1 (sign32 false)) s
/-- `fneg` (R162). -/
def execFneg (n0 : Stall) (d : VReg) (a : VSrc) (s : State) : Host.Outcome State Fault Refusal :=
  vec1 n0 false 4 d a (f32op1 (sign32 true)) s
/-- `fcmp` (R163). -/
def execFcmp (n0 : Stall) (d : PReg) (a b : VSrc) (cc : Cond) (s : State) : Host.Outcome State Fault Refusal :=
  vecTest n0 4 d a b (fun a b => Fmt.f32.compare cc a.toNat b.toNat) s
/-- `frcp` (R164, R165). -/
def execFrcp (n0 : Stall) (d : VReg) (a : VSrc) (s : State) : Host.Outcome State Fault Refusal :=
  vec1 n0 false 12 d a (f32op1 rcp32) s
/-- `frsq` (R164, R165). -/
def execFrsq (n0 : Stall) (d : VReg) (a : VSrc) (s : State) : Host.Outcome State Fault Refusal :=
  vec1 n0 false 12 d a (f32op1 rsq32) s
/-- `fsqrt` (R164, R165). -/
def execFsqrt (n0 : Stall) (d : VReg) (a : VSrc) (s : State) : Host.Outcome State Fault Refusal :=
  vec1 n0 false 12 d a (f32op1 sqrt32) s
/-- `fex2` (R164, R165). -/
def execFex2 (n0 : Stall) (d : VReg) (a : VSrc) (s : State) : Host.Outcome State Fault Refusal :=
  vec1 n0 false 12 d a (fun a => laneWord (ex2 a)) s
/-- `flg2` (R164, R165). -/
def execFlg2 (n0 : Stall) (d : VReg) (a : VSrc) (s : State) : Host.Outcome State Fault Refusal :=
  vec1 n0 false 12 d a (fun a => laneWord (lg2 a)) s
/-- `fsin` (R164, R165). -/
def execFsin (n0 : Stall) (d : VReg) (a : VSrc) (s : State) : Host.Outcome State Fault Refusal :=
  vec1 n0 false 12 d a (fun a => laneWord (sin32 a)) s
/-- `fcos` (R164, R165). -/
def execFcos (n0 : Stall) (d : VReg) (a : VSrc) (s : State) : Host.Outcome State Fault Refusal :=
  vec1 n0 false 12 d a (fun a => laneWord (cos32 a)) s
/-- `frnd` (R166). -/
def execFrnd (n0 : Stall) (d : VReg) (a : VSrc) (rm : Round) (s : State) : Host.Outcome State Fault Refusal :=
  vec1 n0 true 4 d a (f32op1 (rnd32 rm)) s
/-- `fclass` (R167). -/
def execFclass (n0 : Stall) (d : VReg) (a : VSrc) (s : State) : Host.Outcome State Fault Refusal :=
  vec1 n0 false 4 d a (f32op1 class32) s
/-- `cvt` (R168). -/
def execCvt (n0 : Stall) (d : VReg) (a : VSrc) (rm : Round) (sat : Bool) (dst src : CvtType) (s : State) : Host.Outcome State Fault Refusal :=
  vec1 n0 true 4 d a (f32op1 (convert dst src rm sat)) s
/-- `hadd.bf` (R169). -/
def execHaddBf (n0 : Stall) (d : VReg) (a b : VSrc) (s : State) : Host.Outcome State Fault Refusal :=
  vec2 n0 false 4 d a b (packed2 Fmt.bf16.add) s
/-- `hmul.bf` (R169). -/
def execHmulBf (n0 : Stall) (d : VReg) (a b : VSrc) (s : State) : Host.Outcome State Fault Refusal :=
  vec2 n0 false 4 d a b (packed2 Fmt.bf16.mul) s
/-- `hfma.bf` (R169). -/
def execHfmaBf (n0 : Stall) (d : VReg) (a b c : VSrc) (fv : FmaVar) (s : State) : Host.Outcome State Fault Refusal :=
  vec3 n0 4 d a b c (packed3 (Fmt.bf16.fma fv)) s
/-- `hadd.h` (R169). -/
def execHaddH (n0 : Stall) (d : VReg) (a b : VSrc) (s : State) : Host.Outcome State Fault Refusal :=
  vec2 n0 false 4 d a b (packed2 Fmt.f16.add) s
/-- `hmul.h` (R169). -/
def execHmulH (n0 : Stall) (d : VReg) (a b : VSrc) (s : State) : Host.Outcome State Fault Refusal :=
  vec2 n0 false 4 d a b (packed2 Fmt.f16.mul) s
/-- `hfma.h` (R169). -/
def execHfmaH (n0 : Stall) (d : VReg) (a b c : VSrc) (fv : FmaVar) (s : State) : Host.Outcome State Fault Refusal :=
  vec3 n0 4 d a b c (packed3 (Fmt.f16.fma fv)) s
/-- `shfl.idx` (R170): the source lane is read whatever its state. -/
def execShflIdx (n0 : Stall) (d : VReg) (a b : VSrc) (s : State) : Host.Outcome State Fault Refusal :=
  vecWord n0 true 4 d (srcRefs a ++ srcRefs b)
    (fun f c g l => g.readSrc f c a ((g.readSrc f c b l).toNat % 32)) s
/-- `shfl.up`, `shfl.down`, `shfl.xor` (R170). -/
def execShflN (n0 : Stall) (d : VReg) (a : VSrc) (k : ShflKind) (n : Fin 32) (s : State) : Host.Outcome State Fault Refusal :=
  vecWord n0 true 4 d (srcRefs a) (fun f c g l => g.readSrc f c a (moveLane k n.val l)) s
/-- `bcast` (R171). -/
def execBcast (n0 : Stall) (d : VReg) (a : VSrc) (b : SReg) (s : State) : Host.Outcome State Fault Refusal :=
  vecWord n0 false 4 d (.s b :: srcRefs a)
    (fun f c g _ => g.readSrc f c a ((g.readS f c b).toNat % 32)) s
/-- `vote` (R172): all 32 bits of pD. -/
def execVote (n0 : Stall) (d : PReg) (a : VSrc) (s : State) : Host.Outcome State Fault Refusal :=
  runPure { stall := n0, kind := .vec, reads := srcRefs a, writes := [.p d] }
    (fun f c g => g.writeP f c 2 d 0xFFFFFFFF (maskOf fun l => g.active.getLsbD l && g.readSrc f c a l != 0)) s
/-- `vred` (R173). -/
def execVred (n0 : Stall) (d : VReg) (a : VSrc) (op : RedOp) (s : State) : Host.Outcome State Fault Refusal :=
  vecWord n0 true (redLatency op) d (srcRefs a)
    (fun f c g _ => reduceLanes op (g.readSrc f c a) (lanesOf g.active)) s
/-- `vscan` (R173). -/
def execVscan (n0 : Stall) (d : VReg) (a : VSrc) (op : RedOp) (ex : Bool) (s : State) : Host.Outcome State Fault Refusal :=
  vecWord n0 true (redLatency op) d (srcRefs a)
    (fun f c g l => reduceLanes op (g.readSrc f c a)
      ((lanesOf g.active).filter fun k => if ex then k < l else k ≤ l)) s
/-- `vlane` (R109). -/
def execVlane (n0 : Stall) (d : VReg) (s : State) : Host.Outcome State Fault Refusal :=
  vecWord n0 false 2 d [] (fun _ _ _ l => laneWord l) s
/-- `pand` (R174). -/
def execPand (n0 : Stall) (d a b : PReg) (s : State) : Host.Outcome State Fault Refusal :=
  predWord n0 d [.p a, .p b] (fun f c g => g.readP f c a &&& g.readP f c b) s
/-- `por` (R174). -/
def execPor (n0 : Stall) (d a b : PReg) (s : State) : Host.Outcome State Fault Refusal :=
  predWord n0 d [.p a, .p b] (fun f c g => g.readP f c a ||| g.readP f c b) s
/-- `pxor` (R174). -/
def execPxor (n0 : Stall) (d a b : PReg) (s : State) : Host.Outcome State Fault Refusal :=
  predWord n0 d [.p a, .p b] (fun f c g => g.readP f c a ^^^ g.readP f c b) s
/-- `pnot` (R174). -/
def execPnot (n0 : Stall) (d a : PReg) (s : State) : Host.Outcome State Fault Refusal :=
  predWord n0 d [.p a] (fun f c g => ~~~(g.readP f c a)) s
/-- `pmov` (R175): all 32 bits of pD. -/
def execPmov (n0 : Stall) (d : PReg) (a : SReg) (s : State) : Host.Outcome State Fault Refusal :=
  runPure { stall := n0, kind := .vec, reads := [.s a], writes := [.p d] }
    (fun f c g => g.writeP f c 2 d 0xFFFFFFFF (lowWord (g.readS f c a))) s
/-- `pget` (R175): the whole mask in each active lane. -/
def execPget (n0 : Stall) (d : VReg) (a : PReg) (s : State) : Host.Outcome State Fault Refusal :=
  vecWord n0 false 2 d [.p a] (fun f c g _ => g.readP f c a) s

end Sys2Proof.Machine
end

