-- ==== Sys2Proof/Machine/Mtx.lean ====
section
/-!
DEFINITION. The lapidary (R233 to R250) and class MTX (R251 to R270): staging walks (R186, R187), the census (R239), the
multiply (R241 to R243), drains (R244, R259), smoothing (R245), counters (R246), the lane conversions (R263 to R268).
-/
namespace Sys2Proof.Machine

def State.lap (s : State) (k : CoreId) : Lapidary := (s.cc k).lap
def State.setLap (s : State) (k : CoreId) (x : Lapidary) : State := s.setCc k { s.cc k with lap := x }

/-! ## Layout records and walks (R186, R187) -/

/-- A signed 32-bit field. -/
def sfield (d : DWord) (hi lo : Nat) : Int := (BitVec.ofNat 32 (bits d hi lo)).toInt

/-- The stride of index `i` of a layout record. -/
def layStride (w : Vector DWord 4) (i : Nat) : Int :=
  match i with
  | 0 => sfield w[0] 63 32 | 1 => sfield w[1] 31 0 | 2 => sfield w[1] 63 32 | _ => sfield w[2] 31 0
/-- The extent of index `i`. -/
def layExtent (w : Vector DWord 4) (i : Nat) : Nat := bits w[3] (16 * i + 15) (16 * i)
def layBase (w : Vector DWord 4) : Nat := bits w[0] 31 0
/-- The chunk size of a layout record. -/
def layChunk (w : Vector DWord 4) : Nat := 32 * 2 ^ bits w[2] 33 32
/-- The bytes that a walk emits. -/
def layBytes (w : Vector DWord 4) : Nat :=
  layExtent w 0 * layExtent w 1 * layExtent w 2 * layExtent w 3 * layChunk w

/-- The chunks of a walk in the order of R187. -/
def layChunks (w : Vector DWord 4) : List Int :=
  (List.range (layExtent w 3)).flatMap fun (i3 : Nat) => (List.range (layExtent w 2)).flatMap fun (i2 : Nat) =>
    (List.range (layExtent w 1)).flatMap fun (i1 : Nat) => (List.range (layExtent w 0)).map fun (i0 : Nat) =>
      (layBase w : Int) + i0 * layStride w 0 + i1 * layStride w 1 + i2 * layStride w 2 + i3 * layStride w 3

/-- A list cut into runs of `n`; `fuel` bounds the runs. -/
def cutList {α : Type} (n : Nat) : Nat → List α → List (List α)
  | 0, _ => []
  | fuel + 1, xs => if xs.isEmpty then [] else xs.take n :: cutList n fuel (xs.drop n)

/-- The plane-port clocks of a group of chunks (R187): a 32-byte piece needs a word of each bank of one octet. -/
def groupClocks (size : Nat) (g : List Nat) : Nat :=
  let octets := g.flatMap fun a => (List.range (size / 32)).map fun i => (a + 32 * i) / 32 % 4
  (List.range 4).foldl (fun n q => max n (ceilDiv (octets.filter fun x => x = q).length 2)) 1

/-- One read or group of reads by the plane port: the byte ranges, and the clocks that it takes. -/
abbrev PlaneWork := List (Nat × Nat) × Nat

/-- The groups of a walk whose chunks all lie in the partition. -/
def walkWork (w : Vector DWord 4) : List PlaneWork :=
  let cs := (layChunks w).map Int.toNat
  (cutList (256 / layChunk w) cs.length cs).map fun g => (g.map fun a => (a, layChunk w), groupClocks (layChunk w) g)

/-- The reads of a run of bytes: 256 bytes in a clock (R255). -/
def runWork (r : Nat × Nat) : List PlaneWork :=
  (List.range (ceilDiv r.2 256)).map fun i => ([(r.1 + 256 * i, min 256 (r.2 - 256 * i))], 1)

/-! ## What a staging reads (R253 to R255) -/

/-- Kept elements of a term column (R238, R253). -/
def keptOf (spn k : Nat) : Nat := if spn = 0 then k else k * spn / 8
/-- Bytes of a term column, CB (R253). -/
def columnBytes (f : FmtSlot) (k : Nat) : Nat := 32 * ceilDiv (keptOf f.spn k * typeBits f.typ) 256

/-- The bytes that a staging's walk must emit (R255). -/
def stageBytes (f : FmtSlot) : LapKind → Nat
  | .mldA _ k => k * typeBits f.typ * 32
  | .mldB k n _ => n * columnBytes f k
  | _ => 0

/-- The scale runs of `n` rows or columns (R237, R415). -/
def scaleRuns (f : FmtSlot) (n blocks : Nat) : List (Nat × Nat) :=
  if isScaled f.typ then (List.range n).map fun i => (f.scales + 4 * f.sstride * i, blocks * scaleBytes f.typ) else []

/-- The scale, index and smoothing runs that a staging reads (R237, R238, R245, R255). -/
def stageRuns (f : FmtSlot) : LapKind → List (Nat × Nat)
  | .mldA m k => scaleRuns f m (k / 32)
  | .mldB k n sm =>
    scaleRuns f n (k / 32) ++
    (if f.spn = 0 then [] else (List.range n).map fun i => (f.idx + i * k * f.spn / 16, keptOf f.spn k / 2)) ++
    (if sm then [(f.smooth, 4 * k)] else [])
  | _ => []

/-- Everything that a staging reads by the plane port, in order (assumption row 33). -/
def stageWork (f : FmtSlot) (lay : Vector DWord 4) (kind : LapKind) : List PlaneWork :=
  walkWork lay ++ (stageRuns f kind).flatMap runWork

/-- The 256-byte rows that a byte range touches. -/
def rowsTouched (off len : Nat) : Nat := if len = 0 then 0 else (off + len - 1) / 256 - off / 256 + 1

/-- The rows that a drain writes, and its scale runs (R259). -/
def drainRows (f : FmtSlot) (m n dest stride : Nat) : List (Nat × Nat) :=
  (List.range m).map (fun i => (dest + i * stride, ceilDiv (n * typeBits f.typ) 8)) ++ scaleRuns f m (n / 32)

/-- The plane-port clocks of an operation (R255, R259). -/
def planeClocks (f : FmtSlot) (lay : Vector DWord 4) (kind : LapKind) : Nat :=
  match kind with
  | .mldA .. | .mldB .. => (stageWork f lay kind).foldl (fun n w => n + w.2) 0
  | .mdrain m n dest stride => (drainRows f m n dest stride).foldl (fun x r => x + rowsTouched r.1 r.2) 0
  | _ => 0

/-! ## The census and the schedule (R239 to R241, R246) -/

/-- The steps of a term operand from one k to another (R241). -/
def TermOp.steps (b : TermOp) (k : Nat) : Nat := if b.spn = 0 then k else k / 8 * b.spn

/-- The costs of the steps of a column group from `lo` to `hi`. -/
def TermOp.costs (b : TermOp) (g lo hi : Nat) : List Nat := ((b.census.getD g []).drop lo).take (hi - lo)

/-- total(g) of R241. -/
def TermOp.total (b : TermOp) (g lo hi : Nat) : Nat := (b.costs g lo hi).foldl (· + ·) 0

/-- The largest total over the groups. -/
def TermOp.longest (b : TermOp) (lo hi : Nat) : Nat := (List.range 16).foldl (fun n g => max n (b.total g lo hi)) 0

/-- The additions of a run of steps to term counters 0, 1, 2 and 4 (R246). -/
def TermOp.counts (b : TermOp) (lo hi : Nat) : Nat × Nat × Nat × Nat :=
  let used := b.elems.foldl (fun n col => ((col.drop lo).take (hi - lo)).foldl (fun n e => n + termCount b.typ.toNat e.2) n) 0
  let slots := 16 * (List.range 16).foldl (fun n g => n + b.total g lo hi) 0
  let zero := (List.range 16).foldl (fun n g => n + (hi - lo) - ((b.costs g lo hi).filter fun c => c != 0).length) 0
  (used, slots, b.longest lo hi, zero)

/-- The census of a term operand's columns (R239). -/
def censusOf (typ steps : Nat) (cols : List (List (Nat × Nat))) : List (List Nat) :=
  (List.range 16).map fun g =>
    let mine := (cols.drop (16 * g)).take 16
    (List.range steps).map fun j => mine.foldl (fun n col =>
      max n (match col[j]? with | some e => termCount typ e.2 | none => 0)) 0

/-! ## Staged operands -/

/-- The raw scale entries of a run. -/
def scaleEntries (typ : Nat) (bs : List Byte) (blocks : Nat) : List Nat :=
  (List.range blocks).map fun i => leNat ((bs.drop (i * scaleBytes typ)).take (scaleBytes typ))

/-- The entries of `n` scale runs that follow one another in a byte stream. -/
def scaleTable (typ : Nat) (bs : List Byte) (n blocks : Nat) : List (List Nat) :=
  (List.range n).map fun i => scaleEntries typ (bs.drop (i * (blocks * scaleBytes typ))) blocks

/-- An element of the term operand after smoothing by a factor (R245). -/
def smoothElem (c s x : Nat) (f : FVal) : Nat :=
  let w := typeBits c
  if isScaled c then
    match ((elemValue c x).mul (scaleValue c s)).mul f with
    | .nan => (match typeFmt c with | some t => t.nanBits | none => 0)
    | v => elemOf c s v
  else match typeFmt c with
    | some t => t.encode .rn true ((elemValue c x).mul f)
    | none => match (elemValue c x).mul f with
      | .nan => 0
      | .inf neg => wrapBits w (if neg then -(2 ^ (w - 1)) else 2 ^ (w - 1) - 1)
      | .fin neg m e => wrapBits w (clampInt w (roundInt .rn neg m e))

/-- The term operand that a staging's bytes make (R238, R245, R253). -/
def termOf (slot : Fin 8) (f : FmtSlot) (k n : Nat) (smooth : Bool) (bs : List Byte) : TermOp :=
  let c := f.typ
  let w := typeBits c
  let kd := keptOf f.spn k
  let cb := columnBytes f k
  let sc := bs.drop (n * cb)
  let runBytes := if isScaled c then n * (k / 32 * scaleBytes c) else 0
  let scales := if isScaled c then scaleTable c sc n (k / 32) else []
  let ix := sc.drop runBytes
  let sm := ix.drop (if f.spn = 0 then 0 else n * (kd / 2))
  let cols := (List.range n).map fun j =>
    let col := (bs.drop (j * cb)).take cb
    let ixs := ix.drop (j * (kd / 2))
    (List.range kd).map fun i =>
      let at_ := if f.spn = 0 then i else 8 * (i / f.spn) + bitsAt ixs (4 * i) 3
      let x := bitsAt col (i * w) w
      (at_, if smooth then
          smoothElem c ((scales.getD j []).getD (at_ / 32) 0) x (Fmt.f32.decode (leNat ((sm.drop (4 * at_)).take 4)))
        else x)
  ⟨slot, k, n, BitVec.ofNat 8 c, f.spn, cols, scales, censusOf c kd cols⟩

/-- The plane operand that a staging's bytes make (R185, R254). -/
def planeOf (slot : Fin 8) (f : FmtSlot) (m k : Nat) (bs : List Byte) : PlaneOp :=
  let w := typeBits f.typ
  let rows := (List.range m).map fun r => (List.range k).map fun j =>
    lowInt w ((List.range w).foldl (fun x p => if bitOf (bs.drop ((j * w + p) * 32)) r then x + 2 ^ p else x) 0)
  ⟨slot, m, k, BitVec.ofNat 8 f.typ, rows, if isScaled f.typ then scaleTable f.typ (bs.drop (k * w * 32)) m (k / 32) else []⟩

/-! ## Accumulation (R242, R243) -/

def accGet (acc : List (Nat × Word)) (i : Nat) : Word := match acc.find? fun x => x.1 = i with | some x => x.2 | none => 0

/-- Accumulators with one replaced; zeros are not listed. -/
def accSet : List (Nat × Word) → Nat → Word → List (Nat × Word)
  | [], i, v => if v = 0 then [] else [(i, v)]
  | (k, c) :: m, i, v =>
    if i < k then (if v = 0 then (k, c) :: m else (i, v) :: (k, c) :: m)
    else if i = k then (if v = 0 then m else (i, v) :: m)
    else (k, c) :: accSet m i v

/-- A plane element's block factor (R235). -/
def PlaneOp.factor (a : PlaneOp) (m b : Nat) : FVal :=
  let v := scaleValue a.typ.toNat ((a.scales.getD m []).getD b 0)
  if a.typ = 0x20 then v.mul (.fin false 1 (-6)) else v

/-- The contribution x of block `b` to cell (m, n) (R242, R243). -/
def blockSum (a : PlaneOp) (t : TermOp) (m n b : Nat) : FVal :=
  let sa := a.factor m b
  let sb := scaleValue t.typ.toNat ((t.scales.getD n []).getD b 0)
  let row := a.elems.getD m []
  let parts := ((t.elems.getD n []).filter fun e => e.1 / 32 = b).map fun e =>
    ((row.getD e.1 0), elemValue t.typ.toNat e.2)
  let inf := fun (v : FVal) => match v with | .inf _ => true | _ => false
  if sa.isNan || sb.isNan then .nan
  else if parts.any fun x => x.2.isNan then .nan
  else if parts.any fun x => inf x.2 && (x.1 = 0 || sa.isZero) then .nan
  else
    let p := parts.foldl (fun p x => p.add ((FVal.fin (x.1 < 0) x.1.natAbs 0).mul x.2)) (.fin false 0 0)
    if p.special then p
    else if sa.isZero || sb.isZero then .fin false 0 0
    else (p.mul sa).mul sb

/-- A cell after the blocks `lo` to `hi - 1` are added to `c` (R242). -/
def cellRun (a : PlaneOp) (t : TermOp) (m n lo hi : Nat) (c : Word) : Word :=
  (List.range (hi - lo)).foldl (fun c i =>
    BitVec.ofNat 32 (Fmt.f32.encode .rn false ((Fmt.f32.decode c.toNat).add (blockSum a t m n (lo + i))))) c

/-- The accumulators after the k-blocks from `lo` to `hi - 1` of a multiply (R242). -/
def multiply (acc : List (Nat × Word)) (a : PlaneOp) (t : TermOp) (m n lo hi : Nat) (keep : Bool) : List (Nat × Word) :=
  (List.range m).foldl (fun acc i => (List.range n).foldl (fun acc j =>
    accSet acc (256 * i + j) (cellRun a t i j lo hi (if keep then accGet acc (256 * i + j) else 0))) acc) acc

/-- A saturating addition to a term counter (R246, R378). -/
def counterAdd (cs : Vector DWord 5) (i : Fin 5) (n : Nat) : Vector DWord 5 :=
  cs.set i (BitVec.ofNat 64 (min (cs[i].toNat + n) (2 ^ 64 - 1)))

/-- A lapidary after the steps of a multiply from k = `r` to `hi` (R242, R246). -/
def Lapidary.runMma (x : Lapidary) (m n r hi : Nat) (keep : Bool) (waits : Nat) : Lapidary :=
  match x.plane, x.term with
  | some a, some t =>
    let (used, slots, busy, zero) := t.counts (t.steps r) (t.steps hi)
    { x with acc := multiply x.acc a t m n (r / 32) (hi / 32) keep
             counters := counterAdd (counterAdd (counterAdd (counterAdd (counterAdd x.counters 0 used) 1 slots) 2 busy) 3 waits) 4 zero }
  | _, _ => x

/-! ## Drains (R244, R259) -/

/-- The bytes of one drained row, and of its scales. -/
def drainRow (c : Nat) (vs : List Word) : List Byte × List Byte :=
  let w := typeBits c
  let xs := vs.map fun v => Fmt.f32.decode v.toNat
  if isScaled c then
    let blocks := cutList 32 vs.length xs
    let sc := blocks.map (chooseScale c)
    (packElems w ((blocks.zip sc).flatMap fun b => blockElems c b.2 b.1), sc.flatMap fun s => natLe (scaleBytes c) s)
  else if c = 1 then (vs.flatMap fun v => natLe 4 v.toNat, [])
  else (packElems w (xs.map fun x => match typeFmt c with | some t => t.encode .rn true x | none => 0), [])

/-- A partition's bytes after a drain. -/
def drainTo (spad : List Host.Cell) (base : Nat) (f : FmtSlot) (acc : List (Nat × Word)) (m n dest stride : Nat) : List Host.Cell :=
  (List.range m).foldl (fun sp i =>
    let (row, sc) := drainRow f.typ ((List.range n).map fun j => accGet acc (256 * i + j))
    memWrite (memWrite sp (base + dest + i * stride) row) (base + f.scales + 4 * f.sstride * i) sc) spad

/-! ## Accepting operations (R234, R251, R252) -/

/-- The tick at which a clock of a core that is not past ends a figure that is counted from now (R3). -/
def State.tickAt (s : State) (k : CoreId) (c : Nat) : Nat := s.afterClocks k (c - s.clock k)

/-- F of an operation probed in clock `p` (R241, R252); a throttle's clocks pass first (R247). -/
def State.lapStart (s : State) (k : CoreId) (p : Nat) (staging : Bool) : Nat :=
  let prev := match (s.lap k).ops.getLast? with | some o => o.finish | none => 0
  let f := max (max (p + 8) prev) (if staging then (s.core k).laneFree else 0)
  if f ≤ (s.lap k).gateTill then (s.lap k).gateTill + 1 else f

/-- Puts a staging's reads on the agenda: each group or piece in the first of its booked clocks. -/
def State.scheduleReads (s : State) (k : CoreId) (id : Nat) : List PlaneWork → List Nat → State
  | [], _ => s
  | w :: ws, cs =>
    let s := match cs with
      | c :: _ => s.dueIn k c 0 .stageRead { EvArg.none with core := k, n := id, m := c, pairs := w.1 }
      | [] => s
    s.scheduleReads k id ws (cs.drop w.2)

/-- What an engine operation is, as its word gives it. -/
structure NewOp where
  kind   : LapKind
  fslot  : Vector DWord 2
  slotNo : Fin 8
  walk   : Vector DWord 4
  arg    : Nat

/-- The rank of a completion in its clock: a drain writes as the plane port does, before the lane port's writes (R184). -/
def LapKind.rank : LapKind → Nat | .mdrain .. => 2 | _ => 3

/-- Puts the start and the completion of an operation on the agenda. -/
def State.scheduleOp (s : State) (k : CoreId) (o : LapOp) : State :=
  let a := { EvArg.none with core := k, n := o.id }
  (s.dueIn k o.begin 3 (.ev .lapidaryOpStart) { a with m := o.begin }).dueIn k o.finish o.kind.rank (.ev .lapidaryOpComplete)
    { a with m := o.finish }

/-- Books an operation's plane-port clocks or its schedule from clock `f` on: the state, the clock of its completion. -/
def State.bookOp (s : State) (k : CoreId) (f : Nat) (id : Nat) (o : NewOp) : State × Nat :=
  let fs := FmtSlot.read o.fslot
  match o.kind with
  | .mma _ _ hi r _ => (s, f + (match (s.lap k).term with | some t => t.longest (t.steps r) (t.steps hi) | none => 0) + 40)
  | .mzero => (s, f + 32)
  | .mdrain .. =>
    let (s, cs) := s.bookPlanes k f (planeClocks fs o.walk o.kind)
    (s, cs.getLastD f + 8)
  | _ =>
    let (s, cs) := s.bookPlanes k f (planeClocks fs o.walk o.kind)
    (s.scheduleReads k id (stageWork fs o.walk o.kind) cs, cs.getLastD f + 16)

/-- Accepts an operation whose probe passes in clock `p`, at tick `q` (R251, R252): one request, promised at completion. -/
def State.acceptOp (s : State) (g : Gang) (pc : Pc) (t : TReg) (p q : Nat) (o : NewOp) : State × Gang :=
  let k := g.core
  let staging := match o.kind with | .mldA .. | .mldB .. => true | _ => false
  let f := s.lapStart k p staging
  let id := s.own.nextReq
  let (s, finish) := s.bookOp k f id o
  let prom := q + s.ticksOf k (finish - p)
  let op : LapOp := ⟨id, id, g.key, o.kind, o.fslot, o.slotNo, o.walk, o.arg, p, f, finish, false, [], 0, 0⟩
  let s := s.addReq { Req.base g pc t q p with
    effect := .engine id, scope := .crew, prom := prom, arrive := prom, perf := prom, clk := finish, level := 8 }
  let s := s.setLap k { s.lap k with ops := (s.lap k).ops ++ [op], last := some g.crewKey }
  (s.scheduleOp k op, { (s.joinT g t true q).passedIn p with block := [] })

/-! ## The image of a saved context (R248, R249, R357 step 4) -/

/-- Whether a lapidary holds nothing that a save area keeps. -/
def Lapidary.blank (x : Lapidary) : Bool := x.acc.isEmpty && x.term.isNone && x.plane.isNone && x.ops.isEmpty

/-- Bytes of the census with the staged scales (R233, R253): 16 counts of 4 bits for each step, and the scale entries. -/
def Lapidary.censusBytes (x : Lapidary) : Nat :=
  let entries := fun (t : List (List Nat)) => t.foldl (fun n r => n + r.length) 0
  (match x.term with | some t => 8 * (t.census.headD []).length + entries t.scales * scaleBytes t.typ.toNat | none => 0) +
  (match x.plane with | some a => entries a.scales * scaleBytes a.typ.toNat | none => 0)

/-- The clocks that an image takes, 256 bytes in each (R249). -/
def Lapidary.imageClocks (x : Lapidary) : Nat := 2560 + ceilDiv x.censusBytes 256

/-- The lapidary of a core is busy with an image for some clocks (R249). -/
def State.loadLap (s : State) (k : CoreId) (clocks : Nat) : State :=
  let s := s.unschedule fun d => d.task = .ev .lapidaryRestore && d.arg.core = k
  (s.setLap k { s.lap k with loading := true }).inClocks k clocks .lapidaryRestore { EvArg.none with core := k }

/-- Writes the lapidary that a saved context has left in a core to its save area (R248 step 3, R358): the state, and the clocks that
it takes. The layout inside the image is free (assumption row 127). -/
def State.spillLap (s : State) (k : CoreId) : State × Nat :=
  match (s.core k).lapHeld with
  | none => (s, 0)
  | some x =>
    let s := s.setCore k { s.core k with lapHeld := none }
    match s.ctx? x, s.saved.find? fun y => y.1 = x && y.2.1 = k with
    | some c, some y =>
      let base := c.saveBase + k.val * 2 ^ 22
      let lap := y.2.2.lap
      let f := s.freeNo
      let m := memWrite s.mem (base + 0x10000) ((List.range lap.censusBytes).map (Config.imageByte f))
      let m := memWrite m (base + 0x60000) ((List.range 0xA0000).map fun i => Config.imageByte f (0x50000 + i))
      ((s.setMem (memSetDWord m (base + 8) (memDWord m (base + 8) ||| 2))).useFree 1, lap.imageClocks)
    | _, _ => (s, 0)

/-- The first engine word of another context sends the image that stands in the core's lapidary away (R357 step 4). -/
def State.claimLap (s : State) (k : CoreId) : State :=
  if (s.core k).lapHeld.isSome then
    let (s, n) := s.spillLap k
    s.loadLap k n
  else s

/-! ## What an engine word waits for -/

/-- The clock after one, with the tick of its edge: that of a probe which passes at the end of the first (R234, R257). -/
def State.clockAfter (s : State) (k : CoreId) (n : Nat) : Nat × Nat := (s.edgeTick k (n + 1), n + 1)

/-- The clock at whose end a word that waits for an operation's completion goes on. -/
def State.lapRetry (s : State) (k : CoreId) (finish : Nat) : Nat := if s.clock k ≤ finish then finish else s.clock k + 1

/-- The clock at whose end an engine word goes on, where it has to wait: for a lapidary that is busy with an image (R249) or stops
(R248), or for the oldest of 64 accepted operations (R234). -/
def State.lapFull (s : State) (k : CoreId) : Option Nat :=
  let x := s.lap k
  if x.loading then some (s.clock k + 1)
  else match x.ops with
    | o :: _ => if o.finish = 0 then some (s.clock k + 1) else if 64 ≤ x.ops.length then some (s.lapRetry k o.finish) else none
    | [] => none

/-- Whether an `mma` or `mdrain` of another gang of the core, whose probe comes before clock `p`, or in it before this gang's by
R57, has still to read its record: the operations are accepted in the order of the probes (R234, assumption row 126). -/
def State.recordsAhead (s : State) (g : Gang) (p : Nat) : Bool :=
  s.gangs.any fun x => x.core = g.core && x.key != g.key && x.block.isEmpty && (match x.probing with
    | some (.mma .., _, false) | some (.mdrain .., _, false) => x.probeAt.2 < p || (x.probeAt.2 = p && x.pos < g.pos)
    | _ => false)

/-- Whether a layout slot is loaded in the present clock, by a pass that is still to come in it (R261). -/
def State.slotLoads (s : State) (k : CoreId) (l : Fin 4) : Bool :=
  s.agenda.any fun d => d.task = .ev .probePass && d.arg.clk = some (k, s.clock k) && (match s.gang? d.arg.key with
    | some x => (match x.probing with | some (.lrec _ _ n, _, _) => n = l && x.block.isEmpty | _ => false)
    | none => false)

/-! ## Staging words (R255) -/

/-- A staging's own limits, trap 0x01 (R235, R237, R255). -/
def stageLegal (raw : Vector DWord 2) (lay : Vector DWord 4) (kind : LapKind) : Bool :=
  let f := FmtSlot.read raw
  let w := typeBits f.typ
  let ok := match kind with
    | .mldA m k => fmtSlotOk raw isPlaneType && f.spn = 0 && 1 ≤ m && m ≤ 256 && k != 0 && k % 32 = 0 && k * w ≤ 4096
    | .mldB k n _ => fmtSlotOk raw isTermType && 1 ≤ n && n ≤ 256 && k != 0 && k % 32 = 0 && k ≤ 4096 &&
        keptOf f.spn k ≤ 4096 && keptOf f.spn k * n ≤ 65536
    | _ => true
  ok && (List.range 4).all (fun i => layExtent lay i != 0) && layBytes lay = stageBytes f kind

/-- The check of a staging against the partition: trap 0x04, then 0x08 (R186, R237). -/
def stagePlace (raw : Vector DWord 2) (lay : Vector DWord 4) (kind : LapKind) (len : Nat) : Option Trap :=
  let f := FmtSlot.read raw
  let runs := stageRuns f kind
  let odd := (isScaled f.typ && f.scales % 4 != 0) ||
    (match kind with | .mldB _ _ sm => (f.spn != 0 && f.idx % 4 != 0) || (sm && f.smooth % 4 != 0) | _ => false)
  if ((layChunks lay).any fun a => a < 0 || (len : Int) < a + layChunk lay) || runs.any fun r => len < r.1 + r.2 then some ⟨0x04, 0⟩
  else if odd then some ⟨0x08, 0⟩ else none

/-- The probe of a staging word (R255). -/
def stageProbe (t : TReg) (l : Fin 4) (fs : Fin 8) (kind : DWord → LapKind) : Probe := fun first _ s g pc =>
  match s.crew? g.crewKey with
  | none => .done s g
  | some c =>
    let k := g.core
    let s := s.claimLap k
    let raw := s.fmtSlot g fs
    let lay := (s.lap k).slots[l]
    let kd := kind g.opnd
    let (q, p) := if first then s.nextClock k else g.probeAt
    let g := { g with probeAt := (q, p) }
    if first && s.slotLoads k l then .later s g (s.clock k) 0x11
    else if !stageLegal raw lay kd then .trap ⟨0x01, 0⟩
    else match stagePlace raw lay kd c.partLen with
      | some x => .trap x
      | none =>
        if s.recordsAhead g p then .later s g (s.clock k + 1) 0x11
        else match s.lapFull k with
        | some n => .later s { g with probeAt := s.clockAfter k n } n 0x11
        | none =>
          if 1024 < s.promisesUsed k + 1 then .retry s g (q + 1) 0x12
          else
            let conf := (walkWork lay).foldl (fun n w => n + (w.2 - 1)) 0
            let cc := s.cc k
            let s := s.setCc k { cc with confNew := cc.confNew ++ [(p, conf)] }
            let (s, g) := s.acceptOp g pc t p q ⟨kd, raw, fs, lay, 0⟩
            .done s g

/-- The kind of a staging by its operand (R255). -/
def mldAKind (v : DWord) : LapKind := .mldA (bits v 31 16) (bits v 15 0)
def mldBKind (sm : Bool) (v : DWord) : LapKind := .mldB (bits v 15 0) (bits v 31 16) sm

def mldAProbe (t : TReg) (l : Fin 4) (f : Fin 8) : Probe := stageProbe t l f mldAKind
def mldBProbe (t : TReg) (l : Fin 4) (f : Fin 8) (sm : Bool) : Probe := stageProbe t l f (mldBKind sm)

/-- `mld.a` (R255). -/
def execMldA (n0 : Stall) (a : SReg) (t : TReg) (l : Fin 4) (f : Fin 8) (s : State) : Host.Outcome State Fault Refusal :=
  runObj { stall := n0, ext := true, kind := .mtx, reads := [.s a] } (.mldA n0 a t l f) (some a) (mldAProbe t l f) s
/-- `mld.b` (R255). -/
def execMldB (n0 : Stall) (a : SReg) (t : TReg) (l : Fin 4) (f : Fin 8) (sm : Bool) (s : State) :
    Host.Outcome State Fault Refusal :=
  runObj { stall := n0, ext := true, kind := .mtx, reads := [.s a] } (.mldB n0 a t l f sm) (some a) (mldBProbe t l f sm) s

/-! ## Words that read a record (R256 to R261) -/

/-- The checks on the place of a record of `n` bytes. -/
def recordPre (align n : Nat) (_ : State) (g : Gang) (c : Crew) : Option Trap :=
  let o := (lowWord g.opnd).toNat
  if o % align != 0 then some ⟨0x08, 0⟩ else if c.partLen < o + n then some ⟨0x04, 0⟩ else none

/-- A word that reads a record of `n` doublewords in its pass of the lane port; the record is kept while the word waits. -/
def recordProbe (align n : Nat) (op : List DWord → Bool → ObjOp) : Probe :=
  objProbe false (recordPre align (8 * n)) fun s g c pc =>
    let o := (lowWord g.opnd).toNat
    if g.block.isEmpty then
      let d := (List.range n).map fun i => s.objDw c o i
      op d true s { g with block := d } c pc
    else op g.block false s g c pc

/-- A doubleword of a record. -/
def dwAt (d : List DWord) (i : Nat) : DWord := d.getD i 0

/-- The limits of R256 on a parameter block. -/
def mmaBlockOk (d : List DWord) : Bool :=
  let k := bits (dwAt d 0) 47 32
  let n := bits (dwAt d 0) 31 16
  let m := bits (dwAt d 0) 15 0
  let r := bits (dwAt d 1) 15 0
  bits (dwAt d 0) 63 48 = 0 && bits (dwAt d 1) 63 49 = 0 && bits (dwAt d 1) 47 44 = 0 && bits (dwAt d 1) 39 39 = 0 &&
  bits (dwAt d 1) 35 35 = 0 && bits (dwAt d 1) 31 16 = 0 && (d.drop 2).all (fun x => x = 0) &&
  1 ≤ m && m ≤ 256 && 1 ≤ n && n ≤ 256 && k % 32 = 0 && 32 ≤ k && k ≤ 4096 && r % 32 = 0 && r < k

/-- The plane operand that the accepted operations leave staged: its slot, M and K (R257). -/
def Lapidary.planeLeft (x : Lapidary) : Option (Fin 8 × Nat × Nat) :=
  x.ops.foldl (fun p o => match o.kind with | .mldA m k => some (o.slotNo, m, k) | _ => p)
    (x.plane.map fun a => (a.slot, a.m, a.k))

/-- Whether a parameter block agrees with the staged operands (R257); every term staging before it has completed. -/
def Lapidary.agrees (x : Lapidary) (d : List DWord) : Bool :=
  match x.planeLeft, x.term with
  | some (fa, m, k), some t =>
    bits (dwAt d 1) 34 32 = fa.val && bits (dwAt d 1) 38 36 = t.slot.val && bits (dwAt d 1) 43 40 = t.spn &&
    bits (dwAt d 0) 15 0 ≤ m && bits (dwAt d 0) 31 16 ≤ t.n && bits (dwAt d 0) 47 32 ≤ k && bits (dwAt d 0) 47 32 ≤ t.k
  | _, _ => false

/-- `mma` once its block is read (R257). -/
def mmaOp (t : TReg) (d : List DWord) (_ : Bool) : ObjOp := fun s g _ pc =>
  let k := g.core
  let s := s.claimLap k
  let lap := s.lap k
  let terms := lap.ops.filter fun o => match o.kind with | .mldB .. => true | _ => false
  let wait := fun (n : Nat) => Pass.later s { g with probeAt := s.clockAfter k n } n 0x11
  if !mmaBlockOk d then .trap ⟨0x01, 0⟩
  else match terms.getLast? with
  | some o => wait (s.lapRetry k o.finish)
  | none =>
    if !lap.agrees d then .trap ⟨0x01, 0⟩
    else match s.lapFull k with
    | some n => wait n
    | none =>
      let (q, p) := g.probeAt
      if 1024 < s.promisesUsed k + 1 then .later s { g with probeAt := s.clockAfter k (s.clock k + 1) } (s.clock k + 1) 0x12
      else
        let (s, g) := s.acceptOp g pc t p q
          ⟨.mma (bits (dwAt d 0) 15 0) (bits (dwAt d 0) 31 16) (bits (dwAt d 0) 47 32) (bits (dwAt d 1) 15 0)
            (bits (dwAt d 1) 48 48 = 1), Vector.replicate 2 0, 0, Vector.replicate 4 0, (lowWord g.opnd).toNat⟩
        .done s g
def mmaProbe (t : TReg) : Probe := recordProbe 64 8 (mmaOp t)

/-- `mma` (R257). -/
def execMma (n0 : Stall) (a : SReg) (t : TReg) (s : State) : Host.Outcome State Fault Refusal :=
  runObj { stall := n0, kind := .mtx, reads := [.s a] } (.mma n0 a t) (some a) (mmaProbe t) s

/-- The checks of `mdrain` on its record, in their order (R259). -/
def drainCheck (raw : Vector DWord 2) (d : List DWord) (len : Nat) : Option Trap :=
  let dest := bits (dwAt d 0) 31 0
  let stride := bits (dwAt d 0) 63 32
  let n := bits (dwAt d 1) 31 16
  let m := bits (dwAt d 1) 15 0
  let f := FmtSlot.read raw
  let rb := ceilDiv (n * typeBits f.typ) 8
  if dest % 32 != 0 || stride % 32 != 0 then some ⟨0x08, 0⟩
  else if bits (dwAt d 1) 63 32 != 0 || !(1 ≤ m && m ≤ 256 && 1 ≤ n && n ≤ 256) || !fmtSlotOk raw isDrainType || f.spn != 0 ||
      (isScaled f.typ && n % 32 != 0) || (1 < m && stride < rb) then some ⟨0x01, 0⟩
  else if (drainRows f m n dest stride).any fun r => len < r.1 + r.2 then some ⟨0x04, 0⟩
  else if isScaled f.typ && f.scales % 4 != 0 then some ⟨0x08, 0⟩ else none

/-- `mdrain` once its record is read (R259). -/
def mdrainOp (t : TReg) (fs : Fin 8) (d : List DWord) (_ : Bool) : ObjOp := fun s g c pc =>
  let k := g.core
  let s := s.claimLap k
  let raw := s.fmtSlot g fs
  match drainCheck raw d c.partLen with
  | some x => .trap x
  | none => match s.lapFull k with
    | some n => .later s { g with probeAt := s.clockAfter k n } n 0x11
    | none =>
      let (q, p) := g.probeAt
      if 1024 < s.promisesUsed k + 1 then .later s { g with probeAt := s.clockAfter k (s.clock k + 1) } (s.clock k + 1) 0x12
      else
        let (s, g) := s.acceptOp g pc t p q
          ⟨.mdrain (bits (dwAt d 1) 15 0) (bits (dwAt d 1) 31 16) (bits (dwAt d 0) 31 0) (bits (dwAt d 0) 63 32), raw, fs,
            Vector.replicate 4 0, 0⟩
        .done s g
def mdrainProbe (t : TReg) (f : Fin 8) : Probe := recordProbe 16 2 (mdrainOp t f)

/-- `mdrain` (R259). -/
def execMdrain (n0 : Stall) (a : SReg) (t : TReg) (f : Fin 8) (s : State) : Host.Outcome State Fault Refusal :=
  runObj { stall := n0, ext := true, kind := .mtx, reads := [.s a] } (.mdrain n0 a t f) (some a) (mdrainProbe t f) s

/-- The probe of `mzero` (R260). -/
def mzeroProbe (t : TReg) : Probe := fun first _ s g pc =>
  let k := g.core
  let s := s.claimLap k
  let (q, p) := if first then s.nextClock k else g.probeAt
  let g := { g with probeAt := (q, p) }
  if s.recordsAhead g p then .later s g (s.clock k + 1) 0x11
  else match s.lapFull k with
  | some n => .later s { g with probeAt := s.clockAfter k n } n 0x11
  | none =>
    if 1024 < s.promisesUsed k + 1 then .retry s g (q + 1) 0x12
    else
      let (s, g) := s.acceptOp g pc t p q ⟨.mzero, Vector.replicate 2 0, 0, Vector.replicate 4 0, 0⟩
      .done s g

/-- `mzero` (R260). -/
def execMzero (n0 : Stall) (t : TReg) (s : State) : Host.Outcome State Fault Refusal :=
  runProbe { stall := n0, kind := .mtx } (.mzero n0 t) (mzeroProbe t) s

/-- The check of a layout record (R186, R261). -/
def layoutCheck (d : List DWord) : Option Trap :=
  let w : Vector DWord 4 := Vector.ofFn fun i => dwAt d i.val
  if bits (dwAt d 2) 63 34 != 0 || (List.range 4).any fun i => layExtent w i = 0 then some ⟨0x01, 0⟩
  else if layBase w % 32 != 0 || (List.range 4).any fun i => layStride w i % 32 != 0 then some ⟨0x08, 0⟩
  else none

/-- `lrec` once its record is read (R261). -/
def lrecOp (l : Fin 4) (d : List DWord) (_ : Bool) : ObjOp := fun s g _ _ =>
  let s := s.claimLap g.core
  match layoutCheck d with
  | some x => .trap x
  | none =>
    let lap := s.lap g.core
    .done (s.setLap g.core { lap with slots := lap.slots.set l (Vector.ofFn fun i => dwAt d i.val) }) { g with block := [] }
def lrecProbe (l : Fin 4) : Probe := recordProbe 32 4 (lrecOp l)

/-- `lrec` (R261). -/
def execLrec (n0 : Stall) (a : SReg) (l : Fin 4) (s : State) : Host.Outcome State Fault Refusal :=
  runObj { stall := n0, kind := .mtx, reads := [.s a] } (.lrec n0 a l) (some a) (lrecProbe l) s

/-! ## Immediate words (R262) -/

/-- A scalar word of class MTX that is taken from the state at its issue clock. -/
def mtxScalar (n0 : Stall) (d : SReg) (val : State → Gang → DWord) (change : State → Gang → State) (s : State) :
    Host.Outcome State Fault Refusal :=
  runWord { stall := n0, kind := .mtx, writes := [.s d] }
    (fun s' g _ => .ok (change s' g, g.writeS s.freeNo (s.clock g.core) 2 d (val s g))) s

/-- The conflict counter as it stood before clock `c` (R188). -/
def CoreCtx.conflicts (x : CoreCtx) (c : Nat) : Word :=
  BitVec.ofNat 32 (min ((x.confNew.filter fun e => e.1 < c).foldl (fun n e => n + e.2) x.conflict.toNat) (2 ^ 32 - 1))

/-- `mstat` (R246, R262). -/
def execMstat (n0 : Stall) (d : SReg) (n : Fin 5) (s : State) : Host.Outcome State Fault Refusal :=
  mtxScalar n0 d (fun s g => (s.lap g.core).counters[n]) (fun s _ => s) s
/-- `lconf` (R262). -/
def execLconf (n0 : Stall) (d : SReg) (s : State) : Host.Outcome State Fault Refusal :=
  mtxScalar n0 d (fun s g => ((s.cc g.core).conflicts (s.clock g.core)).zeroExtend 64) (fun s _ => s) s
/-- `lconf.clr` (R188, R262): additions of the same clock are lost. -/
def execLconfClr (n0 : Stall) (d : SReg) (s : State) : Host.Outcome State Fault Refusal :=
  mtxScalar n0 d (fun s g => ((s.cc g.core).conflicts (s.clock g.core)).zeroExtend 64)
    (fun s g =>
      let cc := s.cc g.core
      s.setCc g.core { cc with conflict := 0, confNew := cc.confNew.filter fun e => s.clock g.core < e.1 }) s
/-- `fslot` (R262): unchecked. -/
def execFslot (n0 : Stall) (d : SReg) (f : Fin 8) (h : Bool) (s : State) : Host.Outcome State Fault Refusal :=
  mtxScalar n0 d (fun s g => if h then (s.fmtSlot g f)[1] else (s.fmtSlot g f)[0]) (fun s _ => s) s

/-! ## Lane conversions (R263 to R268) -/

/-- The frame of a lane conversion by a format slot: its check raises trap 0x01 (R263). -/
def convSpec (n0 : Stall) (f : Fin 8) (reads writes : List RegRef) : WordSpec :=
  { stall := n0, ext := true, kind := .mtx, reads := reads, writes := writes
    illegal := fun s g => !fmtSlotOk (s.fmtSlot g f) isBlockType }

/-- A lane conversion: `val` is given the type, the free-value number, the clock, the gang and the lane. -/
def convWord (n0 : Stall) (f : Fin 8) (lat : Nat) (d : VReg) (reads : List RegRef)
    (val : Nat → Nat → Nat → Gang → Nat → Word) (s : State) : Host.Outcome State Fault Refusal :=
  runWord (convSpec n0 f reads [.v d]) (fun s' g _ =>
    let c := (FmtSlot.read (s.fmtSlot g f)).typ
    .ok (s', g.writeV s.freeNo (s.clock g.core) lat d g.active (val c s.freeNo (s.clock g.core) g))) s

/-- The values of the active lanes of a source. -/
def Gang.laneVals (g : Gang) (f c : Nat) (a : VSrc) : List FVal :=
  (lanesOf g.active).map fun l => Fmt.f32.decode (g.readSrc f c a l).toNat

/-- `qnt` under a given scale (R264). -/
def execQnt (n0 : Stall) (d : VReg) (a b : VSrc) (f : Fin 8) (s : State) : Host.Outcome State Fault Refusal :=
  convWord n0 f 4 d (srcRefs a ++ srcRefs b) (fun c fr ck g l =>
    laneWord (laneElem c (elemOf c (g.readSrc fr ck b l).toNat (Fmt.f32.decode (g.readSrc fr ck a l).toNat)))) s

/-- `qnt` under the scale it computes over the active lanes (R264); D = C raises trap 0x01. -/
def execQntScale (n0 : Stall) (d : VReg) (a : VSrc) (c : VReg) (f : Fin 8) (s : State) : Host.Outcome State Fault Refusal :=
  runWord { (convSpec n0 f (srcRefs a) [.v d, .v c]) with
      illegal := fun s g => !fmtSlotOk (s.fmtSlot g f) isBlockType || d = c } (fun s' g _ =>
    let ty := (FmtSlot.read (s.fmtSlot g f)).typ
    let fr := s.freeNo
    let ck := s.clock g.core
    let vs := g.laneVals fr ck a
    let sc := chooseScale ty vs
    let zero := vs.all FVal.isZero
    let elem := fun (l : Nat) => laneWord (laneElem ty
      (if zero then 0 else elemOf ty sc (Fmt.f32.decode (g.readSrc fr ck a l).toNat)))
    .ok (s', (g.writeV fr ck 8 d g.active elem).writeV fr ck 8 c g.active fun _ => laneWord (laneScale ty sc))) s

/-- `dqnt` (R265). -/
def execDqnt (n0 : Stall) (d : VReg) (a b : VSrc) (f : Fin 8) (s : State) : Host.Outcome State Fault Refusal :=
  convWord n0 f 4 d (srcRefs a ++ srcRefs b) (fun c fr ck g l =>
    laneWord (dequant c (g.readSrc fr ck b l).toNat (g.readSrc fr ck a l).toNat)) s

/-- `bscale` (R266). -/
def execBscale (n0 : Stall) (d : VReg) (a : VSrc) (f : Fin 8) (s : State) : Host.Outcome State Fault Refusal :=
  convWord n0 f 6 d (srcRefs a) (fun c fr ck g _ => laneWord (laneScale c (chooseScale c (g.laneVals fr ck a)))) s

/-- `tcount` (R267). -/
def execTcount (n0 : Stall) (d : VReg) (a : VSrc) (w : PlaneWidth) (s : State) : Host.Outcome State Fault Refusal :=
  runPure { stall := n0, ext := true, kind := .mtx, reads := srcRefs a, writes := [.v d] }
    (fun f c g => g.writeV f c 2 d g.active fun l => laneWord (terms (lowInt (w.val + 2) (g.readSrc f c a l).toNat))) s

/-! ## What the engine does -/

/-- The operation that an agenda entry names. -/
def State.lapOp? (s : State) (k : CoreId) (id : Nat) : Option LapOp := (s.lap k).ops.find? fun o => o.id = id
def State.putLapOp (s : State) (k : CoreId) (o : LapOp) : State :=
  s.setLap k { s.lap k with ops := (s.lap k).ops.map fun x => if x.id = o.id then o else x }

/-- A plane-port read of a staging, at its booked clock (R184, R269). -/
def State.stageReadDue (s : State) : State :=
  let k := s.arg.core
  match s.lapOp? k s.arg.n with
  | none => s
  | some o => match (if o.begin = 0 || s.arg.m < o.begin then none else s.crew? (crewKeyOf o.gang)) with
    | none => s
    | some c =>
      s.putLapOp k { o with got := o.got ++ s.arg.pairs.flatMap fun r => memBytes (s.core c.core).spad (c.partBase + r.1) r.2 }

/-- LAPIDARY_OP_START (R234): the operation runs from F on. -/
def execLapidaryOpStart (s : State) : Host.Outcome State Fault Refusal :=
  let k := s.arg.core
  match s.lapOp? k s.arg.n with
  | none => .next s
  | some o => if o.begin = s.arg.m then .next (s.putLapOp k { o with started := true }) else .next s

/-- An operation's effect (R241, R242, R255, R259, R260). -/
def State.lapEffect (s : State) (k : CoreId) (o : LapOp) : State :=
  let lap := s.lap k
  let f := FmtSlot.read o.fslot
  match o.kind with
  | .mldA m n => s.setLap k { lap with plane := some (planeOf o.slotNo f m n o.got) }
  | .mldB n c sm => s.setLap k { lap with term := some (termOf o.slotNo f n c sm o.got) }
  | .mma m n hi r acc => s.setLap k (lap.runMma m n r hi acc o.waits)
  | .mzero => s.setLap k { lap with acc := [] }
  | .mdrain m n dest stride => match s.crew? (crewKeyOf o.gang) with
    | none => s
    | some c =>
      let co := s.core c.core
      s.setCore c.core { co with spad := drainTo co.spad c.partBase f lap.acc m n dest stride }

/-- An accepted `mma` with the clocks from its acceptance on in which an `mld.a` that has completed was running (R246). -/
def LapOp.waited (o x : LapOp) : LapOp :=
  match o.kind, x.kind with
  | .mldA .., .mma .. => { x with waits := x.waits + (o.finish - max o.begin x.probe) }
  | _, _ => x

/-- LAPIDARY_OP_COMPLETE (R241): the operation takes effect and its request settles. -/
def execLapidaryOpComplete (s : State) : Host.Outcome State Fault Refusal :=
  let k := s.arg.core
  match s.lapOp? k s.arg.n with
  | none => .next s
  | some o =>
    if o.finish != s.arg.m then .next s
    else
      let s := s.lapEffect k o
      let s := s.setLap k { s.lap k with ops := ((s.lap k).ops.filter fun x => x.id != o.id).map o.waited }
      match s.req? o.req with
      | some r => .next (s.land r)
      | none => .next (s.checkRetire (crewKeyOf o.gang))

end Sys2Proof.Machine
end

