-- ==== Sys2Proof/Machine/Queue.lean ====
section
/-!
DEFINITION. The hub's queue unit (R331 to R344, R348, R412 to R414): descriptors and their check, resident slots, refills,
swaps, pins, waiters, host pushes, and the words `qbind`, `qpush`, `qpop`, `qpeek`, `qlen`.
-/
namespace Sys2Proof.Machine

/-! ## Descriptors (R331, R332) -/

/-- A queue descriptor as it stands in memory (R331). -/
structure QDesc where
  addr     : Nat
  rbase    : Nat
  owner    : CtxId
  valid    : Bool
  dispatch : Bool
  hostw    : Bool
  rk       : Nat
  template : Nat
  head     : Word
  tail     : Word
  drops    : Word
  clean    : Bool
deriving DecidableEq, Repr

/-- The descriptor of a handle in a context's queue table; nothing beyond the table. -/
def State.qdesc (s : State) (c : Ctx) (h : QHandle) : Option QDesc :=
  if h.toNat < 2 ^ c.qtq then
    let a := c.qtBase + 64 * h.toNat
    let d := fun (i : Nat) => memDWord s.mem (a + 8 * i)
    some { addr := a, rbase := bits (d 0) 51 0, owner := BitVec.ofNat 12 (bits (d 1) 63 52), valid := bits (d 1) 51 51 = 1
           dispatch := bits (d 1) 50 50 = 1, hostw := bits (d 1) 49 49 = 1, rk := bits (d 1) 44 40
           template := bits (d 1) 39 20, head := highWord (d 2), tail := lowWord (d 2), drops := highWord (d 3)
           clean := bits (d 0) 63 52 = 0 && bits (d 1) 48 45 = 0 && bits (d 1) 19 0 = 0 && lowWord (d 3) = 0 &&
             d 4 = 0 && d 5 = 0 && d 6 = 0 && d 7 = 0 }
  else none

/-- The descriptor that a context may use under a handle (R332). -/
def State.usableQueue (s : State) (c : Ctx) (h : QHandle) : Option QDesc :=
  match s.qdesc c h with
  | some d => if d.valid && d.owner = c.id && d.clean && 6 ≤ d.rk && d.rk ≤ 20 then some d else none
  | none => none

/-- The check of a handle (R332); `takes` is that the word reads records. -/
def State.queueTrap (s : State) (c : Ctx) (h : QHandle) (takes : Bool) : Option Trap :=
  match s.usableQueue c h with
  | none => some ⟨0x06, h.zeroExtend 32⟩
  | some d => if takes && d.dispatch then some ⟨0x05, h.zeroExtend 32⟩ else none

/-- The address of a ring position (R331). -/
def QDesc.at (d : QDesc) (p : Word) : Nat := d.rbase + 32 * (p.toNat % 2 ^ d.rk)

/-! ## Records (R333) -/

/-- The words of a record in memory. -/
def recordWords (m : List Host.Cell) (a : Nat) : Vector Word 8 := Vector.ofFn fun i => memWord m (a + 4 * i.val)
/-- The bytes of a record. -/
def recordBytes (w : Vector Word 8) : List Byte := w.toList.flatMap fun x => natLe 4 x.toNat
/-- A record as lanes 0 to 7 receive it. -/
def recordLanes (w : Vector Word 8) : List (Nat × List Byte) :=
  (List.range 8).map fun i => (i, natLe 4 (vget w i).toNat)
/-- What `qpeek` lands for an empty queue (R343). -/
def emptyRecord : Vector Word 8 := #v[0xFF, 0, 0, 0, 0, 0, 0, 0]

/-! ## The hub's reads and writes of memory (R340, R413) -/

/-- Books a read of the hub from tick `t`; the tick at which the data reaches the hub (R413). -/
def State.hubRead (s : State) (a n t : Nat) : State × Nat :=
  s.lineRead none a n t

/-- Books a write of the hub from tick `t`; the booking, whose tick of performance is the write's. -/
def State.hubWrite (s : State) (a : Nat) (bs : List Byte) (t : Nat) : State × Booked :=
  let (s, b) := s.lineWrite none a bs.length t
  (s.scheduleTask ⟨b.perf, 3, .hubWrite, { EvArg.none with n := a, bytes := bs }⟩, b)

/-- A write of the hub performed at its home. -/
def State.hubWriteDue (s : State) : State :=
  let a := physLine s.arg.n s.arg.bytes.length
  (s.writeHome a.home a.line 0 [(s.arg.n, s.arg.bytes)]).release a.line

/-! ## Resident slots (R335) -/

def State.queue? (s : State) (c : CtxId) (h : QHandle) : Option Queue :=
  s.queues.resident.find? fun q => q.ctx = c && q.handle = h
def State.putQueue (s : State) (q : Queue) : State :=
  s.setQueues { s.queues with resident := s.queues.resident.map fun x => if x.ctx = q.ctx && x.handle = q.handle then q else x }
def State.readyQueue? (s : State) (c : CtxId) (h : QHandle) : Option Queue :=
  match s.queue? c h with | some q => if q.phase = .ready then some q else none | none => none

/-- The count of a queue (R335). -/
def Queue.count (q : Queue) : Nat := q.recs.length + (q.tail - q.head).toNat

def State.pinned (s : State) (c : CtxId) (h : QHandle) : Bool := s.queues.pins.contains (c, h)

/-- Whether a request is one on a queue. -/
def Req.onQueue (r : Req) (c : CtxId) (h : QHandle) : Bool :=
  r.ctx = c && (match r.effect with | .queue _ x => x = h | _ => false)
/-- Whether a request is a push. -/
def Req.pushes (r : Req) : Bool := match r.effect with | .queue (.push _) _ => true | _ => false

/-- Starts the refills of a queue (R336), booked from tick `t`. -/
def State.refill (s : State) (d : QDesc) (c : CtxId) (h : QHandle) (t : Nat) : Nat → State
  | 0 => s
  | fuel + 1 =>
    match s.readyQueue? c h with
    | some q =>
      if q.recs.length < 32 && q.head != q.tail then
        let (s, land) := s.hubRead (d.at q.head) 32 t
        let s := s.schedule land .queueRefillLanding { EvArg.none with ctx := c, handle := h, n := d.at q.head, m := land }
        (s.putQueue { q with recs := q.recs ++ [⟨emptyRecord, land⟩], head := q.head + 1 }).refill d c h t fuel
      else s
    | none => s

/-- Lets the queues that wait for a slot try again (R337). -/
def State.retryWanted (s : State) : State :=
  if s.queues.wanted.isEmpty then s else s.schedule s.now .queueSwapIn EvArg.none

/-- A queue miss (R337): the queue waits for a slot, unless it has one. -/
def State.wantQueue (s : State) (c : CtxId) (h : QHandle) : State :=
  let has := match s.queue? c h with | some q => q.phase != .leaving | none => false
  if has || s.queues.wanted.contains (c, h) then s
  else (s.setQueues { s.queues with wanted := s.queues.wanted ++ [(c, h)] }).retryWanted

/-! ## Appending and delivering (R336, R342) -/

/-- A push settles at tick `t`. -/
def State.pushDone (s : State) (o : Option Req) (t : Nat) : State :=
  match o with
  | none => s
  | some r =>
    let r := { r with perfDone := true, prom := t, arrive := t, held := none }
    let s := (s.putReq r).schedule t .requestLanding { EvArg.none with req := r.id }
    s.refreshOf r

/-- Carries a record to a waiting popper's core (R342); the push's slot is at the present tick, the record leaves at `t`. -/
def State.deliver (s : State) (id : Nat) (w : Vector Word 8) (t : Nat) : State :=
  match s.req? id with
  | none => s
  | some r =>
    let b := bookPath (s.hier.prune s.now) t (fromHub (dieOf r.core) 1)
    let land := b.t + returnTicks
    let r := { r with path := b.path, slots := b.slots, perf := s.now, perfDone := true, prom := land, arrive := land
                      got := recordLanes w }
    let s := ((s.setHier b.h).putReq r).schedule land .requestLanding { EvArg.none with req := id }
    s.refreshOf r

/-- Appends a record to a resident queue that is not full, or delivers it to the first waiter; it is written at tick `t`,
or when its ring write is performed (R336, R341, R342). -/
def State.append (s : State) (d : QDesc) (q : Queue) (w : Vector Word 8) (o : Option Req) (t : Nat) : State :=
  match q.waiters with
  | id :: rest => (((s.putQueue { q with waiters := rest }).deliver id w t).pushDone o t).retryWanted
  | [] =>
    let s := if d.dispatch then s.schedule t .dispatchTake EvArg.none else s
    if q.head != q.tail || q.recs.length = 32 then
      let (s, b) := s.hubWrite (d.at q.tail) (recordBytes w) t
      (s.putQueue { q with tail := q.tail + 1 }).pushDone (o.map fun r => { r with path := b.path, slots := b.slots }) b.perf
    else (s.putQueue { q with recs := q.recs ++ [⟨w, 0⟩] }).pushDone o t

/-- A place has become free: the first push that is held on the full queue is appended in this tick (R341). -/
def State.appendHeld (s : State) (d : QDesc) (c : CtxId) (h : QHandle) : State :=
  match s.readyQueue? c h, s.reqs.find? fun r => r.onQueue c h && r.pushes && r.held.isSome && !r.withdrawn with
  | some q, some r =>
    if q.count < 2 ^ d.rk then
      (match r.effect with | .queue (.push w) _ => s.append d q w (some r) s.now | _ => s)
    else s
  | _, _ => s

/-- The head record taken from a queue (R336): refills start at tick `t`, and a held push takes the place. -/
def State.takeHead (s : State) (d : QDesc) (q : Queue) (t : Nat) : State :=
  ((s.putQueue { q with recs := q.recs.drop 1 }).refill d q.ctx q.handle t 33).appendHeld d q.ctx q.handle

/-! ## The queue unit's slot (R340 to R343) -/

/-- A slot of the queue unit; the request's action takes place in its tick, and it completes 4 ticks later (R340). -/
def unitStage (floor : Nat) : Stage := ⟨.queueUnit, 0, 0, floor, 0, true, 1, .ordinary, true, 10⟩

/-- Books a queue request (R340, R412): from its core, or from the hub for one that waits there. -/
def State.bookQueue (s : State) (r : Req) (hub : Bool) (t floor : Nat) : State :=
  let back := match r.effect with
    | .queue (.pop _) _ | .queue (.peek _) _ => [{ linkStage 1 ⟨.hub, .die (dieOf r.core)⟩ with gap := 4 }]
    | _ => []
  let way := if hub then [unitStage floor] else toHub (dieOf r.core) 1 ++ [unitStage 0]
  let b := bookPath (s.hier.prune s.now) (if hub then t else max t floor) (way ++ back)
  let r := { { r with perfDone := false, held := none }.rebooked b with level := 10 }
  let s := ((s.setHier b.h).putReq r).arm r
  s.refreshOf r

/-- Holds a queue request with class 2 (R337, R341). -/
def State.holdQueue (s : State) (r : Req) (h : QHandle) : State := s.holdReq r.id .queue (h.zeroExtend 32) 64

/-- A push of the same gang to the same queue that came before and is not yet appended (R341). -/
def State.earlierPush (s : State) (r : Req) (h : QHandle) : Option Req :=
  s.reqs.find? fun x => x.id < r.id && x.owner = r.owner && x.orphan = r.orphan && x.onQueue r.ctx h && x.pushes && !x.perfDone && x.refused.isNone

/-- A push in its slot on a resident queue (R341). -/
def State.actPush (s : State) (d : QDesc) (q : Queue) (r : Req) (w : Vector Word 8) : State :=
  match s.earlierPush r q.handle with
  | some x => if x.held.isSome then s.holdQueue r q.handle else s.bookQueue r true (max s.now x.perf + 1) 0
  | none =>
    if q.count < 2 ^ d.rk then s.append d q w (some r) (s.now + 4)
    else if r.replied then s.holdQueue r q.handle
    else s.putReq { r with refused := some (0x0D, q.handle.zeroExtend 32), perfDone := true }

/-- A pop or a peek in its slot on a resident queue (R340, R342, R343). -/
def State.actTake (s : State) (d : QDesc) (q : Queue) (r : Req) (pop : Bool) : State :=
  let lands := fun (s : State) (w : Vector Word 8) =>
    let r := { r with perfDone := true, got := recordLanes w }
    (s.putReq r).schedule r.arrive .requestLanding { EvArg.none with req := r.id }
  match q.recs with
  | x :: _ =>
    if s.now < x.due then s.bookQueue r true x.due 0
    else lands (if pop then s.takeHead d q (s.now + 4) else s) x.words
  | [] =>
    if !pop then lands s emptyRecord
    else if 4096 ≤ s.queues.resident.foldl (fun n q => n + q.waiters.length) 0 then s.bookQueue r true (s.now + 1) 0
    else
      let r := { r with site := true, prom := openTick s.now, arrive := openTick s.now }
      let s := (s.putQueue { q with waiters := q.waiters ++ [r.id] }).putReq r
      s.refreshOf r

/-- The value that `qlen` writes (R343). -/
def State.lenValue (s : State) (c : Ctx) (h : QHandle) : DWord :=
  let n := match s.readyQueue? c.id h, s.qdesc c h with
    | some q, _ => q.count
    | none, some d => (d.tail - d.head).toNat
    | none, none => 0
  BitVec.ofNat 64 (n % 2 ^ 32 + (if (s.readyQueue? c.id h).isSome then 2 ^ 32 else 0) + (if s.pinned c.id h then 2 ^ 33 else 0))

/-- A length request in its slot, or once the descriptor of a queue that is not resident has been read (R343). -/
def State.actLen (s : State) (c : Ctx) (d : QDesc) (r : Req) (h : QHandle) : State :=
  if (s.readyQueue? c.id h).isSome || s.arg.flag then
    let s := if s.arg.flag then s.release (d.addr / 128 * 128) else s
    s.putReq { r with perfDone := true, got := [(0, natLe 8 (s.lenValue c h).toNat)] }
  else
    let (s, t) := s.hubRead d.addr 64 s.now
    let r := { r with perfDone := true, reply := max r.reply (t + 16) }
    ((s.putReq r).schedule t .queueUnitRequest { EvArg.none with req := r.id, flag := true }).schedule r.reply .probePass
      { EvArg.none with key := r.owner }

/-- A pin in its slot (R338, R343, R414). -/
def State.actPin (s : State) (c : Ctx) (r : Req) (h : QHandle) : State :=
  if s.pinned c.id h then s.putReq { r with perfDone := true }
  else if 448 ≤ s.queues.pins.length then s.putReq { r with perfDone := true, refused := some (0x0D, h.zeroExtend 32) }
  else
    let s := (s.putReq { r with perfDone := true }).setQueues { s.queues with pins := s.queues.pins ++ [(c.id, h)] }
    if (s.readyQueue? c.id h).isSome then s else s.wantQueue c.id h

/-- A push of the host in its slot (R344). -/
def State.actHost (s : State) (c : Ctx) (d : QDesc) (h : QHandle) (w : Vector Word 8) : State :=
  let behind := s.queues.hostWait.any fun x => x.1 = c.id && x.2.1 = h
  match (if behind then none else s.readyQueue? c.id h) with
  | none => (s.setQueues { s.queues with hostWait := s.queues.hostWait ++ [(c.id, h, w)] }).wantQueue c.id h
  | some q =>
    let q := { q with used := s.now }
    if q.count < 2 ^ d.rk then (s.putQueue q).append d q w none (s.now + 4)
    else s.hubWords (d.addr + 24) [joinWords 0 (satInc d.drops)]

/-- QUEUE_UNIT_REQUEST (R340): a request is served in its slot. -/
def execQueueUnitRequest (s : State) : Host.Outcome State Fault Refusal :=
  let a := s.arg
  if a.write then
    match s.ctx? a.ctx with
    | none => .next s
    | some c => match s.usableQueue c a.handle with
      | none => .next s
      | some d => .next (s.actHost c d a.handle a.words)
  else match s.req? a.req with
  | none => .next s
  | some r =>
    match s.ctx? r.ctx, r.effect with
    | some c, .queue op h =>
      if r.held.isSome || (!a.flag && (r.perfDone || r.site || s.now != r.perf)) then .next s
      else match s.qdesc c h with
      | none => .next s
      | some d =>
        let s := match s.queue? c.id h with | some q => s.putQueue { q with used := s.now } | none => s
        let miss := fun (_ : Unit) => (s.holdQueue r h).wantQueue c.id h
        match op, s.readyQueue? c.id h with
        | .len _, _ => .next (s.actLen c d r h)
        | .pin, _ => .next (s.actPin c r h)
        | .unpin, _ =>
          .next ((s.putReq { r with perfDone := true }).setQueues
            { s.queues with pins := s.queues.pins.filter fun x => x != (c.id, h) }).retryWanted
        | _, none => .next (miss ())
        | .push w, some q => .next (s.actPush d q r w)
        | .pop _, some q => .next (s.actTake d q r true)
        | .peek _, some q => .next (s.actTake d q r false)
    | _, _ => .next s

/-- QUEUE_REFILL_LANDING (R336): the record stands in the slot. -/
def execQueueRefillLanding (s : State) : Host.Outcome State Fault Refusal :=
  let a := s.arg
  match s.queue? a.ctx a.handle with
  | none => .next s
  | some q =>
    let s := s.release (a.n / 128 * 128)
    let w := recordWords s.mem a.n
    let s := s.putQueue { q with recs := match q.recs.findIdx? fun x => x.due = a.m with
      | some i => q.recs.set i ⟨w, 0⟩
      | none => q.recs }
    .next ((s.schedule s.now .dispatchTake EvArg.none).retryWanted)

/-! ## Swaps (R337) -/

/-- Whether a queue may be swapped out (R337, R338). -/
def State.mayLeave (s : State) (q : Queue) : Bool :=
  q.phase = .ready && !s.pinned q.ctx q.handle && q.waiters.isEmpty && (q.recs.all fun x => x.due = 0) &&
  !(s.reqs.any fun r => r.onQueue q.ctx q.handle) && !(s.queues.hostWait.any fun x => x.1 = q.ctx && x.2.1 = q.handle)

/-- Writes a queue's records and its HEAD and TAIL to memory (R337); its slot is free in the tick after the last write. -/
def State.swapOut (s : State) (q : Queue) : State :=
  match (s.ctx? q.ctx).bind fun c => s.qdesc c q.handle with
  | none => s.setQueues { s.queues with resident := s.queues.resident.filter fun x => !(x.ctx = q.ctx && x.handle = q.handle) }
  | some d =>
    let head := q.head - BitVec.ofNat 32 q.recs.length
    let (s, last, _) := q.recs.foldl (fun (x : State × Nat × Word) r =>
      let (s, b) := x.1.hubWrite (d.at x.2.2) (recordBytes r.words) x.1.now
      (s, max x.2.1 b.perf, x.2.2 + 1)) (s, s.now, head)
    let (s, b) := s.hubWrite (d.addr + 16) (natLe 8 (joinWords q.tail head).toNat) s.now
    (s.putQueue { q with phase := .leaving, recs := [], head := head }).schedule (max last b.perf + 1) .queueSwapIn
      { EvArg.none with ctx := q.ctx, handle := q.handle, flag := true }

/-- One queue that waits for a slot takes a free one, or has a victim swapped out (R337). -/
def State.trySwap (s : State) (c : CtxId) (h : QHandle) : State :=
  if (s.queue? c h).isSome then s
  else if s.queues.resident.length < 512 then
    match (s.ctx? c).bind fun x => s.qdesc x h with
    | none => s.setQueues { s.queues with wanted := s.queues.wanted.filter fun x => x != (c, h) }
    | some d =>
      let (s, t) := s.hubRead d.addr 64 s.now
      let s := s.setQueues { s.queues with
        resident := s.queues.resident ++ [⟨c, h, .reading, [], 0, 0, [], s.now⟩]
        wanted := s.queues.wanted.filter fun x => x != (c, h) }
      s.schedule t .queueSwapInDone { EvArg.none with ctx := c, handle := h }
  else if (s.queues.resident.filter fun q => q.phase = .leaving).length < s.queues.wanted.length then
    match firstBy (fun (a b : Queue) => a.used < b.used) (s.queues.resident.filter s.mayLeave) with
    | some v => s.swapOut v
    | none => s
  else s

/-- QUEUE_SWAP_IN (R337): a queue that has been written out leaves its slot; the queues that wait for a slot try, once the
resident queue SRAM is ready (R400). -/
def execQueueSwapIn (s : State) : Host.Outcome State Fault Refusal :=
  let a := s.arg
  if !s.sys.ready.getLsbD 38 then .next s
  else
    let s := if a.flag then
        s.setQueues { s.queues with resident := s.queues.resident.filter fun x =>
          !(x.ctx = a.ctx && x.handle = a.handle && x.phase = .leaving) }
      else s
    .next (s.queues.wanted.foldl (fun s x => s.trySwap x.1 x.2) s)

/-- Books the slots of the host pushes that waited for a queue (R344). -/
def State.hostSlots (s : State) (c : CtxId) (h : QHandle) : List (Vector Word 8) → State
  | [] => s
  | w :: ws =>
    let b := bookPath (s.hier.prune s.now) s.now [unitStage 0]
    ((s.setHier b.h).schedule b.perf .queueUnitRequest
      { EvArg.none with write := true, ctx := c, handle := h, words := w }).hostSlots c h ws

/-- QUEUE_SWAP_IN_DONE (R337): HEAD and TAIL have been read; refills start, and the held requests are probed again. -/
def execQueueSwapInDone (s : State) : Host.Outcome State Fault Refusal :=
  let a := s.arg
  match s.queue? a.ctx a.handle, (s.ctx? a.ctx).bind fun x => s.qdesc x a.handle with
  | some q, some d =>
    let s := s.release (d.addr / 128 * 128)
    let s := (s.putQueue { q with phase := .ready, head := d.head, tail := d.tail, used := s.now }).refill d a.ctx a.handle s.now 33
    let s := (s.reqs.filter fun r => r.onQueue a.ctx a.handle && r.held.isSome && !r.withdrawn).foldl
      (fun s r => match s.req? r.id with | some r => s.bookQueue r true s.now 0 | none => s) s
    let mine := s.queues.hostWait.filter fun x => x.1 = a.ctx && x.2.1 = a.handle
    let s := s.setQueues { s.queues with hostWait := s.queues.hostWait.filter fun x => !(x.1 = a.ctx && x.2.1 = a.handle) }
    .next (s.hostSlots a.ctx a.handle (mine.map fun x => x.2.2))
  | _, _ => .next s

/-- HOST_QUEUE_PUSH (R344): a posted write of 32 bytes at offset 0 of a push window; it is performed after every earlier
posted write of the host. A push that the descriptor does not admit is discarded and logged by the hub. -/
def execHostQueuePush (s : State) : Host.Outcome State Fault Refusal :=
  let a := s.arg
  let ok := match (s.ctx? a.ctx).bind fun c => s.usableQueue c a.handle with | some d => d.hostw | none => false
  if ok then
    let b := bookPath (s.hier.prune s.now) s.now [unitStage s.sys.hostPerf]
    .next ((s.setHier b.h).schedule b.perf .queueUnitRequest { a with write := true })
  else .next (s.setSys { s.sys with pushLog := s.sys.pushLog + 1 })

/-! ## The words (R339 to R343, R412, R414) -/

/-- The gang's part of a queue word once the reply is there (R341 to R343). -/
def State.queueReply (s : State) (g : Gang) (r : Req) : Pass :=
  let q := s.now
  match r.refused, r.effect with
  | some (cause, info), _ => .fail ((s.dropReq r.id).retryWanted) ⟨cause, info⟩
  | none, .queue op h =>
    let done := r.perfDone && r.arrive ≤ q
    let r1 := { r with tracked := true, replied := true }
    (match op with
     | .push _ =>
       if done then .done ((s.dropReq r.id).retryWanted) (s.joinT g r.treg false r.arrive)
       else let s := s.putReq r1; .done s (s.joinT g r.treg true q)
     | .pop _ =>
       let waits := r.site && !r.perfDone
       let s := s.putReq (if waits then { r1 with prom := openTick q, arrive := openTick q } else r1)
       let s := if done then s.schedule q .requestLanding { EvArg.none with req := r.id } else s
       let g := s.joinT g r.treg true q
       if r.site then
         let (s, g) := s.deposit g.atFall 1 { wake := 6, object := h }
         .done s g
       else .done s g
     | .peek _ =>
       let s := s.putReq r1
       let s := if done then s.schedule q .requestLanding { EvArg.none with req := r.id } else s
       .done s (s.joinT g r.treg true q)
     | .len d =>
       let v := match r.got with | x :: _ => leNat x.2 | [] => 0
       .done ((s.dropReq r.id).retryWanted) (g.landS d.val (BitVec.ofNat 64 v))
     | .pin | .unpin => .done ((s.dropReq r.id).retryWanted) g)
  | none, _ => .done s g

/-- The probe of a queue word: it passes when the queue unit's reply reaches the core (R412). `op` reads the gang's operands
in the issue clock. -/
def queueProbe (op : Nat → Gang → Nat → QueueOp) (a : SReg) (t : TReg) : Probe := fun first f s g pc =>
  match s.ctx? g.ctx with
  | none => .trap ⟨0x06, 0⟩
  | some c =>
    let clk := s.clock g.core
    let h : QHandle := BitVec.ofNat 16 (bits (g.readS f clk a) 15 0)
    let o := op f g clk
    let takes := match o with | .pop _ | .peek _ => true | _ => false
    let (q, qclk) := s.nextClock g.core
    if first then
      match s.queueTrap c h takes with
      | some x => .trap x
      | none =>
        if 1024 < s.promisesUsed g.core + 1 then .retry s g (q + 1) 0x12
        else
          let id := s.own.nextReq
          let push := match o with | .push _ => true | _ => false
          let pop := match o with | .pop _ => true | _ => false
          let after := if push then (s.reqs.filter fun x => x.of g.key && x.access).map fun x => (x.id, Scope.dev) else []
          let r := { Req.base g pc t q qclk with
            id := id, heldAt := s.now, effect := .queue o h, handle := h.toNat, tracked := false, replied := false, level := 10
            sem := if pop then .acq else .plain, scope := .dev, flush := pop, after := after
            start := if push then g.obs else 0 }
          let s := (s.setOwn { s.own with nextReq := id + 1 }).setReqs (s.reqs ++ [r])
          match s.heldBehind r with
          | some x =>
            let s := s.putReq { r with held := some x, reply := q }
            .wait s { g with opnd := BitVec.ofNat 64 id } (q + 1) 0x11
          | none =>
            let s := s.bookQueue r false q (s.floorTick r)
            let reply := match s.req? id with | some r => r.reply | none => q
            .wait s { g with opnd := BitVec.ofNat 64 id } (reply + 1) 0x11
    else match s.req? g.opnd.toNat with
    | none => .done s g
    | some r => if s.now < r.reply then .wait s g (r.reply + 1) 0x11 else s.queueReply g r

/-- Lanes 0 to 7 of a register as a record's words (R339). -/
def Gang.recordOf (g : Gang) (f clk : Nat) (d : VReg) : Vector Word 8 := Vector.ofFn fun i => g.readV f clk d i.val

def qbindPinProbe (a : SReg) : Probe := queueProbe (fun _ _ _ => .pin) a 0
def qbindProbe (a : SReg) : Probe := queueProbe (fun _ _ _ => .unpin) a 0
def qpushProbe (d : VReg) (a : SReg) (t : TReg) : Probe := queueProbe (fun f g clk => .push (g.recordOf f clk d)) a t
def qpopProbe (d : VReg) (a : SReg) (t : TReg) : Probe := queueProbe (fun _ _ _ => .pop d) a t
def qpeekProbe (d : VReg) (a : SReg) (t : TReg) : Probe := queueProbe (fun _ _ _ => .peek d) a t
def qlenProbe (d : SReg) (a : SReg) : Probe := queueProbe (fun _ _ _ => .len d) a 0

/-- `qbind.pin` (R343). -/
def execQbindPin (n0 : Stall) (a : SReg) (s : State) : Host.Outcome State Fault Refusal :=
  runProbe { stall := n0, reads := [.s a] } (.qbindPin n0 a) (qbindPinProbe a) s
/-- `qbind` (R343). -/
def execQbind (n0 : Stall) (a : SReg) (s : State) : Host.Outcome State Fault Refusal :=
  runProbe { stall := n0, reads := [.s a] } (.qbind n0 a) (qbindProbe a) s
/-- `qpush` (R341). -/
def execQpush (n0 : Stall) (d : VReg) (a : SReg) (t : TReg) (s : State) : Host.Outcome State Fault Refusal :=
  runProbe { stall := n0, reads := [.s a, .v d] } (.qpush n0 d a t) (qpushProbe d a t) s
/-- `qpop` (R342). -/
def execQpop (n0 : Stall) (d : VReg) (a : SReg) (t : TReg) (s : State) : Host.Outcome State Fault Refusal :=
  runProbe { stall := n0, reads := [.s a], writes := [.v d] } (.qpop n0 d a t) (qpopProbe d a t) s
/-- `qpeek` (R343). -/
def execQpeek (n0 : Stall) (d : VReg) (a : SReg) (t : TReg) (s : State) : Host.Outcome State Fault Refusal :=
  runProbe { stall := n0, reads := [.s a], writes := [.v d] } (.qpeek n0 d a t) (qpeekProbe d a t) s
/-- `qlen` (R343). -/
def execQlen (n0 : Stall) (d : SReg) (a : SReg) (s : State) : Host.Outcome State Fault Refusal :=
  runProbe { stall := n0, reads := [.s a], writes := [.s d] } (.qlen n0 d a) (qlenProbe d a) s

/-- The landing of a queue request (R342): a popped record is an acquire, and makes the record of its waiting popper
eligible with the push's tick. -/
def State.landQueue (s : State) (r : Req) : State :=
  let s1 := s.land r
  let s1 := if r.flush then (match s1.gangOf r with | some g => s1.l1Flush g.core | none => s1) else s1
  let s1 := if r.site then (match s1.gangOf r with
      | some g => if g.parked && g.hd.wake = 6 then s1.makeEligible g.key (tickOf r.perf) else s1
      | none => s1)
    else s1
  s1.retryWanted

end Sys2Proof.Machine
end

