-- ==== Sys2Proof/Machine/Records.lean ====
section
/-!
DEFINITION. The steps of gangs and their records: the fairness timer (R94), the end of a record's writing (R111), relaunch
(R118, R119, R417), wake times (R117, R214), timers (R52), waiting probes (R54), the budget (R346).
-/
namespace Sys2Proof.Machine

/-- FAIRNESS_TIMER_EXPIRY (R94): a rotation becomes pending. -/
def execFairnessTimerExpiry (s : State) : Host.Outcome State Fault Refusal :=
  match s.gang? s.arg.key with
  | some g => if 2 ≤ g.entries then .next (s.putGang { g with rotPend := true }) else .next s
  | none => .next s

/-- Begins the move of a migrating crew in the next clock, once none of its gangs is resident (R361, R409). -/
def State.pokeMove (s : State) (k : CrewKey) : State :=
  match s.crew? k with
  | some c =>
    if (match c.mig with | some m => m.stage = .stopping | none => false) &&
        !(s.gangs.any fun g => g.crewKey = k && g.slot?.isSome) then
      s.inClocks c.core 1 .migrationMoveBegin { EvArg.none with key := ⟨k.launch, k.crew, 0⟩ }
    else s
  | none => s

/-- RECORD_WRITE_DONE (R111): the record stands in the store, or in the ring (R417), and the gang slot and its entries are free. -/
def execRecordWriteDone (s : State) : Host.Outcome State Fault Refusal :=
  match s.gang? s.arg.key with
  | some g => (match g.place with
    | .leaving _ _ r =>
      let place : Place := match r with | some (p, n) => .ring p n | none => .store
      .next ((((s.putGang { g with place := place }).markHigh g.core).offer g.core).pokeMove g.crewKey)
    | .store => .next (((s.markHigh g.core).offer g.core).pokeMove g.crewKey)
    | _ => .next s)
  | none => .next s

/-! ## Lines of the overflow ring (R417) -/

/-- The lines of a record in a core's overflow ring (R417). -/
def State.ringLines (s : State) (g : Gang) (pos len : Nat) : List Nat :=
  match s.ctx? g.ctx with
  | none => []
  | some c =>
    let a := c.ringSlot g.core pos
    (List.range ((a + 64 * len - 1) / 128 - a / 128 + 1)).map fun i => a / 128 * 128 + 128 * i

/-- Books the whole-line writes of a record that goes to the overflow ring (R417): from now, or as the store port reads each 256
bytes out from its clock `n` on; the gang slot is free after the last. -/
def State.ringOutDue (s : State) : State :=
  match s.gang? s.arg.key with
  | none => s
  | some g => match g.ringAt with
    | none => s
    | some (pos, len) =>
      let from_ := fun (s : State) (i : Nat) => if s.arg.flag then s.edgeTick g.core (s.arg.n + i / 2 + 1) else s.now
      let (s, last, _) := (s.ringLines g pos len).foldl (fun (x : State × Nat × Nat) line =>
        let (s, last, i) := x
        let (s, b) := s.lineWrite (some (dieOf g.core)) line 128 (from_ s i)
        (s.scheduleTask ⟨b.perf, 3, .ringWrite, { EvArg.none with key := g.key, n := line }⟩, max last b.perf, i + 1)) (s, s.now, 0)
      let s := s.putGang { g with hd := { g.hd with written := some last } }
      match g.place with
      | .leaving .. => s.schedule last .recordWriteDone { EvArg.none with key := g.key }
      | _ => s

/-- A line of a record written to the overflow ring (R417), as the record then stands (R111). -/
def State.ringWriteDue (s : State) : State :=
  let line := s.arg.n
  let s := s.release line
  match s.gang? s.arg.key with
  | none => s
  | some g => match g.ringAt, s.ctx? g.ctx with
    | some (pos, _), some c =>
      let a := c.ringSlot g.core pos
      let bytes := g.image.flatMap fun d => natLe 8 d.toNat
      let lo := max a line
      let hi := min (a + bytes.length) (line + 128)
      s.setMem (memWrite s.mem lo ((bytes.drop (lo - a)).take (hi - lo)))
    | _, _ => s

/-! ## Issuing requests again (R68, R69) -/

/-- A request that was held, or withdrawn with its context, is probed again: a copy's slice (R221), a queue request (R340),
any other from translation onward (R280). -/
def State.reissue (s : State) (r : Req) : State :=
  match r.effect with
  | .copy _ => s.reprobeCopy r
  | .queue .. =>
    (match s.heldBehind r with
     | some h =>
       let s := s.putReq { r with held := some h, heldAt := s.now }
       s.refreshOf r
     | none => s.bookQueue { r with probed := s.now } false s.now (s.floorTick r))
  | _ => s.reprobe r

/-! ## Waiting probes (R54, R96) -/

/-- The probe of a word (R54). -/
def probeOf (i : Instr) : Option Probe :=
  match i with
  | .ld _ m => some (loadProbe m)
  | .st _ m => some (storeProbe m)
  | .atomAdd _ m => some (atomProbe m .add)
  | .atomMin _ m => some (atomProbe m .min)
  | .atomMax _ m => some (atomProbe m .max)
  | .atomAnd _ m => some (atomProbe m .and)
  | .atomOr _ m => some (atomProbe m .or)
  | .atomXor _ m => some (atomProbe m .xor)
  | .atomXchg _ m => some (atomProbe m .xchg)
  | .atomCas _ m => some (atomProbe m .cas)
  | .atomInc _ m => some (atomProbe m .inc)
  | .atomFadd _ m => some (atomProbe m .fadd)
  | .redAdd _ m => some (redProbe m .add)
  | .redMin _ m => some (redProbe m .min)
  | .redMax _ m => some (redProbe m .max)
  | .redFadd _ m => some (redProbe m .fadd)
  | .watch _ m => some (watchProbe m)
  | .bchk _ m => some (bchkProbe m)
  | .bmeta _ m => some (bmetaProbe m)
  | .lds _ m => some (ldsProbe m)
  | .sts _ m => some (stsProbe m)
  | .atomsAdd _ m => some (atomsAddProbe m)
  | .atomsCas _ m => some (atomsCasProbe m)
  | .l1cfg _ a t => some (l1cfgProbe a t)
  | .copy _ a t sc rel => some (copyProbe a t sc rel)
  | .barInit _ d _ n => some (barInitProbe d n)
  | .barArrive _ d => some (barArriveProbe d)
  | .barWait _ d => some (barWaitProbe d)
  | .barThen _ d off => some (barThenProbe d off)
  | .barBytes _ d _ => some (barBytesProbe d)
  | .barPhase _ d a => some (barPhaseProbe d a)
  | .ringInit _ d _ n st sz => some (ringInitProbe d n st sz)
  | .ringFill .. => some ringFillProbe
  | .ringAwait _ d _ => some (ringAwaitProbe d)
  | .ringRelease .. => some ringReleaseProbe
  | .ringState _ d _ => some (ringStateProbe d)
  | .mldA _ _ t l f => some (mldAProbe t l f)
  | .mldB _ _ t l f sm => some (mldBProbe t l f sm)
  | .mma _ _ t => some (mmaProbe t)
  | .mdrain _ _ t f => some (mdrainProbe t f)
  | .mzero _ t => some (mzeroProbe t)
  | .lrec _ _ l => some (lrecProbe l)
  | .qbindPin _ a => some (qbindPinProbe a)
  | .qbind _ a => some (qbindProbe a)
  | .qpush _ d a t => some (qpushProbe d a t)
  | .qpop _ d a t => some (qpopProbe d a t)
  | .qpeek _ d a t => some (qpeekProbe d a t)
  | .qlen _ d a => some (qlenProbe d a)
  | _ => none

/-- PROBE_PASS (R54): a waiting probe makes its next attempt. -/
def execProbePass (s : State) : Host.Outcome State Fault Refusal :=
  match s.gang? s.arg.key with
  | none => .next s
  | some g => match g.probing with
    | none => .next s
    | some (i, pc, anew) => match probeOf i with
      | some p => .next (passAgain i pc anew p g s)
      | none => .next s

/-! ## Relaunch (R118, R119) -/

/-- Wake order (R118): ascending key, then ascending SEQ. -/
def wakesBefore (a b : Gang) : Bool :=
  match a.hd.key, b.hd.key with
  | some x, some y => tickAfter y x || (x = y && seqAfter b.hd.seq a.hd.seq)
  | some _, none => true
  | _, _ => false

/-- Whether a crew is stopping or moving to another core (R361). -/
def State.crewMoves (s : State) (k : CrewKey) : Bool :=
  match s.crew? k with
  | some c => (match c.mig with | some m => m.stage != .asked | none => false)
  | none => false

/-- The eligible record of a core that is first in wake order. -/
def State.firstEligible (s : State) (k : CoreId) : Option Gang :=
  firstBy wakesBefore (s.gangs.filter fun g =>
    g.core = k && (s.core k).active = some g.ctx && g.stored && g.hd.key.isSome && g.hd.kind != 4 && !s.crewMoves g.crewKey)

/-- Books loads of physical addresses side by side from tick `t` (R417): the state and the last landing. -/
def State.bookLines (s : State) (d : Fin 4) (as : List Nat) (t : Nat) : State × Nat :=
  as.foldl (fun (x : State × Nat) a =>
    let (s, land) := x.1.lineRead (some d) (a / 128 * 128) 128 t
    (s, max x.2 land)) (s, t)

/-- RELAUNCH (R118, R119, R417): the first record in wake order is read into a gang slot if one fits it; a record that fits
nowhere, or is still being written, holds back those behind it. Lines on their way to the ring are read once they are there. -/
def execRelaunch (s : State) : Host.Outcome State Fault Refusal :=
  let k := s.arg.core
  let co := s.core k
  if co.stopped then .next s
  else match s.firstEligible k with
  | none => .next s
  | some g =>
    if co.active != some g.ctx then .next s
    else match g.place, s.chooseSlot k (s.alloc g) with
    | .store, some (q, n) =>
      let clocks := ceilDiv (64 * g.blocks) 256
      let start := max co.storeFree (s.clock k + 1)
      let s := s.setCore k { co with storeFree := start + clocks }
      let s := (s.putGang { g with place := .entering q n none }).count k 4 1 (some q) (some g.key.launch)
      let s := s.dueIn k (start + clocks - 1) 3 (.ev .relaunchComplete) { EvArg.none with key := g.key }
      .next (s.schedule s.now .relaunch { EvArg.none with core := k })
    | .ring pos len, some (q, n) =>
      let (s, t) := s.bookLines (dieOf k) (s.ringLines g pos len) (max s.now (g.hd.written.getD 0))
      let s := (s.putGang { g with place := .entering q n (some (pos, len)) }).count k 4 1 (some q) (some g.key.launch)
      let s := s.schedule t .relaunchComplete { EvArg.none with key := g.key, flag := true }
      .next (s.schedule s.now .relaunch { EvArg.none with core := k })
    | _, _ => .next s

/-- A relaunched gang (R119): its registers above the live count are zero, a fresh spawn starts with its full allocation, a
rotation that is due starts at the boundary. -/
def Gang.relaunched (g : Gang) (q : Fin 4) (n : Fin 16) (regs : Nat) (clk : Nat) : Gang :=
  let fresh := g.hd.kind = 2
  { g with place := .slot q n
           v := if fresh then g.v else g.v.mapIdx fun i x => if i < 16 * g.live then x else Vector.replicate 32 0
           live := if fresh then regs else g.live
           rotPoint := true, rotPend := g.hd.rot, fair := 0, round := none, lastPc := none, readyAt := clk + 1
           hd := { g.hd with key := none, kind := 1, wake := 8, rot := false, raw := [], written := none } }

/-- The ring's head past the records that have been relaunched from it, `but` the last of them (R122). -/
def State.freeRing (s : State) (k : CoreId) (but : GangKey) : State :=
  let cc := s.cc k
  let size := match (s.core k).active.bind s.ctx? with | some c => 2 ^ c.ovk | none => 1
  let left := (s.gangs.filter fun g => g.core = k && (s.core k).active = some g.ctx && g.key != but).filterMap fun g => g.ringAt.map (·.1)
  let ahead := fun (p : Nat) => (p + size - cc.ringHead) % size
  match firstBy (fun (a b : Nat) => ahead a < ahead b) left with
  | some p => s.setCc k { cc with ringHead := p }
  | none => s.setCc k { cc with ringHead := cc.ringTail }

/-- A withdrawn request is issued again on a core, with a new probe (R69): one held with class 3 as well (assumption row 121). -/
def State.reissueAt (s : State) (id : Nat) (k : CoreId) : State :=
  match s.req? id with
  | some r => (s.putReq { r with withdrawn := false, core := k }).reissue { r with withdrawn := false, core := k }
  | none => s

/-- A gang takes its slot (R119): a monitor that `mwait` waited on is freed (R214), and withdrawn requests are issued again
(R69). -/
def State.enterSlot (s : State) (g : Gang) (q : Fin 4) (n : Fin 16) : State :=
  let k := g.core
  let regs := match s.slice? g.key.launch with | some l => l.regs | none => 12
  let cc := s.cc k
  let s := if g.hd.wake = 5 then s.setCc k { cc with mons := cc.mons.filter fun m => m.gang != g.key } else s
  let s := (s.putGang (g.relaunched q n regs (s.clock k))).offer k
  let co := s.core k
  let s := s.setCore k { co with hangMark := s.now }
  (s.reqs.filter fun r => r.of g.key && r.withdrawn).foldl (fun s r => s.reissueAt r.id k) s

/-- A record that the core cannot run (R116) is written back as halted, with the fields that it had (R115), and the steward is
told. -/
def State.refuseRecord (s : State) (g : Gang) : State :=
  let seq := (s.core g.core).seq
  let raw := match g.hd.raw with
    | [] => []
    | d :: ds => setBits (setBits d 63 56 4) 31 0 seq.toNat :: ds
  let (s, g) := s.writeRecord { g with hd := { g.hd with kind := 4, raw := raw } }
  (s.putGang g).event g.ctx 2 0 g.core g.key.gang.val 0 g.key.crew.toNat 0

/-- RELAUNCH_COMPLETE (R119): the last byte has arrived; a malformed record does not run (R116). -/
def execRelaunchComplete (s : State) : Host.Outcome State Fault Refusal :=
  match s.gang? s.arg.key with
  | none => .next s
  | some g => match g.place with
    | .entering q n r =>
      let regs := match s.slice? g.key.launch with | some l => l.regs | none => 12
      let s := if r.isSome then s.freeRing g.core g.key else s
      if g.hd.bad || regs < g.live then .next (s.refuseRecord { g with place := .slot q n })
      else .next (s.enterSlot g q n)
    | _ => .next s

/-! ## Waking by time -/

/-- WAKE_TIME_REACHED (R117): a record's wake tick, deadline or floor may have come. -/
def execWakeTimeReached (s : State) : Host.Outcome State Fault Refusal := .next (s.checkWake s.arg.key)

/-- MWAIT_TIMEOUT (R214): the wake is by the timeout unless the monitor was hit before. -/
def execMwaitTimeout (s : State) : Host.Outcome State Fault Refusal :=
  match s.gang? s.arg.key with
  | some g =>
    if g.parked && g.hd.wake = 5 && g.hd.key.isNone && s.reached g.hd.wtick then
      .next ((s.putGang { g with timedOut := true }).makeEligible g.key g.hd.wtick)
    else .next s
  | none => .next s

/-- DETACHED_TIMER_SETTLE (R52, R53): device time has reached the tick of a detached register, be it 2^56 - 1, which stands for never in a
record only (R48). -/
def execDetachedTimerSettle (s : State) : Host.Outcome State Fault Refusal :=
  match s.gang? s.arg.key with
  | some g =>
    let t := g.t[s.arg.treg]
    if t.soft && t.isOpen && s.dist t.tick ≤ 0 then
      .next (s.putT g.key s.arg.treg ⟨timeImage 0 0 t.tick.toNat, true, 0⟩)
    else .next s
  | none => .next s

/-! ## The budget (R346) -/

/-- BUDGET_EXHAUSTED (R346): the slice is exhausted while its count stands at or above its budget. -/
def execBudgetExhausted (s : State) : Host.Outcome State Fault Refusal :=
  match s.slice? s.arg.launch with
  | some l => .next (s.putSlice { l with spent := l.limited && l.budget.toNat ≤ l.count })
  | none => .next s

end Sys2Proof.Machine
end

