-- ==== Sys2Proof/Machine/Steward.lean ====
section
/-!
DEFINITION. What the steward and its loader write to the device's memory: the zeros of a page that becomes resident (R405), the bytes
that `.data` places before a launch (R407).
-/
namespace Sys2Proof.Machine

/-- Bytes of a line written by the steward through its home slice (R405). -/
def State.storeLine (s : State) (home : Home) (line : Nat) (ctype : Byte) (bs : List (Nat × List Byte)) : State :=
  match home with
  | .hbm .. | .cap .. =>
    let w := s.hier.makeWay s.now home.slice line
    let s := (s.setHier w.h).victimGoes home.slice w
    (s.writeHome home line ctype bs).writeThrough home line
  | _ => s

/-- The buffer record through which a page is requested under a ticket (R280). -/
def State.pageBuf (s : State) (c : Ctx) (va : Nat) (ticket : Word) : Option (Vector DWord 8) :=
  let rs := s.reqs.filter fun r => r.ctx = c.id && r.held = some (.page, ticket)
  let parts := s.banks.flatMap fun cc => cc.cmds.flatMap fun x => x.parts
  let handles := rs.flatMap fun r => r.handle :: (parts.filter fun p => p.req = r.id).flatMap fun p => [p.sh, p.dh]
  handles.findSome? fun h => (s.bufRec c h).bind fun b =>
    if Buf.pageable b && Buf.base b < va + 65536 && va < Buf.base b + Buf.length b then some b else none

/-- The zeros that the steward writes to a page which has become resident, through its home slices (R405). -/
def State.zeroPage (s : State) (c : Ctx) (va : Nat) (b : Vector DWord 8) : State :=
  match s.walk c va with
  | none => s
  | some w => (List.range 512).foldl (fun s i =>
    let a := va + 128 * i
    if a < Buf.base b then s
    else
      let home := homeOf b (a - Buf.base b)
      let line := homeKey home (w.entry.map a)
      s.storeLine home line (BitVec.ofNat 8 (Buf.ctype b)) [(line, List.replicate 128 0)]) s

/-- The pages requested under a ticket, which are there for the first time, read as zero (R405). -/
def State.zeroPages (s : State) (ticket : Word) : State :=
  s.ctxs.foldl (fun s x => match s.ctx? x.id with
    | none => s
    | some c => (c.pages.filter fun p => p.2 = ticket).foldl (fun s p => match s.pageBuf c (p.1 * 65536) ticket with
      | some b => s.zeroPage c (p.1 * 65536) b
      | none => s) s) s

/-- Bytes of a capacity-tier line written by the loader, past the slices and the memory-side cache (R407): a dirty copy of its sector goes to
the channel, every copy is invalid, and no line of L2 or L1 keeps the old bytes. -/
def State.loadCap (s : State) (ch : Fin 32) (line at_ : Nat) (bs : List Byte) : State :=
  let s : State := match s.hier.line? line with
    | some l => (s.setHier (s.hier.dropLine line)).leaveL2 l
    | none => s
  let s := (List.finRange 256).foldl (fun (s : State) k => s.l1Drop k line) s
  let s := if s.csize = 0 then s
    else
      let (i, tag) := sectorOf s.csize ch line
      let x := s.hier.sector i
      if x.valid && x.tag = BitVec.ofNat 4 tag then s.setHier (s.hier.putSector { x with valid := false, dirty := false }) else s
  (s.setMem (memWrite s.mem at_ bs)).hitWritten [(at_, bs)]

/-- The bytes that the loader places (R405, R407): each pair names a buffer handle (times 2^48) with an offset, and a number of bytes. -/
def State.loadData (s : State) (c : Ctx) : List (Nat × Nat) → List Byte → State
  | [], _ => s
  | (x, n) :: rest, bs =>
    let off := x % 2 ^ 48
    let s : State := match s.bufRec c (x / 2 ^ 48) with
      | none => s
      | some b => (linesOf off n).foldl (fun (s : State) l =>
        match s.walk c (Buf.base b + l.1) with
        | none => s
        | some w =>
          let home := homeOf b l.1
          let line := homeKey home (w.entry.map (Buf.base b + l.1))
          let at_ := line + l.2.1 % 128
          let new := (bs.drop l.2.2.2).take l.2.2.1
          (match home with
           | .cap _ ch => s.loadCap ch line at_ new
           | _ => s.storeLine home line (BitVec.ofNat 8 (Buf.ctype b)) [(at_, new)])) s
    s.loadData c rest (bs.drop n)

end Sys2Proof.Machine
end

