-- ==== Sys2Proof/Machine/Requests.lean ====
section
/-!
DEFINITION. The steps of requests: landings (R50, R56), stores and atomics performed (R290, R299), breaks (R62, R63), the
resolution and conversion of held requests (R68), and the error log (R394).
-/
namespace Sys2Proof.Machine

/-! ## Rings of the hub (R394) -/

/-- The address of entry `n` of a ring whose register is `r`, for entries of `size` bytes; nothing where K is 0 or
out of range or BASE lies outside HBM5 (R418). -/
def State.ringEntry (s : State) (r : DWord) (size n : Nat) : Option Nat :=
  if bits r 56 52 < 4 || 16 < bits r 56 52 || !s.inHbm (bits r 51 0) then none else some (bits r 51 0 + size * (n % 2 ^ bits r 56 52))

/-- Appends an entry to the error log (R394); the entry's number. Without a ring the entry is dropped. -/
def State.logError (s : State) (source unit kind addr : Nat) : State × Nat :=
  let n := s.sys.errWr.toNat
  match s.ringEntry s.sys.errLog 32 n with
  | none => (s, n)
  | some a =>
    let s := s.hubWords a
      [BitVec.ofNat 64 (source * 2 ^ 56 + unit % 256 * 2 ^ 48 + kind * 2 ^ 40), BitVec.ofNat 64 addr, s.time64, BitVec.ofNat 64 n]
    (s.setSys { s.sys with errWr := s.sys.errWr + 1 }, n)

/-! ## Landing and performing -/

/-- REQUEST_LANDING (R50, R56): a booked request whose landing has come leaves its set. -/
def execRequestLanding (s : State) : Host.Outcome State Fault Refusal :=
  match s.req? s.arg.req with
  | none => .next s
  | some r =>
    if r.held.isSome || s.now < r.arrive || !r.replied then .next s
    else match r.effect with
      | .queue .. => if r.perfDone then .next (s.landQueue r) else .next s
      | .load .. | .lanes .. | .arm => if r.perfDone then .next (s.land r) else .next s
      | .store | .atomic .. => if r.perfDone then .next (s.land r) else .next s
      | .scalar .. => .next (s.land r)
      | .l1cfg _ | .copy _ | .engine _ => .next s

/-- STORE_PERFORMED (R299): a queued store is performed at its home. -/
def execStorePerformed (s : State) : Host.Outcome State Fault Refusal :=
  match s.req? s.arg.req with
  | none => .next s
  | some r =>
    if r.perfDone || r.held.isSome || s.now < r.perf then .next s
    else match r.effect with
      | .store => .next (s.performStore r)
      | _ => .next s

/-- ATOMIC_PERFORMED (R290): an atomic or a reduction is performed at its site. -/
def execAtomicPerformed (s : State) : Host.Outcome State Fault Refusal :=
  match s.req? s.arg.req with
  | none => .next s
  | some r =>
    if r.perfDone || r.held.isSome || s.now < r.perf then .next s
    else match r.effect with
      | .atomic op .. => .next (s.performAtomic r op)
      | _ => .next s

/-! ## Breaks (R62, R63) -/

/-- Delays a request: stage `j` of its path cannot begin before tick `t`. A copy command's rows are booked again from that
tick; a request with nothing booked there is not delayed. -/
def State.delay (s : State) (r : Req) (cause : BreakCause) (level : Level) (j t : Nat) : State :=
  if r.held.isSome then s
  else match r.effect with
  | .copy g =>
    let k := s.cmdCore r.core (crewKeyOf r.owner) g.val
    (match s.cmd? k (crewKeyOf r.owner) g.val with
     | some x => if x.chan.isSome && x.dkind != 2 then s.bookCmd k x (max s.now t) (some cause) else s
     | none => s)
  | _ =>
    match r.slots[j]? with
    | some x => if s.now ≤ x.tick && x.tick < t then s.breakFrom r cause level j t else s
    | none => s

/-- REQUEST_BREAK (R63): a resource delays a request past its booking (R62); the rest of its path is booked again. -/
def execRequestBreak (s : State) : Host.Outcome State Fault Refusal :=
  let a := s.arg
  match s.req? a.req with
  | none => .next s
  | some r => .next (s.delay r a.cause a.level a.n a.m)

/-! ## Held requests (R68) -/

/-- Whether a request is held with a class and a ticket. -/
def Req.heldFor (r : Req) (cls : HeldClass) (ticket : Word) : Bool := r.held = some (cls, ticket)

/-- Whether a crew stands saved with its context (R357). -/
def State.savedCrew (s : State) (k : CrewKey) : Bool := match s.crew? k with | some c => !c.resident | none => false

/-- A resolution recorded against its ticket, for the requests of a context that are withdrawn (R69). -/
def State.noteResolved (s : State) (c : CtxId) (cls : HeldClass) (ticket : Word) : State :=
  match s.ctx? c with
  | some x => if x.resolved.contains (cls, ticket) then s else s.putCtx { x with resolved := (cls, ticket) :: x.resolved }
  | none => s

/-- The requests held with a class and a ticket. -/
def State.heldWith (s : State) (cls : HeldClass) (ticket : Word) : List Req := s.reqs.filter fun r => r.heldFor cls ticket

/-- Re-probes every request held with a class and a ticket, in the order in which they were made (R68). A request that was
withdrawn with its context, or whose core saves its context in this very clock (R70), waits for its relaunch, and the resolution
is kept with the context (R69). -/
def State.resolve (s : State) (cls : HeldClass) (ticket : Word) : State :=
  (s.heldWith cls ticket).foldl (fun s r =>
    match s.req? r.id with
    | none => s
    | some r =>
      if !r.heldFor cls ticket then s
      else if r.withdrawn && s.savedCrew (crewKeyOf r.owner) || s.savesNow r.core then s.noteResolved r.ctx cls ticket
      else s.reissueAt r.id r.core) s

/-- HELD_RESOLUTION (R68): the condition of a class and a ticket holds no more. The steward's answer to a page request also
ends that request; a page that is resident for the first time reads as zero (R405), one that had been before (`flag`) as the steward
left it. -/
def execHeldResolution (s : State) : Host.Outcome State Fault Refusal :=
  let a := s.arg
  let s := if a.cls = .page && !a.flag then s.zeroPages a.ticket else s
  let s := if a.cls = .page then
      s.setCtxs (s.ctxs.map fun c => { c with pages := c.pages.filter fun p => p.2 != a.ticket })
    else s
  match a.cls with
  | .error => .next s
  | c => .next (s.resolve c a.ticket)

/-- Whether a held request waits on its own condition, not behind another request (R328). -/
def State.ownHold (s : State) (r : Req) (cls : HeldClass) : Bool :=
  match cls with
  | .page =>
    (match r.effect with
     | .copy _ => true
     | _ => match s.ctx? r.ctx with
       | none => true
       | some c => match s.bufRec c r.handle with
         | none => false
         | some b => r.device && (s.translate r.core c (Buf.base b + r.offset)).isNone)
  | .peer =>
    (match r.effect with
     | .copy g =>
       (match s.cmd? (s.cmdCore r.core (crewKeyOf r.owner) g.val) (crewKeyOf r.owner) g.val with
        | some x => x.parts.any fun p => p.req = r.id &&
            ((p.skind = 0 && Buf.tier p.sRec = 3) || (x.dkind = 0 && Buf.tier p.dRec = 3))
        | none => false)
     | _ => match r.home with | .peer _ => true | _ => false)
  | _ => false

/-- HELD_CONVERT_CLASS3 (R68): the steward cannot resolve a class 1 or class 4 hold; it logs the reason and the request is
held with class 3 and the entry's number. Requests ordered behind such a read are probed again (R328). -/
def execHeldConvertClass3 (s : State) : Host.Outcome State Fault Refusal :=
  let a := s.arg
  if a.cls != .page && a.cls != .peer then .next s
  else if (s.heldWith a.cls a.ticket).isEmpty then .next s
  else
    let own := fun (r : Req) => s.ownHold r a.cls
    let (s, n) := s.logError 7 0 2 0
    .next ((s.heldWith a.cls a.ticket).foldl (fun s r =>
      match s.req? r.id with
      | none => s
      | some r =>
        if !r.heldFor a.cls a.ticket then s
        else if own r then s.holdReq r.id .error (BitVec.ofNat 32 n) 64
        else s.reissue r) s)

end Sys2Proof.Machine
end

