-- ==== Sys2Proof/Machine/Hierarchy.lean ====
section
/-!
DEFINITION. The steps of the memory hierarchy beyond the cores: victims (R300, R305), the memory-side cache (R307, R308, R310,
R408), refresh (R304), soft errors and scrubbing (R312), dead ranges (R305).
-/
namespace Sys2Proof.Machine

/-! ## Victims (R300, R302, R305) -/

/-- The sectors of a line that are not in `m`, zeroed: what a clear leaves of a line of which only `m` is written back. -/
def zeroSectors (m : BitVec 4) (bs : List Byte) : List Byte :=
  (List.range 128).map fun i => if m.getLsbD (i / 32) then bs.getD i 0 else 0

/-- Takes the next `n` write-back slots of a channel. -/
def Hier.writeBacks (h : Hier) (c : Res) (t : Nat) : Nat → Hier
  | 0 => h
  | n + 1 => let x := bookTick h c .writeBack 1 t; (h.take ⟨c, x, 1⟩).writeBacks c t n

/-- The block of a lossless line that has been written back: it has a new state, and the block and its metadata are written in
write-back slots (R301). -/
def State.recompress (s : State) (l : L2Line) : State :=
  if !l.lossless then s
  else
    let b : BitVec 2 := Config.blockState s.freeNo
    let slots := match b.toNat with | 0 => 4 | 1 => 2 | 2 => 1 | _ => 0
    let h := s.hier.writeBacks l.channel (s.now + 1) (slots + 1)
    let rest := h.states.filter fun x => x.1 != l.addr / 512
    (s.setHier { h with states := if b = 0 then rest else (l.addr / 512, b) :: rest }).useFree 1

/-- L2_VICTIM_WRITEBACK (R300): the victim of a slice whose slot this is leaves the buffer, its dirty sectors written. The
first write to a dead range books the range's clear, and follows it (R305). -/
def execL2VictimWriteback (s : State) : Host.Outcome State Fault Refusal :=
  let a := s.arg
  match s.hier.victims.find? fun v => v.slot = a.n && v.line.slice.val = a.m with
  | none => .next s
  | some v =>
    if s.isDead v.line.addr then
      let (s, t) := s.revive v.line.addr
      let s := if (s.hier.line? v.line.addr).isSome then s
        else s.setMem (memWrite s.mem v.line.addr (zeroSectors v.line.dirty (memBytes s.mem v.line.addr 128)))
      let slot := bookTick s.hier v.line.channel .writeBack 1 t
      let h := s.hier.take ⟨v.line.channel, slot, 1⟩
      let s := s.setHier { h with victims := h.victims.map fun x => if x = v then { x with slot := slot } else x }
      .next (s.schedule slot .l2VictimWriteback { a with n := slot })
    else .next (((s.setHier { s.hier with victims := s.hier.victims.filter fun x => x != v }).leaveL2 v.line).recompress v.line)

/-! ## The memory-side cache -/

/-- MSC_SECTOR_FILL (R308): the last fill write sets V, D = 0 and TAG. -/
def execMscSectorFill (s : State) : Host.Outcome State Fault Refusal :=
  let x := s.hier.sector s.arg.n
  .next (s.setHier (s.hier.putSector { x with valid := true, dirty := false, tag := BitVec.ofNat 4 s.arg.m }))

/-- WRITE_THROUGH_PERFORM (R310, R408): at the tag read of a miss, what it finds decides where the line write goes; the line
write sets D, and the slice's hold on the line ends. -/
def execWriteThroughPerform (s : State) : Host.Outcome State Fault Refusal :=
  let a := s.arg
  match s.hier.line? a.n with
  | none => .next s
  | some l => match l.cap with
    | none => .next s
    | some ch =>
      if s.csize = 0 then .next (s.release a.n)
      else
        let (i, tag) := sectorOf s.csize ch a.n
        let x := s.hier.sector i
        if a.flag then
          .next ((s.setHier (s.hier.putSector { x with valid := true, dirty := true })).release a.n)
        else if x.valid && x.tag = BitVec.ofNat 4 tag then
          .next (s.schedule (a.pairs.headD (s.now, 0)).1 .writeThroughPerform { a with flag := true })
        else
          let back := (a.pairs.drop 1).map fun p => p.1
          let fill := s.fillTick x back a.m
          let write := if x.valid && x.dirty then a.v.toNat else s.sectorSlot i (fill + 1)
          let s := s.startFill x tag back a.m
          .next (s.schedule write .writeThroughPerform { a with flag := true })

/-! ## Refresh (R304) -/

/-- HBM_REFRESH (R304): a refresh slot of a channel passes. Refresh slots are never booked (R295); a row group that is
refreshed, or whose refresh a skip bit suppresses, holds the same data. -/
def execHbmRefresh (s : State) : Host.Outcome State Fault Refusal := .next s

/-- The requests that have a slot on a resource which a predicate names, with the number of the stage. -/
def State.usersOf (s : State) (p : Slot → Bool) : List (Nat × Nat) :=
  s.reqs.filterMap fun r => (r.slots.findIdx? p).map fun j => (r.id, j)

/-- Delays every request that has a slot which a predicate names: it is booked again from that stage, not before tick `t`, and
breaks where its promise moves (R62, R63). Requests are taken in the order in which they were made. -/
def State.delayAll (s : State) (p : Slot → Bool) (t : Slot → Nat) (cause : BreakCause) (level : Level) : State :=
  (s.usersOf p).foldl (fun s x =>
    match s.req? x.1 with
    | none => s
    | some r => match r.slots[x.2]? with
      | some sl => if p sl then s.delay r cause level x.2 (t sl) else s
      | none => s) s

/-- Delays the copy commands that have a row with a slot which a predicate names: their rows are booked again (R62, R223). -/
def State.delayCopies (s : State) (p : Slot → Bool) (t : Nat) (cause : BreakCause) : State :=
  (List.finRange 256).foldl (fun s k =>
    ((s.running k).filter fun x => x.dkind != 2 && x.rows.any fun r => (r.slots ++ r.back).any p).foldl
      (fun s x => s.bookCmd k x t (some cause)) s) s

/-- Moves the slots that a predicate names and that no request or copy row holds to the next free ones; a line write of a
write-through that stands in such a slot goes with it (R62, R304). -/
def State.moveUnowned (s : State) (p : Slot → Bool) : State :=
  let owned := fun (x : Slot) => (s.reqs.any fun r => r.slots.contains x) || s.cores.toList.any fun co => co.cc.cmds.any fun c =>
    c.rows.any fun r => r.slots.contains x || r.back.contains x
  (s.hier.slots.filter fun x => p x && !owned x).foldl (fun s x =>
    let h := s.hier.free [x]
    let t := bookTick h x.res .ordinary x.units (x.tick + 1)
    let s := s.setHier (h.take { x with tick := t })
    s.setAgenda (sortBy (fun (a b : Due) => a.tick < b.tick || (a.tick = b.tick && a.rank < b.rank)) (s.agenda.map fun d =>
      if d.task = .ev .writeThroughPerform && d.tick = x.tick && d.arg.flag then { d with tick := t } else d))) s

/-- STACK_TEMP_CROSSING (R304): stack `n` crosses 85 °C upward (`flag`), and the bookings in slots that become refresh slots
break with cause 5; or 83 °C downward. -/
def execStackTempCrossing (s : State) : Host.Outcome State Fault Refusal :=
  let a := s.arg
  let k : Fin 16 := ⟨a.n % 16, Nat.mod_lt _ (by decide)⟩
  let st := s.hier.stks[k]
  let was := st.hot
  let s := s.setHier { s.hier with stks := s.hier.stks.set k { st with hot := a.flag } }
  if was || !a.flag then .next s
  else
    let p := fun (x : Slot) => match x.res with | .hbm q _ => q = k && x.tick / 2 % 512 = 258 && s.now ≤ x.tick | _ => false
    .next (((s.delayAll p (fun x => x.tick + 2) .refresh 3).delayCopies p s.now .refresh).moveUnowned p)

/-! ## Soft errors (R312) -/

/-- The source and unit of an error-log entry for a place (R394): SRAM, HBM5 or LPDDR. -/
def eccSource : EccPlace → Nat × Nat
  | .dieSram d => (1, d.val)
  | .hubSram => (1, 4)
  | .l1 c => (1, (dieOf c).val)
  | .l2 l => (1, (dieOfSlice l).val)
  | .hbm k => (2, k.val)
  | .sector k => (2, k.val)
  | .cap q => (3, q.val)

/-- Counts a corrected soft error (R378). -/
def State.countEcc (s : State) (p : EccPlace) : State :=
  let y := s.sys
  let die := fun (d : Fin 4) => s.setSys { y with errcDie := y.errcDie.set d (satInc y.errcDie[d]) }
  match p with
  | .dieSram d => die d
  | .l1 c => die (dieOf c)
  | .l2 l => die (dieOfSlice l)
  | .hubSram => s.setSys { y with errcHub := satInc y.errcHub }
  | .hbm k | .sector k => s.setSys { y with errcHbm := y.errcHbm.set k (satInc y.errcHbm[k]) }
  | .cap q => s.setSys { y with errcCap := y.errcCap.set q (satInc y.errcCap[q]) }

/-- Requests on a line that are still to be performed. -/
def State.waitingOn (s : State) (line : Nat) : List Req :=
  s.reqs.filter fun r => r.cached && r.line = line && !r.perfDone && r.held.isNone &&
    (match r.effect with | .load .. | .store | .atomic .. => true | _ => false)

/-- The slice lookup or fill stages of a request: the number of the `n`-th stage of level 1. -/
def Req.bankStageNo (r : Req) (n : Nat) : Option Nat :=
  ((List.range r.path.length).filter fun i => match r.path[i]? with | some x => x.level = 1 | none => false)[n]?

/-- A read of HBM5 or LPDDR is corrected (R312): requests whose channel read has been made read again in the next ordinary
slot, the corrected data is written back, and those that follow the fill wait for it. -/
def State.readAgain (s : State) (line : Nat) : State :=
  let deep := fun (r : Req) => (List.range r.slots.length).find? fun i => match r.path[i]?, r.slots[i]? with
    | some x, some y => x.main && 3 ≤ x.level.val && x.level.val ≤ 5 && y.tick ≤ s.now
    | _, _ => false
  let s1 := (s.waitingOn line).foldl (fun (s : State) r =>
    match s.req? r.id with
    | none => s
    | some r => match deep r with
      | none => s
      | some j =>
        let lvl := match r.path[j]? with | some x => x.level | none => 3
        let s := s.breakFrom r .reRead lvl j (s.now + 1)
        (match r.slots[j]? with
         | some x => s.setHier (s.hier.take ⟨x.res, bookTick s.hier x.res .writeBack 1 (s.now + 1), 1⟩)
         | none => s)) s
  let fill := (s1.waitingOn line).foldl (fun n r => match deep r, (r.bankStageNo 1).bind fun i => r.slots[i]? with
    | some _, some x => max n (x.tick + 8)
    | _, _ => n) 0
  let s1 := match s1.hier.line? line with
    | some l => s1.setHier (s1.hier.putLine { l with fill := max l.fill fill })
    | none => s1
  (s1.waitingOn line).foldl (fun (s : State) r =>
    match s.req? r.id with
    | none => s
    | some r => match deep r, r.bankStageNo 0 with
      | none, some j => s.delay r .reRead 3 j fill
      | _, _ => s) s1

/-- Books again from now the requests that still need a line which has been dropped (R312). -/
def State.fetchAgain (s : State) (p : Req → Bool) (level : Level) : State :=
  ((s.reqs.filter fun r => r.cached && !r.perfDone && r.held.isNone && p r &&
      (match r.effect with | .load .. | .store | .atomic .. => true | _ => false)).foldl (fun (s : State) r =>
    match s.req? r.id with
    | none => s
    | some old =>
      let s := s.setHier (s.hier.free old.slots)
      let (s, alloc) := if old.fromL1 then s.l1Alloc old.core old.line else (s, 0)
      let (s, r) := s.bookHome { old with probed := s.now, fromL1 := false, clk := 0 } (max (s.floorTick old) alloc)
      let r := { r with probed := old.probed }
      (s.moved old r .reRead level).rebookBehind r.id .reRead level 64) s)

/-- Drops a clean line of L2 whose error cannot be corrected; the deliveries already made keep their holds (R312). -/
def State.dropClean (s : State) (l : L2Line) : State :=
  let left := (s.reqs.filter fun r => r.cached && r.line = l.addr && r.perfDone && !r.fromL1).length
  let s := (s.setHier (s.hier.dropLine l.addr)).leaveL2 l
  let s := s.fetchAgain (fun r => r.line = l.addr && !r.fromL1) 1
  match s.hier.line? l.addr with
  | some x => s.setHier (s.hier.putLine { x with hold := x.hold + left })
  | none => s

/-- Bytes that cannot be corrected (R312): they fail every later read until they are written whole, and every request that
waits on them is held with class 3 and the entry's number. -/
def State.failBytes (s : State) (a n : Nat) (ticket : Word) : State :=
  let sectors := (List.range (ceilDiv (a % 32 + n) 32)).map fun i => (a / 32 * 32 + 32 * i, 32, ticket)
  let s := s.setHier { s.hier with fails := sectors ++ s.hier.fails.filter fun f => !(sectors.any fun x => x.1 = f.1) }
  let hit := fun (r : Req) => r.bytes.any fun b => a / 32 * 32 ≤ b && b < a + n
  let needs := fun (r : Req) => match r.effect with
    | .store => !sectorsIn r.lineAt.need r.lineAt.whole
    | _ => true
  ((s.waitingOn (a / 128 * 128)).filter fun r => hit r && needs r && !r.fromL1).foldl
    (fun s r => s.holdReq r.id .error ticket 64) s

/-- ECC_ERROR (R312, R378, R394): a soft error at address `n`, of `m` bytes, is found at a place. A corrected one is counted and
logged; an atom of HBM5 or LPDDR whose first read fails is read again; what an uncorrectable one does depends on where it is. -/
def execEccError (s : State) : Host.Outcome State Fault Refusal :=
  let a := s.arg
  let (src, unit) := eccSource a.place
  let line := a.n / 128 * 128
  match a.kind with
  | .corrected =>
    let (s, _) := (s.countEcc a.place).logError src unit 1 a.n
    (match a.place with
     | .hbm _ | .cap _ | .sector _ => .next (s.readAgain line)
     | _ => .next s)
  | .retried => (match a.place with
    | .hbm _ | .cap _ | .sector _ => .next (s.readAgain line)
    | _ => .next s)
  | .uncorrectable =>
    let (s, k) := s.logError src unit 2 a.n
    let ticket : Word := BitVec.ofNat 32 k
    match a.place with
    | .l1 c => .next ((s.l1Drop c line).fetchAgain (fun r => r.core = c && r.line = line && r.fromL1) 0)
    | .l2 _ =>
      (match s.hier.line? line with
       | none => .next s
       | some l => if l.dirty.getLsbD (a.n % 128 / 32) then .next (s.failBytes a.n (max a.m 1) ticket) else .next (s.dropClean l))
    | .hbm _ | .cap _ | .sector _ => .next (s.failBytes a.n (max a.m 1) ticket)
    | .dieSram _ | .hubSram => .next s

/-- SCRUB (R312): an atom is scrubbed in an unbooked slot; the data it holds is unchanged. -/
def execScrub (s : State) : Host.Outcome State Fault Refusal := .next s

/-! ## Dead ranges (R305) -/

/-- Whether a range number names memory below the compression metadata of its stack (R301, R305). -/
def State.rangeOk (s : State) (n : Nat) : Bool := (n + 1) * 2 ^ 21 ≤ stackBytes s.csize

/-- The fields that a write of HBM_DEAD leaves in the register. -/
def deadWritten (old : DWord) (op n : Nat) : DWord := setBits (setBits old 63 62 op) 15 0 n

/-- HBM_DEAD_MARK (R305, OP 1): range `m` of stack `n` is dead: a write of zero to every byte of it (R315). -/
def execHbmDeadMark (s : State) : Host.Outcome State Fault Refusal :=
  let a := s.arg
  let k : Fin 16 := ⟨a.n % 16, Nat.mod_lt _ (by decide)⟩
  if !s.rangeOk a.m then .next s
  else
    let st := s.hier.stks[k]
    let st := { st with deadReg := deadWritten st.deadReg 1 a.m, dead := if st.dead.contains a.m then st.dead else a.m :: st.dead }
    let base := k.val * 2 ^ 37 + a.m * 2 ^ 21
    let within := fun (x : Nat) => decide (base ≤ x) && decide (x < base + 2 ^ 21)
    let mem := s.mem.filter fun c => !within c.1
    let l2 := s.hier.l2.map fun (l : L2Line) => if within l.addr then { l with below := List.replicate 128 0 } else l
    .next ((s.setMem mem).setHier { s.hier with stks := s.hier.stks.set k st, l2 := l2 })

/-- HBM_DEAD_LOAD (R305, OP 2): DEAD shows the state of range `m` of stack `n`. -/
def execHbmDeadLoad (s : State) : Host.Outcome State Fault Refusal :=
  let a := s.arg
  let k : Fin 16 := ⟨a.n % 16, Nat.mod_lt _ (by decide)⟩
  if !s.rangeOk a.m then .next s
  else
    let st := s.hier.stks[k]
    let reg := setBits (deadWritten st.deadReg 2 a.m) 16 16 (if st.dead.contains a.m then 1 else 0)
    .next (s.setHier { s.hier with stks := s.hier.stks.set k { st with deadReg := reg } })

end Sys2Proof.Machine
end

