-- ==== Sys2Proof/Machine/Boot.lean ====
section
/-!
DEFINITION. Resets (R398, R419), READY (R400), the lifecycle state (R401), BOOTCFG (R399), attestation (R402, R403) and the
mailboxes (R389).
-/
namespace Sys2Proof.Machine

/-! ## Mailboxes (R389) -/

/-- A mailbox by its number. -/
def boxNo (n : Nat) : Fin 8 := ⟨n % 8, Nat.mod_lt _ (by decide)⟩

def State.setBox (s : State) (n : Fin 8) (b : Mailbox) : State := s.setSys { s.sys with boxes := s.sys.boxes.set n b }

/-- The poster's bit of a mailbox set in this tick: HOST for the steward, which raises MSI-X vector n, else DEV. -/
def State.ringBell (s : State) (n : Fin 8) (steward : Bool) : State :=
  let b := s.sys.boxes[n]
  if steward then
    let s := s.setBox n { b with bell := b.bell ||| 0x80000000, hostAt := s.now }
    s.setSys { s.sys with msix := s.sys.msix ||| BitVec.ofNat 8 (2 ^ n.val) }
  else s.setBox n { b with bell := b.bell ||| 0x40000000, devAt := s.now }

/-- MAILBOX_DOORBELL_SET (R389): a write of mailbox `n`'s doorbell-set register, by the steward (`flag`) or the host. -/
def execMailboxDoorbellSet (s : State) : Host.Outcome State Fault Refusal := .next (s.ringBell (boxNo s.arg.n) s.arg.flag)

/-- MAILBOX_DOORBELL_CLEAR (R389, R6): each written 1 of HOST and DEV clears its bit, unless that is set in the same tick; a read
in that tick still finds the doorbell before it. -/
def execMailboxDoorbellClear (s : State) : Host.Outcome State Fault Refusal :=
  let n := boxNo s.arg.n
  let b := s.sys.boxes[n]
  let keep := fun (bit at_ : Nat) => !s.arg.v.getLsbD bit || (at_ = s.now && b.bell.getLsbD bit)
  let bell := if keep 31 b.hostAt then b.bell else b.bell &&& 0x7FFFFFFF
  let bell := if keep 30 b.devAt then bell else bell &&& 0xBFFFFFFF
  .next (s.setBox n { b with bell := bell, was := if b.clrAt = s.now + 1 then b.was else b.bell, clrAt := s.now + 1 })

/-! ## Resets (R398) -/

/-- The device wiped and booted (R398, R399): what survives is the configuration flash, whose value comes into force, and the
lifecycle state `lc`. `fail` is that the boot image's signature does not verify. -/
def State.reboot (s : State) (lc : BitVec 2) (fail : Bool) : State :=
  let cfg := s.sys.bootNext
  let meas : Vector (BitVec 512) 8 := Vector.ofFn fun i => if fail && i.val != 0 then 0 else Config.measure 0 i.val
  let r := State.reset
  let r := r.setSys { r.sys with bootCfg := cfg, bootNext := cfg, lc := lc, meas := meas, ext := if fail then 1 else 0xFF
                                 fabId := if fail then 0 else BitVec.ofNat 8 (bits cfg 23 16)
                                 ready := if fail then 0x8000000000000000 else 0 }
  let r := r.setOwn { r.own with free := s.own.free }
  if fail then
    let b := r.sys.boxes[boxNo 0]
    (r.setBox (boxNo 0) { b with bell := 4, msg := memSet b.msg 4 1 }).ringBell (boxNo 0) true
  else r

/-- POWER_ON_RESET (R398). `flag` is that boot verification fails. -/
def execPowerOnReset (s : State) : Host.Outcome State Fault Refusal := .next (s.reboot s.sys.lc s.arg.flag)
/-- FUNDAMENTAL_RESET (R398): the same steps. -/
def execFundamentalReset (s : State) : Host.Outcome State Fault Refusal := .next (s.reboot s.sys.lc s.arg.flag)

/-- LIFECYCLE_CHANGE (R401, R404): a signed command sets state `n`, which is never provisioning again, and resets the device. -/
def execLifecycleChange (s : State) : Host.Outcome State Fault Refusal :=
  if s.arg.n = 2 || s.arg.n = 3 then .next (s.reboot (BitVec.ofNat 2 s.arg.n) s.arg.flag) else .next s

/-- READY_BIT_RISE (R400): bit `n` of READY is set. Requests held with class 1 and ticket 0 are probed again, placement and the
queue unit go on; a fabric link that becomes ready ends class 4 holds of the peers it leads to. -/
def execReadyBitRise (s : State) : Host.Outcome State Fault Refusal :=
  let n := s.arg.n
  if n < 3 || 39 < n || s.sys.ready.getLsbD n || s.sys.ready.getLsbD 63 then .next s
  else
    let s := s.setSys { s.sys with ready := s.sys.ready ||| BitVec.ofNat 64 (2 ^ n) }
    if n < 7 then .next (s.schedule (s.now + 1) .crewPlacement EvArg.none)
    else if n < 24 then .next (s.resolve .page 0)
    else if n < 36 then
      .next (((List.finRange 256).filter fun p => (s.sys.route[p]).getLsbD (n - 24)).foldl
        (fun s p => s.resolve .peer (BitVec.ofNat 32 p.val)) s)
    else if n = 38 then .next s.retryWanted
    else .next s

/-! ## BOOTCFG (R399) -/

/-- The value that a write leaves in the configuration flash: reserved bits zero, a CSIZE of 5 to 7 ignored. -/
def bootWritten (old v : DWord) : DWord :=
  let size := if bits v 2 0 ≤ 4 then bits v 2 0 else bits old 2 0
  BitVec.ofNat 64 (bits v 23 16 * 2 ^ 16 + bits v 8 8 * 2 ^ 8 + size)

/-- BOOTCFG_WRITE (R398, R399): stored for the next reset, until the first READY.HBM bit rises. -/
def execBootcfgWrite (s : State) : Host.Outcome State Fault Refusal :=
  if bits s.sys.ready 22 7 != 0 then .next s
  else .next (s.setSys { s.sys with bootNext := bootWritten s.sys.bootNext s.arg.v })

/-! ## Attestation (R402) -/

/-- ATTESTATION_REQUEST (R402, R403): a report on nonce `wide` is being signed; there are at most 8. -/
def execAttestationRequest (s : State) : Host.Outcome State Fault Refusal :=
  if 8 ≤ s.sys.nonces.length then .next s else .next (s.setSys { s.sys with nonces := s.sys.nonces ++ [s.arg.wide] })

/-- A signed report (R402). -/
def State.report402 (s : State) (nonce : BitVec 512) : List Byte :=
  natLe 64 nonce.toNat ++ (List.range 16).map Config.serialByte ++ natLe 8 s.sys.lc.toNat ++ natLe 8 (s.now % 2 ^ 64) ++
  s.sys.meas.toList.flatMap (fun m => natLe 64 m.toNat) ++
  (List.range 4627).map fun i => Config.reportByte s.freeNo i

/-- ATTESTATION_REPORT_SIGNED (R402, R403): the oldest request is answered. -/
def execAttestationReportSigned (s : State) : Host.Outcome State Fault Refusal :=
  match s.sys.nonces with
  | [] => .next s
  | n :: rest =>
    .next ((s.setSys { s.sys with nonces := rest, reports := s.sys.reports + 1
                                  lastRep := memWrite [] 0 (s.report402 n) }).useFree 1)

/-- ATT (R403). -/
def Sys.att (y : Sys) : DWord :=
  BitVec.ofNat 64 (y.ext.toNat * 2 ^ 40 + y.nonces.length * 2 ^ 32 + y.reports.toNat)

end Sys2Proof.Machine
end

