-- ==== Sys2Proof/Machine/Restore.lean ====
section
/-!
DEFINITION. Restoring what a context save or a migration put aside: records read back from memory (R112 to R116), wakes
evaluated again (R117), crews placed on fit targets (R359, R416), the lapidary's reload (R249), migrations that wait for
their target (R361).
-/
namespace Sys2Proof.Machine

/-! ## Records from memory (R112 to R116) -/

/-- A frontier entry of a record (R114). -/
def entryOf (a b : DWord) : Entry :=
  ⟨BitVec.ofNat 48 (bits a 47 0), ⟨bits a 52 48, by unfold bits; exact Nat.mod_lt _ (by decide)⟩, BitVec.ofNat 32 (bits b 31 0)⟩

/-- Whether the image of a time register has a reserved value or a zero field that is not zero (R49). -/
def badTime (d : DWord) : Bool :=
  match bits d 63 62 with
  | 0 | 1 => bits d 61 56 != 0
  | 2 => false
  | _ => bits d 61 56 < 1 || 5 < bits d 61 56 || bits d 55 32 != 0

/-- Whether a record's image has a reserved value, a non-zero reserved field, a count out of range or lane masks that overlap
or are empty (R116). -/
def badImage (d : Nat → DWord) (regs : Nat) : Bool :=
  let kind := bits (d 0) 63 56
  let flags := bits (d 0) 55 48
  let vc := bits (d 0) 47 40
  let fc := bits (d 0) 39 32
  let sc := flags / 16
  let at_ := 8 + 2 * fc
  let masks := (List.range fc).map fun i => bits (d (9 + 2 * i)) 31 0
  kind < 1 || 5 < kind || 8 < sc || regs < vc || fc < 1 || 32 < fc || 8 < bits (d 1) 63 60 ||
  (sc = 0 && bits (d 1) 59 56 != 0) || 3 < bits (d 3) 39 32 || 3 < bits (d 3) 31 24 || 31 < bits (d 3) 47 40 ||
  (kind = 2 && (fc != 1 || vc != 0 || flags != 0 || bits (d 1) 63 60 != 8 || bits (d 2) 63 48 != 0)) ||
  ((List.range fc).any fun i => bits (d (8 + 2 * i)) 63 53 != 0 || bits (d (9 + 2 * i)) 63 32 != 0) ||
  masks.any (fun x => x = 0) || masks.foldl (fun n x => n + x) 0 != masks.foldl (fun n x => n ||| x) 0 ||
  (flags / 2 % 2 = 1 && (bits (d at_) 63 57 != 0 || bits (d (at_ + 1)) 63 32 != 0)) ||
  (kind != 2 && (List.range 16).any fun i => badTime (d (at_ + (if flags / 2 % 2 = 1 then 2 else 0) + 64 + i)))

/-- The role of a code (R112). -/
def roleOf (n : Nat) : Role := match n with | 1 => .copy | 2 => .matrix | 3 => .vector | _ => .general

/-- The trap block of a record (R114). -/
def trapOf (g : Gang) (a b : DWord) : TrapBlk :=
  ⟨BitVec.ofNat 48 (bits a 47 0), (match g.trap with | some t => t.hdr | none => 0), BitVec.ofNat 8 (bits a 55 48),
    BitVec.ofNat 32 (bits b 31 0), bits a 56 56 = 1⟩

/-- The header of a record (R112, R113). A record whose wake fields stand as they were saved keeps its order key. -/
def Rec.ofImage (h : Rec) (d : Nat → DWord) (bad : Bool) : Rec :=
  let flags := bits (d 0) 55 48
  let r : Rec :=
    { kind := BitVec.ofNat 8 (bits (d 0) 63 56), seq := BitVec.ofNat 32 (bits (d 0) 31 0), wake := BitVec.ofNat 4 (bits (d 1) 63 60)
      wtick := BitVec.ofNat 56 (bits (d 1) 55 0), tmask := BitVec.ofNat 16 (bits (d 2) 63 48)
      object := BitVec.ofNat 16 (bits (d 2) 47 32), arg := BitVec.ofNat 32 (bits (d 2) 31 0)
      lastq := BitVec.ofNat 8 (bits (d 3) 31 24), rot := flags % 2 = 1, bound := flags / 4 % 2 = 1, floor := flags / 8 % 2 = 1
      key := h.key, bad := bad, raw := [], written := h.written }
  if r.kind = h.kind && r.wake = h.wake && r.wtick = h.wtick && r.tmask = h.tmask && r.object = h.object && r.arg = h.arg then r
  else { r with key := none }

/-- A gang as its record in memory gives it: the steward may have edited every field but its name (R116). A time register
whose image was edited is software's (R52). A malformed record keeps its image. -/
def Gang.ofImage (g : Gang) (m : List Host.Cell) (a regs : Nat) : Gang :=
  let d := fun (i : Nat) => memDWord m (a + 8 * i)
  let bad := badImage d regs
  let raw := if bad then (List.range g.image.length).map d else []
  let fc := min (bits (d 0) 39 32) 32
  let vc := bits (d 0) 47 40
  let flags := bits (d 0) 55 48
  let hasTrap := flags / 2 % 2 = 1
  let b := 8 + 2 * fc
  let at_ := b + (if hasTrap then 2 else 0)
  let p : Vector Mask 8 := Vector.ofFn fun i => BitVec.ofNat 32 (if i.val % 2 = 0 then bits (d (4 + i.val / 2)) 31 0 else bits (d (4 + i.val / 2)) 63 32)
  let front := sortBy entryBefore ((List.range fc).map fun i => entryOf (d (8 + 2 * i)) (d (9 + 2 * i)))
  let g := { g with role := roleOf (bits (d 3) 39 32), front := front, p := p, hd := { g.hd.ofImage d bad with raw := raw }
                    strict := if flags / 16 = 0 then none else
                      some (⟨bits (d 1) 59 56, by unfold bits; exact Nat.mod_lt _ (by decide)⟩, BitVec.ofNat 4 (flags / 16))
                    trap := if hasTrap then some (trapOf g (d b) (d (b + 1))) else none }
  if bits (d 0) 63 56 = 2 then { g with s := g.s.set 8 ((BitVec.ofNat 32 (bits (d 2) 31 0)).zeroExtend 64) }
  else
    let word := fun (r l : Nat) => memWord m (a + 8 * (at_ + 80) + 128 * r + 4 * l)
    { g with live := vc
             s := Vector.ofFn fun i => d (at_ + i.val)
             t := g.t.mapFinIdx fun i t _ => (if t.val = d (at_ + 64 + i) then t else ⟨d (at_ + 64 + i), true, 0⟩)
             v := Vector.ofFn fun i => if i.val < 16 * vc then Vector.ofFn fun l => word i.val l.val else Vector.replicate 32 0 }

/-! ## Waking (R117) -/

/-- Whether the event that a record of wake kinds 3 to 5 or 7 waits for has happened. -/
def State.eventHappened (s : State) (g : Gang) (c : Crew) : Bool :=
  match g.hd.wake.toNat with
  | 3 => (s.bar c ⟨g.hd.object.toNat % 32, Nat.mod_lt _ (by decide)⟩).phase != g.hd.arg
  | 4 => (match (s.cc g.core).rings.find? fun e => e.crew = c.key && e.num.val = g.hd.object.toNat with
    | some e => (s.ring c e.off).slotFull g.hd.arg.toNat
    | none => false)
  | 5 => (s.cc g.core).mons.any fun m => m.gang = g.key && m.hit
  | 7 => s.fifoUsed g.core < 32
  | _ => false

/-- Tests the wake of a record that has been brought to a core, and puts its wake tick on the agenda (R117). -/
def State.rewake (s : State) (k : GangKey) (c : Crew) : State :=
  match s.gang? k with
  | none => s
  | some g =>
    if g.hd.kind = 4 then s
    else if g.hd.key.isSome then s.schedule s.now .relaunch { EvArg.none with core := g.core }
    else if s.eventHappened g c then s.makeEligible k (tickOf s.now)
    else (s.checkWake k).armWake g

/-! ## Fit targets (R416) -/

/-- Whether every ring number of a crew is free among the entries of a core (R204, R416). -/
def State.ringsFree (s : State) (c : Crew) (k : CoreId) : Bool :=
  k = c.core ||
    ((s.homeCc c).rings.filter fun e => e.crew = c.key).all fun e => !((s.cc k).rings.any fun x => x.num = e.num)

/-- Whether a core is a fit target for a crew (R416): it passes R84, and the crew's ring numbers are free there. -/
def State.fitTarget (s : State) (c : Crew) (k : CoreId) : Bool :=
  match s.slice? c.key.launch with
  | none => false
  | some l =>
    s.passesBut l k ((k = c.core && c.held) || (s.freeRun k c.partLen).isSome) && s.ringsFree c k

/-! ## Moving a crew's state between cores (R215, R359, R361) -/

/-- A context's logical map with the two physical cores exchanged (R13, R359, R361). -/
def swapCores (m : Vector CoreId 256) (a b : CoreId) : Vector CoreId 256 :=
  m.map fun x => if x = a then b else if x = b then a else x

/-- A number for a monitor on a core: its own where that is free, else the lowest free one (R212, R215). -/
def State.monitorNo (s : State) (k : CoreId) (m : Monitor) : Fin 64 :=
  let used := fun (n : Fin 64) => (s.cc k).mons.any fun x => x.num = n
  if used m.num then ((List.finRange 64).find? fun n => !used n).getD m.num else m.num

/-- Lets the lapidary of a core take up the saved state of a context (R249): after 2,560 clocks and one for each 256 bytes of
census. An image of another context that still stands in it goes to its save area first (R357 step 4). -/
def State.startReload (s : State) (k : CoreId) (y : CtxId) : State :=
  if (s.lap k).blank then s
  else
    let (s, n) := if (s.core k).lapHeld = some y then (s.setCore k { s.core k with lapHeld := none }, 0) else s.spillLap k
    s.loadLap k (n + (s.lap k).imageClocks)

/-- LAPIDARY_RESTORE (R249): the reload is done; the saved operations run in order from the next clock, each with a new
promise. -/
def execLapidaryRestore (s : State) : Host.Outcome State Fault Refusal :=
  let k := s.arg.core
  let s := s.setLap k { s.lap k with loading := false }
  .next (((s.lap k).ops.filter fun o => o.finish = 0).foldl (fun (x : State × Nat) o =>
    let (s, from_) := x
    let (s, finish) := s.bookOp k from_ o.id ⟨o.kind, o.fslot, o.slotNo, o.walk, o.arg⟩
    let o := { o with probe := s.clock k, begin := from_, finish := finish, started := false, got := [] }
    let s := (s.putLapOp k o).scheduleOp k o
    let prom := s.tickAt k finish
    let s := match s.req? o.req with
      | some r => (s.putReq { r with prom := prom, arrive := prom, perf := prom, clk := finish, core := k }).refreshOf r
      | none => s
    (s, finish)) (s, s.clock k + 1)).1

/-- Moves a crew's ring entries, monitors, commands that stand on no channel, and, where the crew issued the last operation
accepted there, the lapidary, from its old core to another (R215, R228, R361). -/
def State.moveObjects (s : State) (c : Crew) (k : CoreId) : State :=
  if k = c.core then s
  else
    let old := s.homeCc c
    let goes := fun (x : CopyCmd) => x.crew = c.key && x.chan.isNone
    let lap := old.lap.last = some c.key
    let mons := old.mons.filter fun m => crewKeyOf m.gang = c.key
    let s := s.setHomeCc c { old with rings := old.rings.filter fun e => e.crew != c.key
                                      mons := old.mons.filter fun m => crewKeyOf m.gang != c.key
                                      cmds := old.cmds.filter fun x => !goes x
                                      lap := if lap then { Lapidary.reset with counters := old.lap.counters } else old.lap }
    let new := s.cc k
    let s := s.setCc k { new with rings := new.rings ++ old.rings.filter fun e => e.crew = c.key
                                  cmds := new.cmds ++ old.cmds.filter goes
                                  lap := if lap then { old.lap with counters := new.lap.counters, ops := new.lap.ops ++ old.lap.ops } else new.lap }
    let s := if ((old.cmds.filter goes).any fun x => x.entry) && (s.core c.core).active = some c.ctx then s.entryFrees c.core none else s
    let moved := fun (r : Req) => (old.cmds.filter goes).any fun x => x.parts.any fun p => p.req = r.id
    let s := s.setReqs (s.reqs.map fun r => if moved r then { r with core := k } else r)
    let s := mons.foldl (fun s m =>
      let n := s.monitorNo k m
      let s := s.setCc k { s.cc k with mons := { m with num := n } :: (s.cc k).mons }
      s.mapGangs fun g => if g.key = m.gang && g.hd.wake = 5 then { g with hd := { g.hd with object := BitVec.ofNat 16 n.val } } else g) s
    if lap then
      (if (s.core c.core).lapHeld = some c.ctx then s.setCore c.core { s.core c.core with lapHeld := none } else s).startReload k c.ctx
    else s

/-- Brings a record to a core's store, or to its ring where it does not fit (R359, R361); on another core it takes a new SEQ
(R119). -/
def State.bringRecord (s : State) (g : Gang) (k : CoreId) (anew : Bool) : State :=
  let co := s.core k
  let s := if anew then s.setCore k { co with seq := co.seq + 1 } else s
  let g := { g with core := k, place := .store, hd := if anew then { g.hd with seq := co.seq } else g.hd }
  let (s, g) := s.makeRoom g (s.gangs.length + 1)
  (s.putGang g).markHigh k

/-! ## Restoring crews (R359) -/

/-- Whether a saved crew may be placed: every record of it is saved or in a ring, and its context runs. -/
def State.restorable (s : State) (c : Crew) : Bool :=
  !c.resident && !c.killed &&
  (match s.ctx? c.ctx with | some x => !x.killing && x.state != 4 | none => false) &&
  (s.gangs.filter fun g => g.crewKey = c.key).all fun g => match g.place with | .saved a => a != 0 | .ring .. => true | _ => false

/-- The partition of a crew on a core: in place, moved from the SRAM that still holds it, or read from the image in its
save area (R358). The answer is its base. -/
def State.bringPartition (s : State) (c : Crew) (k : CoreId) : State × Nat :=
  let n := runBytes c.partLen
  if n = 0 then (s, 0)
  else if k = c.core && c.held then (s, c.partBase)
  else
    let base := (s.freeRun k c.partLen).getD 0
    let save := match s.ctx? c.ctx with | some x => x.saveBase | none => 0
    let cells := if c.held then memSlice (s.core c.core).spad c.partBase n base
      else memSlice s.mem (save + c.core.val * 2 ^ 22 + 0x100000 + c.partBase) n base
    let s := s.setCore k { s.core k with spad := memPut (s.core k).spad cells }
    (if c.held then s.zeroRun c.core c.partBase n else s, base)

/-- A withdrawn request whose gang comes back as a record (R69): where its ticket was resolved meanwhile, or nothing is left that
could resolve it, it is issued again at once; else it waits for the resolution or the relaunch (assumption row 123). -/
def State.restoreReq (s : State) (id : Nat) (k : CoreId) : State :=
  match s.req? id with
  | none => s
  | some r =>
    let solved := match r.held, s.ctx? r.ctx with
      | some h, some c => c.resolved.contains h || h.1 = .migration
      | _, _ => false
    if r.orphan || solved then s.reissueAt id k else s.putReq { r with core := k }

/-- Restores a saved crew on a core (R359). -/
def State.restoreCrew (s : State) (c : Crew) (k : CoreId) : State :=
  let regs := match s.slice? c.key.launch with | some l => l.regs | none => 12
  let old := c.core
  let (s, base) := s.bringPartition c k
  let s := s.moveObjects c k
  let s := match s.ctx? c.ctx with
    | some x => if k = old then s else s.putCtx { x with map := swapCores x.map old k }
    | none => s
  let mig := match c.mig with | some m => if m.target = k then none else some m | none => none
  let c := { c with core := k, partBase := base, resident := true, held := false, mig := mig }
  let s := s.putCrew c
  let mine := sortBy (fun (a b : Gang) => seqAfter b.hd.seq a.hd.seq) (s.gangs.filter fun g => g.crewKey = c.key)
  let s := mine.foldl (fun s g => match g.place with
    | .saved a => s.bringRecord (g.ofImage s.mem a regs) k (k != old)
    | .ring p _ =>
      let g := match s.ctx? c.ctx with | some x => g.ofImage s.mem (x.ringSlot old p) regs | none => g
      if k = old then s.putGang g else s.bringRecord g k true
    | _ => if k = old then s else s.bringRecord g k true) s
  let s := (s.reqs.filter fun r => crewKeyOf r.owner = c.key && r.withdrawn).foldl (fun s r => s.restoreReq r.id k) s
  let s := mine.foldl (fun s g => s.rewake g.key c) s
  let s := (s.resumeHalted c.key).inClocks k 1 .channelTakeCommand { EvArg.none with core := k }
  ((s.offer k).pokeMove c.key).checkRetire c.key

/-- Restores every saved crew that has a fit target, from its old core upward (R359). -/
def State.restoreCrews (s : State) : State :=
  (s.crews.filter fun c => !c.resident).foldl (fun s c =>
    match s.crew? c.key with
    | none => s
    | some c =>
      if !s.restorable c then s
      else match (List.range 256).findSome? fun i =>
          let k := coreNo (c.core.val + i)
          if s.fitTarget c k then some k else none with
        | some k => s.restoreCrew c k
        | none => s) s

/-! ## Migrations that wait (R361 step 1) -/

/-- Lets the migrations whose target is fit begin: their crews stop at their next boundaries. -/
def State.tryMigrations (s : State) : State :=
  (s.crews.filter fun c => c.resident).foldl (fun s c =>
    match c.mig with
    | some m =>
      if m.stage = .asked && s.fitTarget c m.target then
        (s.putCrew { c with mig := some { m with stage := .stopping } }).pokeMove c.key
      else s
    | none => s) s

end Sys2Proof.Machine
end

