-- ==== Sys2Proof/Machine/Launch.lean ====
section
/-!
DEFINITION. Launches: the check of a launch record (R81, R82), launches from the steward and from dispatch queues (R334,
R345), the placement of crews (R84 to R88, R101), retirement (R100) and the end of a slice (R345, R371).
-/
namespace Sys2Proof.Machine

/-! ## Launch records (R81, R82) -/

/-- A slice with nothing but its record. -/
def Slice.ofRecord (c : CtxId) (r : Vector DWord 32) : Slice :=
  { id := 0, ctx := c, record := r, args := #v[0, 0, 0], deadline := 0, budget := 0, limited := false, count := 0, acc := 0
    accShown := 0, accRem := 0, nextCrew := 0, rr := 0, tries := 0, fallback := false, spent := false }

/-- The reserved fields of R81 are zero, and the bits of SHIFT that a shift of 0 to 63 leaves zero: R82 names no reason for a SHIFT
above 63, and the model gives reason 2 (assumption row 125). -/
def Slice.reservedClear (l : Slice) : Bool :=
  bits (l.dw 0) 55 48 = 0 && bits (l.dw 1) 63 48 = 0 && bits (l.dw 2) 63 56 = 0 && bits (l.dw 2) 7 0 = 0 &&
  bits (l.dw 3) 63 32 = 0 && bits (l.dw 4) 15 14 = 0 && bits (l.dw 4) 7 1 = 0 && bits (l.dw 5) 51 48 = 0 && bits (l.dw 5) 39 34 = 0 &&
  bits (l.dw 6) 63 32 = 0 && bits (l.dw 7) 63 20 = 0 && ((List.range 8).all fun i => vget l.record (8 + i) = 0)

/-- The resource check on a core with no crew and four ways converted (R82 reason 12). -/
def Slice.fitsIdle (l : Slice) : Bool :=
  16 * l.regs ≤ 1024 && runBytes l.scratch ≤ 2 ^ 20 + 4 * 2 ^ 16 && l.bars ≤ 32 &&
  ceilDiv (2 * (1216 + 128 * l.regs * 16)) 64 ≤ 12288

/-- The reason for which the hub rejects a launch record (R82), the first of the table; 0 when it accepts it. -/
def Slice.reason (l : Slice) : Nat :=
  let fair := bits (l.dw 5) 31 0
  if bits (l.dw 0) 63 56 != 1 then 1
  else if !l.reservedClear then 2
  else if l.entry.toNat % 4 != 0 then 3
  else if l.gx = 0 || l.gy = 0 || l.gz = 0 || 2 ^ 32 - 1 < l.crews then 4
  else if l.crewSize < 1 || 32 < l.crewSize then 5
  else if l.regs < 1 || 12 < l.regs then 6
  else if l.crewSize < l.rcopy + l.rmtx + l.rvec then 7
  else if l.scratch % 128 != 0 || 1310720 < l.scratch then 8
  else if 32 < l.bars then 9
  else if fair != 0 && (fair < 64 || 1048576 < fair) then 10
  else if BitVec.ofNat 12 (bits (l.dw 5) 63 52) != l.ctx then 11
  else if !l.fitsIdle then 12
  else 0

/-- An accepted launch becomes a slice under the next launch id (R90), and its first crew is placed. -/
def State.acceptSlice (s : State) (l : Slice) : State :=
  let s := s.setSlices (s.slices ++ [{ l with id := s.own.launch, fallback := !l.aff }])
  (s.setOwn { s.own with launch := s.own.launch + 1 }).schedule (s.now + 1) .crewPlacement EvArg.none

/-- Validates a launch record: it is accepted, or the notice of R82 reaches its context's event ring (R355). -/
def State.validate (s : State) (l : Slice) (info addr : Nat) : State :=
  match l.reason with
  | 0 => s.acceptSlice l
  | n => s.event l.ctx 1 n 0 0 info 0 addr

/-- The doublewords of a launch record from its bytes. -/
def recordOfBytes (bs : List Byte) : Vector DWord 32 :=
  Vector.ofFn fun i => BitVec.ofNat 64 (leNat ((bs.drop (8 * i.val)).take 8))

/-- STEWARD_LAUNCH_SUBMIT (R82): the steward submits the record at a physical address for a context, its loader having placed `bytes` as
`pairs` say (R405, R407). With every slice entry taken it waits (R345). -/
def execStewardLaunchSubmit (s : State) : Host.Outcome State Fault Refusal :=
  let a := s.arg
  let s := match s.ctx? a.ctx with | some c => s.loadData c a.pairs a.bytes | none => s
  if 1024 ≤ s.slices.length then .next (s.schedule (s.now + 1) .stewardLaunchSubmit { a with pairs := [], bytes := [] })
  else .next (s.validate (Slice.ofRecord a.ctx (recordOfBytes (memBytes s.mem a.n 256))) 0 a.n)

/-! ## Dispatch queues (R334, R345) -/

/-- Bytes 0 to 255 of a buffer as the hub reads them, with the physical address of the first (R334): the owner, rights and
bounds of R276 hold and the pages are there. The bytes of a host or peer buffer are not the device's to know. -/
def State.readLaunch (s : State) (c : Ctx) (h : Nat) : Option (List Byte × Nat) :=
  match s.portCheck 0 c h .read [⟨0, 0, 128⟩, ⟨0, 128, 128⟩] with
  | .error _ => none
  | .ok b =>
    match s.walk c (Buf.base b), s.walk c (Buf.base b + 128) with
    | some x, some y =>
      let k0 := homeKey (homeOf b 0) (x.entry.map (Buf.base b))
      let k1 := homeKey (homeOf b 128) (y.entry.map (Buf.base b + 128))
      let bs := if Buf.tier b < 2 then memBytes s.mem k0 128 ++ memBytes s.mem k1 128
        else (List.range 256).map fun i => Config.unspecifiedByte (s.freeNo + i)
      some (bs, x.entry.map (Buf.base b))
    | _, _ => none

/-- The launch that a task record of a dispatch queue forms (R334): the slice, the reason that is found before R82, and the
physical address of the launch record that was read. -/
def State.formLaunch (s : State) (c : Ctx) (d : QDesc) (w : Vector Word 8) : Slice × Nat × Nat :=
  let kind := w[0].toNat % 256
  let base := Slice.ofRecord c.id (Vector.replicate 32 0)
  let fill := fun (l : Slice) =>
    { l with args := #v[w[5], w[6], w[7]], deadline := joinWords w[2] w[3], budget := w[4].zeroExtend 64, limited := w[4] != 0 }
  if (kind != 1 && kind != 2) || w[0].toNat / 256 != 0 then (base, 13, 0)
  else if kind = 2 && d.template = 0 then (base, 14, 0)
  else match s.readLaunch c (if kind = 1 then w[1].toNat else d.template) with
    | none => (base, 14, 0)
    | some (bs, pa) =>
      let r := recordOfBytes bs
      let r := if kind = 1 then r
        else r.set 0 (BitVec.ofNat 64 (bits r[0] 63 48 * 2 ^ 48 + w[1].toNat))
      (fill (Slice.ofRecord c.id r), 0, pa)

/-- The deadline of a record (R333). -/
def recordDeadline (w : Vector Word 8) : DWord := joinWords w[2] w[3]

/-- Rules 1 and 2 of R345 on two deadlines: `a` ranks before `b`. -/
def deadlineFirst (a b : DWord) : Bool :=
  if a = 0 then false else if b = 0 then true else later (b.truncate 56) (a.truncate 56)

/-- Whether two deadlines rank alike. -/
def deadlineTie (a b : DWord) : Bool := !deadlineFirst a b && !deadlineFirst b a

/-- The order of head records (R345). -/
def headBefore (a b : Queue × Vector Word 8) : Bool :=
  let x := recordDeadline a.2
  let y := recordDeadline b.2
  deadlineFirst x y ||
    (deadlineTie x y && (a.1.ctx < b.1.ctx || (a.1.ctx = b.1.ctx && a.1.handle < b.1.handle)))

/-- The head records of the dispatch queues that stand in their slots. -/
def State.dispatchHeads (s : State) : List (Queue × Vector Word 8) :=
  s.queues.resident.filterMap fun q =>
    match (s.ctx? q.ctx).bind fun c => s.usableQueue c q.handle, q.recs with
    | some d, x :: _ => if d.dispatch && q.phase = .ready && x.due = 0 then some (q, x.words) else none
    | _, _ => none

/-- DISPATCH_TAKE (R345, R334): with a slice entry free, the record ranked first is removed and formed into a launch; at most
one in a tick. -/
def execDispatchTake (s : State) : Host.Outcome State Fault Refusal :=
  if 1024 ≤ s.slices.length then .next s
  else if s.now < s.own.taking then .next (s.schedule s.own.taking .dispatchTake EvArg.none)
  else match firstBy headBefore s.dispatchHeads with
  | none => .next s
  | some (q, w) =>
    match s.ctx? q.ctx with
    | none => .next s
    | some c => match s.usableQueue c q.handle with
      | none => .next s
      | some d =>
        let s := s.setOwn { s.own with taking := s.now + 1 }
        let s := s.takeHead d { q with used := s.now } s.now
        let (l, why, pa) := s.formLaunch c d w
        let s := if why = 14 || why = 0 then s.useFree 256 else s
        let info := 0x10000 + q.handle.toNat
        let s := if why = 0 then s.validate l info pa else s.event c.id 1 why 0 0 info 0 0
        .next ((s.schedule (s.now + 1) .dispatchTake EvArg.none).retryWanted)

/-! ## Placement (R84 to R88, R101) -/

/-- Puts the next crew of a slice on a core (R87, R101, R178, R195): its gangs become resident in ascending order until one
does not fit; that one and the rest become fresh-spawn records. -/
def State.placeCrew (s : State) (l : Slice) (k : CoreId) : State :=
  let index := BitVec.ofNat 32 l.nextCrew
  let key : CrewKey := ⟨l.id, index.truncate 16⟩
  let base := (s.freeRun k l.scratch).getD 0
  let c : Crew := { key := key, ctx := l.ctx, index := index, core := k, partBase := base, partLen := l.scratch, bars := l.bars
                    bind := Vector.ofFn fun i => 16 * i.val, regs := []
                    reserve := 2 * (1216 + 128 * l.regs * 16), mig := none, killed := false, resident := true, held := false }
  let s := s.setCrews (s.crews ++ [c])
  let (s, _) := (List.range l.crewSize).foldl (fun (x : State × Bool) i =>
    let (s, spill) := x
    let n : Fin 32 := ⟨i % 32, Nat.mod_lt _ (by decide)⟩
    let g := l.start c n l.entry none
    match (if spill then none else s.chooseSlot k (16 * l.regs)) with
    | some (q, j) => (s.addGang { g with place := .slot q j, readyAt := s.clock k + 1 }, false)
    | none => (s.spawn g 0 0, true)) (s, false)
  let s := s.markHigh k
  s.putSlice { l with nextCrew := l.nextCrew + 1, tries := 0, fallback := !l.aff }

/-- The target span of a crew under affinity (R85). -/
def Slice.span (l : Slice) : Nat :=
  let i := l.nextCrew
  let x := i % l.gx
  let y := i / l.gx % l.gy
  let z := i / (l.gx * l.gy)
  (l.c0 * x + l.c1 * y + l.c2 * z) % 2 ^ 64 / 2 ^ l.shift % 64

/-- Whether a crew of the launch with the next crew's number is still placed (R101). -/
def State.numberTaken (s : State) (l : Slice) : Bool := (s.crew? ⟨l.id, BitVec.ofNat 16 l.nextCrew⟩).isSome

/-- Asks the cores of a context for scratchpad that saved crews still hold (R357 step 5). -/
def State.askSpill (s : State) (c : CtxId) (scratch : Nat) : State :=
  (List.finRange 256).foldl (fun s k =>
    if (s.core k).active = some c && (s.core k).zeroing.isEmpty && s.crews.any fun x => x.core = k && x.held then
      s.schedule s.now .scratchpadSpill { EvArg.none with core := k, n := scratch }
    else s) s

/-- One clock of a slice's placement (R85, R86); a crew whose 64 clocks of affinity are over waits for its fall-back. -/
def State.tryPlace (s : State) (id : LaunchId) : State :=
  match s.slice? id with
  | none => s
  | some l =>
    if l.crews ≤ l.nextCrew || s.numberTaken l || (!l.fallback && 64 ≤ l.tries) then s
    else if !l.fallback then
      match (List.range 4).findSome? fun i =>
          let k := coreNo (4 * l.span + i)
          if s.passes l k then some k else none with
      | some k => s.placeCrew l k
      | none =>
        let s := s.putSlice { l with tries := l.tries + 1 }
        if 63 ≤ l.tries then s.schedule (s.now + 1) .affinityFallback { EvArg.none with launch := id, n := l.nextCrew }
        else s
    else
      match (List.range 256).findSome? fun i =>
          let k := coreNo (l.rr.val + i)
          if s.passes l k then some k else none with
      | some k => s.placeCrew { l with rr := coreNo (k.val + 1) } k
      | none => s.askSpill l.ctx l.scratch

/-- The rank of slices in placement (R345). -/
def sliceBefore (a b : Slice) : Bool :=
  deadlineFirst a.deadline b.deadline ||
    (deadlineTie a.deadline b.deadline && (b.priority < a.priority || (a.priority = b.priority && a.id < b.id)))

/-- CREW_PLACEMENT (R85, R86, R345): saved crews and waiting migrations look for their targets (R359, R361); in each clock every slice with crews to place may place its next one, in rank order. The
next clock is tried while some crew was placed or is still in its clocks of affinity. -/
def execCrewPlacement (s : State) : Host.Outcome State Fault Refusal :=
  if s.now < s.own.placing then .next (s.schedule s.own.placing .crewPlacement EvArg.none)
  else
    let s := (s.setOwn { s.own with placing := s.now + 1 }).restoreCrews.tryMigrations
    let wait := sortBy sliceBefore (s.slices.filter fun l => l.nextCrew < l.crews)
    if wait.isEmpty then .next s
    else
      let s2 := wait.foldl (fun s l => s.tryPlace l.id) s
      let again := s2.slices.any fun l => l.nextCrew < l.crews &&
        ((!l.fallback && l.tries < 64) || !(s.slices.any fun x => x.id = l.id && x.nextCrew = l.nextCrew))
      .next (if again then s2.schedule (s2.now + 1) .crewPlacement EvArg.none else s2)

/-- AFFINITY_FALLBACK (R85): 64 clocks have passed without a core of the target span; the crew is placed by fall-back, in this very
clock also where the clock's placements are made already. -/
def execAffinityFallback (s : State) : Host.Outcome State Fault Refusal :=
  match s.slice? s.arg.launch with
  | some l =>
    if l.nextCrew = s.arg.n && l.aff && !l.fallback then
      let s := s.putSlice { l with fallback := true }
      let s := if s.now < s.own.placing then s.tryPlace l.id else s
      .next (s.schedule s.now .crewPlacement EvArg.none)
    else .next s
  | none => .next s

/-! ## Retirement and the end of a slice -/

/-- The energy table's entry takes a slice's final accrual (R371). -/
def State.chargeTable (s : State) (l : Slice) : State :=
  let acc := l.acc + BitVec.ofNat 64 ((l.accRem + Config.roundEnergy s.freeNo l.id.toNat) / 65536)
  let s := s.useFree 1
  match s.ringEntry s.power.engTbl 8 l.energy with
  | none => s
  | some a => s.hubWords a [memDWord s.mem a + acc]

/-- A slice whose last crew has retired ends (R345): its entry is free, its energy is charged. -/
def State.endSlice (s : State) (id : LaunchId) : State :=
  match s.slice? id with
  | none => s
  | some l =>
    if l.crews ≤ l.nextCrew && !(s.crews.any fun c => c.key.launch = id) then
      let s := s.chargeTable l
      (s.setSlices (s.slices.filter fun x => x.id != id)).schedule s.now .dispatchTake EvArg.none
    else s

/-- A crew gone from its core: gathering copies are cancelled (R231), its ring entries are free (R204), its run is zeroed
(R178), and its slice may end. -/
def State.dropCrew (s : State) (c : Crew) : State :=
  let s := s.cancelCopies c
  let s := s.setHomeCc c { s.homeCc c with rings := (s.homeCc c).rings.filter fun e => e.crew != c.key }
  let less := fun (cc : CoreCtx) => if cc.cmds.any fun x => x.crew = c.key then { cc with cmds := cc.cmds.filter fun x => x.crew != c.key } else cc
  let s := s.setCores (s.cores.map fun co => { co with cc := less co.cc })
  let s := s.setSaved (s.saved.map fun y => (y.1, y.2.1, less y.2.2))
  let s := s.setCrews (s.crews.filter fun x => x.key != c.key)
  let s := if c.resident || c.held then s.zeroRun c.core c.partBase (runBytes c.partLen) else s
  (s.offerFrom c.core s.now).endSlice c.key.launch

/-- CREW_RETIRE (R100): a crew with no gang, record, registration or engine work frees its partition, slots and reserve. -/
def execCrewRetire (s : State) : Host.Outcome State Fault Refusal :=
  let k := crewKeyOf s.arg.key
  match s.crew? k with
  | some c => if s.crewIdle k then .next (s.dropCrew c) else .next s
  | none => .next s

end Sys2Proof.Machine
end

