-- ==== Sys2Proof/Machine/Switch.lean ====
section
/-!
DEFINITION. Switching contexts on a core (R349, R357 to R360): preload, the exchange of the banks, the spill, the save area,
the stop of the engines (R229, R248), scratchpad spills, the two watchdogs.
-/
namespace Sys2Proof.Machine

/-! ## Answers of CTX_CMD (R356) -/

/-- A command of CTX_CMD has completed with a status: 0 done, 1 bad operand, 2 refused (R356). -/
def State.answer (s : State) (status : Nat) : State :=
  s.setSys { s.sys with ctxCmd := setBits (setBits s.sys.ctxCmd 63 63 0) 62 56 status }
/-- The answer of a switch: only one that a command asked for has one. -/
def State.answerIf (s : State) (cmd : Bool) (status : Nat) : State := if cmd then s.answer status else s

/-! ## Context records (R349) -/

/-- The 16 doublewords of a context record in memory. -/
def readCtx (m : List Host.Cell) (a : Nat) : Vector DWord 16 := Vector.ofFn fun i => memDWord m (a + 8 * i.val)

/-- The check of R349: reserved fields zero, sizes in range, bases in HBM5. -/
def State.ctxValid (s : State) (r : Vector DWord 16) : Bool :=
  let size := fun (i : Fin 16) (lo hi : Nat) => lo ≤ bits r[i] 56 52 && bits r[i] 56 52 ≤ hi && bits r[i] 63 57 = 0
  let base := fun (i : Fin 16) => s.inHbm (bits r[i] 51 0)
  bits r[0] 63 60 ≤ 4 && bits r[1] 63 52 = 0 && bits r[1] 11 0 = 0 && size 2 4 20 && size 3 4 16 && size 4 4 16 && size 5 10 24 &&
  size 6 4 16 && bits r[7] 63 52 = 0 && bits r[10] 31 0 = 0 && bits r[11] 63 2 = 0 && r[15] = 0 &&
  base 1 && base 2 && base 3 && base 4 && base 5 && base 6 && base 7

/-- Writes STATE of a context (R349). -/
def State.setCtxState (s : State) (cid : CtxId) (n : Nat) : State :=
  match s.ctx? cid with
  | some c => s.writeCtx (c.setDw 0 (setBits (c.dw 0) 63 60 n))
  | none => s

/-! ## Preload (R357 step 1) -/

/-- How many bytes of records fit the gang slots of an empty bank, taken in order until one does not fit (R87, R357). Each
item is the entries and the bytes of a record; `qs` are the slots and entries left in each quarter. -/
def preloadBytes : List (Nat × Nat) → List (Nat × Nat) → Nat
  | [], _ => 0
  | (need, bytes) :: rest, qs =>
    let fits := qs.filter fun q => 1 ≤ q.1 && need ≤ q.2
    match firstBy (fun (a b : Nat × Nat) => b.1 < a.1) fits with
    | none => 0
    | some q => bytes + preloadBytes rest ((q.1 - 1, q.2 - need) :: qs.erase q)

/-- The eligible records that a context has in the save area of a core, in wake order. -/
def State.savedEligible (s : State) (cid : CtxId) (k : CoreId) : List Gang :=
  let key := fun (g : Gang) => match g.hd.key with | some x => some x | none => s.timeKey g
  let gs := s.gangs.filterMap fun g =>
    if g.ctx = cid && g.core = k && g.hd.kind != 4 && (match g.place with | .saved _ => true | _ => false) then
      (key g).map fun x => { g with hd := { g.hd with key := some x } }
    else none
  sortBy wakesBefore gs

/-- CTX_SWITCH_IN (R349, R356, R357, R359): the record is read and checked, and the preload begins. `n` is the address of
the record of a context that the hub has not yet met. -/
def execCtxSwitchIn (s : State) : Host.Outcome State Fault Refusal :=
  let a := s.arg
  let k := a.core
  let co := s.core k
  let cmd := !a.flag
  let old := s.ctx? a.ctx
  let addr := match old with | some c => c.addr | none => a.n
  let r := readCtx s.mem addr
  let c : Ctx := match old with
    | some c => { c with record := r }
    | none => { id := a.ctx, record := r, addr := addr, map := Vector.ofFn fun i => i, revoked := [], pages := [], killing := false
                resolved := [] }
  if c.state < 1 || 3 < c.state || bits r[0] 59 48 != a.ctx.toNat || c.killing then .next (s.answerIf cmd 2)
  else
    let s := if old.isSome then s.putCtx c else s.setCtxs (s.ctxs ++ [c])
    if !s.ctxValid r then
      let s := if 4 ≤ c.evk && c.evk ≤ 16 && s.inHbm c.evBase then s.event a.ctx 9 0 k 0 0 0 0 else s
      .next (s.answerIf cmd 2)
    else if co.active = some a.ctx then .next (s.answerIf cmd 0)
    else if co.swap.isSome || co.spill.isSome then .next (s.answerIf cmd 2)
    else
      let s := s.setCore k { co with swap := some ⟨some a.ctx, cmd⟩, shadow := some a.ctx }
      let bytes := preloadBytes ((s.savedEligible a.ctx k).map fun g => (s.alloc g, 64 * g.blocks)) (List.replicate 4 (16, 1024))
      .next (s.inClocks k (ceilDiv bytes 256) .preloadDone { EvArg.none with core := k })

/-- CTX_SWITCH_OUT (R356, R357): steps 2 to 5 with no incoming context. -/
def execCtxSwitchOut (s : State) : Host.Outcome State Fault Refusal :=
  let a := s.arg
  let k := a.core
  let co := s.core k
  let cmd := !a.flag
  if co.active.isNone || (a.flag && co.active != some a.ctx) then .next (s.answerIf cmd 2)
  else if co.swap.isSome || co.spill.isSome then
    (if cmd then .next (s.answer 2) else .next (s.schedule (s.now + 1) .ctxSwitchOut a))
  else
    .next ((s.setCore k { co with swap := some ⟨none, cmd⟩ }).schedule s.now .preloadDone { EvArg.none with core := k })

/-- The channels that a save on a core reaches go on only with the rows in progress (R229). -/
def State.haltCopies (s : State) (k : CoreId) : State := (s.savedCmds k).foldl (fun s x => s.haltCmd x.1 x.2) s

/-- PRELOAD_DONE (R357 step 2): every quarter stops at its next boundary, and the banks exchange 64 clocks later; each
channel goes on only with the row in progress (R229). -/
def execPreloadDone (s : State) : Host.Outcome State Fault Refusal :=
  let k := s.arg.core
  let co := s.core k
  if co.swap.isNone || co.stopped then .next s
  else
    let s := (s.setCore k { co with stopped := true }).haltCopies k
    .next (s.inClocks k 64 .contextBankExchange { EvArg.none with core := k })

/-! ## The lapidary (R248) -/

/-- The step of a group in which its `e`-th slot lies, counted from step `lo`; nothing where it has run none. -/
def TermOp.stepAt (b : TermOp) (g lo hi e : Nat) : Option Nat :=
  let rec go (cs : List Nat) (i left : Nat) (last : Option Nat) : Option Nat :=
    match cs with
    | [] => last
    | c :: cs => if left = 0 then last else go cs (i + 1) (left - c) (if c = 0 then last else some i)
  go (b.costs g lo hi) lo e none

/-- Block B of R248: the highest k-block in which some group has run a slot after `e` clocks, else block r/32. -/
def TermOp.blockAt (b : TermOp) (r hi e : Nat) : Nat :=
  let per := b.steps 32
  (List.range 16).foldl (fun n g => match b.stepAt g (b.steps r) (b.steps hi) e with
    | some i => max n (i / per)
    | none => n) (r / 32)

/-- The clocks in which an operation has run by clock `clk`: not those of a throttle (R247). -/
def Lapidary.ran (x : Lapidary) (o : LapOp) (clk : Nat) : Nat := clk + (x.gateTill - clk) - o.begin - o.lost

/-- The running `mma` of a core, with its block B. -/
def State.runningMma (s : State) (k : CoreId) : Option (LapOp × Nat) :=
  let x := s.lap k
  match x.ops, x.term with
  | o :: _, some t => (match o.kind with
    | .mma _ _ hi r _ =>
      if o.started then some (o, match x.stop with | some b => b.1 | none => t.blockAt r hi (x.ran o (s.clock k))) else none
    | _ => none)
  | _, _ => none

/-- Whether the lapidary has still to come to a stop: it runs a staging, a drain, a clear or an `mma` in its last block, which
completes first, or the blocks of an `mma` up to block B (R248). -/
def State.lapBusy (s : State) (k : CoreId) : Bool :=
  match (s.lap k).ops, (s.lap k).stop with
  | o :: _, some b => o.started && s.clock k < b.2
  | o :: _, none => o.started
  | [], _ => false

/-- Breaks a request to the open tick of R221, which no clock counts. -/
def State.breakOpen (s : State) (id : Nat) (cause : BreakCause) : State :=
  match s.req? id with
  | some r =>
    if r.held.isSome then s
    else
      let r' := { r with prom := openTick s.now, arrive := openTick s.now, clk := 0 }
      (s.putReq r').breakEffects r' cause (if r.level = 8 then 8 else 9) r.prom
  | none => s

/-- A saved operation that has not begun (R248). -/
def LapOp.idle (o : LapOp) : LapOp := { o with begin := 0, finish := 0, started := false, got := [], lost := 0 }

/-- Keeps the operations behind the running one from starting: they will be saved unstarted, and their promises break (R248). -/
def State.freezeLapidary (s : State) (k : CoreId) (cause : BreakCause) : State :=
  let waits := fun (o : LapOp) => !o.started && o.finish != 0
  let ids := ((s.lap k).ops.filter waits).map fun (o : LapOp) => o.req
  let s := s.setLap k { s.lap k with ops := (s.lap k).ops.map fun o => if waits o then o.idle else o }
  ids.foldl (fun s id => s.breakOpen id cause) s

/-- A save or a migration reaches the lapidary (R248 step 1): block B of a running `mma` is chosen, unless it is the last one; the
groups run on to its end, and the write of the resume k takes the lane port's next pass (step 2). Nothing behind it starts. -/
def State.haltLapidary (s : State) (k : CoreId) (cause : BreakCause) : State :=
  let s := match s.runningMma k, (s.lap k).term with
    | some (o, b), some t => (match o.kind with
      | .mma _ _ hi r _ =>
        if hi ≤ 32 * (b + 1) || (s.lap k).stop.isSome then s
        else
          let done := o.begin + o.lost + t.longest (t.steps r) (t.steps (32 * (b + 1)))
          let (s, f) := s.takeLane k (max (s.clock k) done) 0 1
          let cut := fun (x : LapOp) => if x.id = o.id then { x with finish := 0 } else x
          s.setLap k { s.lap k with stop := some (b, f), ops := (s.lap k).ops.map cut }
      | _ => s)
    | _, _ => s
  s.freezeLapidary k cause

/-- Stops the lapidary (R248): the running `mma` adds its blocks up to B, its resume k is written, and the requests of the
accepted operations break. -/
def State.stopLapidary (s : State) (k : CoreId) (cause : BreakCause) : State :=
  let ids := ((s.lap k).ops.filter fun (o : LapOp) => o.started || o.finish != 0).map fun (o : LapOp) => o.req
  let s := match s.runningMma k with
    | some (o, b) => (match o.kind with
      | .mma m n hi r acc =>
        let r' := 32 * (b + 1)
        let lap := (s.lap k).runMma m n r r' acc o.waits
        let cut := fun (x : LapOp) => if x.id = o.id then { x with kind := .mma m n hi r' true, waits := 0 } else x
        let s := s.setLap k { lap with ops := lap.ops.map cut }
        (match s.crew? (crewKeyOf o.gang) with
         | some c =>
           let d := memDWord (s.core c.core).spad (c.partBase + o.arg + 8)
           s.setCore c.core { s.core c.core with spad := memSetDWord (s.core c.core).spad (c.partBase + o.arg + 8) (setBits d 15 0 r') }
         | none => s)
      | _ => s)
    | none => s
  let s := s.setLap k { s.lap k with ops := (s.lap k).ops.map LapOp.idle, stop := none }
  ids.foldl (fun s id => s.breakOpen id cause) s

/-! ## The exchange (R357 steps 2 to 4) -/

/-- Whether no gang of the core's active context is between two boundaries any more (R357 step 2). -/
def State.gangsStopped (s : State) (k : CoreId) : Bool :=
  !(s.gangs.any fun g => g.core = k && some g.ctx = (s.core k).active && (match g.place with
    | .leaving .. | .entering .. | .moving => true
    | .slot .. => g.clause.isSome || g.probing.isSome || g.wait
    | _ => g.probing.isSome))

/-- Whether nothing of the core is between two boundaries any more: its gangs, its deposits and relaunches, its plane moves,
the rows in progress, the operation that completes first (R148, R194, R229, R248, R363). -/
def State.quiet (s : State) (k : CoreId) : Bool :=
  let co := s.core k
  s.gangsStopped k &&
  !(s.crews.any fun c => match c.mig with | some m => m.stage = .moving && (c.core = k || m.target = k) | none => false) &&
  !(s.agenda.any fun d => d.task = .ev .plpackLastWrite && d.arg.core = k) &&
  !(s.reqs.any fun r => r.core = k && r.held.isNone && (match r.effect with | .l1cfg _ => true | _ => r.home = .core && r.access)) &&
  !((s.savedCmds k).any fun x => s.rowBusy x.2) &&
  !s.lapBusy k

/-- A resident gang as its context is saved: a pre-empted record (R115, R357 step 3), its fixed-latency results complete
(R26). A halted one keeps its kind. -/
def Gang.preempted (g : Gang) (seq : Word) : Gang :=
  { g with place := .saved 0, pend := [], fair := 0, rotPend := false, round := none, wait := false
           hd := { g.hd with kind := 3, wake := 8, wtick := 0, tmask := 0, object := 0, arg := 0, bound := false, floor := false
                             seq := seq, rot := g.front.length ≥ 2, key := none
                             lastq := match g.slot? with | some (q, _) => BitVec.ofNat 8 q.val | none => g.hd.lastq } }

/-- Stops a command on a channel (R229): it keeps its remaining rows, and its requests break with cause 6. A channel of another core whose
destination is saved (`mine` false) holds it. -/
def State.stopCmd (s : State) (k : CoreId) (x : CopyCmd) (mine : Bool) : State :=
  let (s, rows) := s.unbookRows k x x.rows
  let x := { x with rows := rows, holding := false, halt := true }
  let s := s.putCmd k (if mine then { x with chan := none, resume := true } else x)
  x.parts.foldl (fun s p => s.breakOpen p.req .engine) s

/-- The active context of a core is saved (R357 steps 3 and 4, R69, R214, R229): its per-context state goes aside, and the
spill begins. -/
def State.saveContext (s : State) (k : CoreId) (x : CtxId) (cmd : Bool) : State :=
  let onCore := fun (key : CrewKey) => s.crews.any fun c => c.key = key && c.core = k && c.resident && c.ctx = x
  -- copies
  let s := (s.savedCmds k).foldl (fun s c => s.stopCmd c.1 c.2 (c.1 = k)) s
  let s := s.stopLapidary k .engine
  -- monitors
  let s := s.hitMonitors fun j _ => j = k
  -- gangs
  let mine := sortBy (fun (a b : Gang) => a.pos < b.pos) (s.gangs.filter fun g => g.core = k && g.ctx = x && g.resident)
  let s := mine.foldl (fun s g =>
    let co := s.core k
    (s.setCore k { co with seq := co.seq + 1 }).putGang (g.preempted co.seq)) s
  let s := s.mapGangs fun g => if g.core = k && g.ctx = x && g.place = .store then { g with place := .saved 0 } else g
  let s := s.setReqs (s.reqs.map fun r =>
    if r.core = k && r.ctx = x && r.held.isSome && onCore (crewKeyOf r.owner) then { r with withdrawn := true } else r)
  let s := s.setCrews (s.crews.map fun c =>
    if c.core = k && c.ctx = x && c.resident then { c with resident := false, held := c.partLen != 0 } else c)
  -- per-context state
  let co := s.core k
  let s := s.unschedule fun d => d.task = .ev .lapidaryRestore && d.arg.core = k
  let cc := { co.cc with lap := { co.cc.lap with loading := false, gateTill := 0 } }
  let s := s.setSaved ((x, k, cc) :: s.saved.filter fun y => !(y.1 = x && y.2.1 = k))
  let bytes := (s.gangs.filter fun g => g.core = k && g.ctx = x && g.place = .saved 0).foldl (fun n g => n + 64 * g.blocks) 0
  let t := s.afterClocks k (ceilDiv bytes 256)
  let kept := if co.cc.lap.blank then co.lapHeld else some x
  let s := s.setCore k { co with active := none, cc := CoreCtx.reset, draining := [], spill := some ⟨x, t, cmd⟩, lapHeld := kept }
  let s := if (List.finRange 256).any fun j => (s.core j).active = some x then s else s.setCtxState x 3
  let limit := match s.ctx? x with | some c => c.spillLimit | none => 2 ^ 30
  (s.schedule t .spillDone { EvArg.none with core := k }).schedule (t + limit) .spillWatchdogExpiry { EvArg.none with core := k }

/-- The first records of a context that has just come to a core take their gang slots from the shadow bank (R357). -/
def State.enterPreloaded (s : State) (k : CoreId) : Nat → State
  | 0 => s
  | fuel + 1 =>
    match s.firstEligible k with
    | none => s
    | some g =>
      match s.chooseSlot k (s.alloc g) with
      | none => s
      | some (q, n) =>
        if g.place != .store || g.hd.bad then s
        else ((s.count k 4 1 (some q) (some g.key.launch)).enterSlot { g with place := .entering q n none } q n).enterPreloaded k fuel

/-- Makes a context active on a core (R357, R359): its state comes back, its crews are restored, its instruction cache (R22)
and its translations are read anew. -/
def State.installContext (s : State) (k : CoreId) (y : CtxId) : State :=
  let cc := match s.saved.find? fun z => z.1 = y && z.2.1 = k with | some z => z.2.2 | none => CoreCtx.reset
  let s := s.setSaved (s.saved.filter fun z => !(z.1 = y && z.2.1 = k))
  let co := s.core k
  let s := s.setCore k { co with active := some y, shadow := none, swap := none, stopped := false, cc := cc, icache := []
                                 tlb := co.tlb.filter fun e => e.ctx != y, recs := co.recs.filter fun e => e.ctx != y
                                 hangMark := s.now }
  let h := s.hier
  let s := s.setHier { h with spanTlb := h.spanTlb.set (spanOf k) ((h.spanTlb[spanOf k]).filter fun e => e.ctx != y) }
  let s := (s.setCtxState y 2).restoreCrews
  let s := (s.enterPreloaded k 64).startReload k y
  let s := s.inClocks k 1 .channelTakeCommand { EvArg.none with core := k }
  let limit := match s.ctx? y with | some c => c.hangLimit | none => 0
  let s := if limit = 0 then s else s.schedule (s.now + limit) .hangWatchdogExpiry { EvArg.none with core := k, ctx := y }
  s.offer k

/-- Issues again the held requests of a core whose resolution was kept for a save that has not come in its tick (R70). -/
def State.issueResolved (s : State) (k : CoreId) : State :=
  (s.reqs.filter fun r => r.core = k && !r.withdrawn && (match r.held, s.ctx? r.ctx with
    | some h, some c => c.resolved.contains h | _, _ => false)).foldl (fun s r => s.reissueAt r.id k) s

/-- CONTEXT_BANK_EXCHANGE (R357): once nothing is between two boundaries, the banks and the per-context state exchange. Where
only the engines are still to stop, the lapidary starts no further operation, and a running `mma` stops at a block (R248). -/
def execContextBankExchange (s : State) : Host.Outcome State Fault Refusal :=
  let k := s.arg.core
  match (s.core k).swap with
  | none => .next s
  | some w =>
    let s := (if s.gangsStopped k then s.haltLapidary k .engine else s).haltCopies k
    let co := s.core k
    if !s.quiet k then
      .next ((s.issueResolved k).inClocks k 1 .contextBankExchange s.arg)
    else
      let s := match co.active with
        | some x => s.saveContext k x (w.cmd && w.incoming.isNone)
        | none => s
      match w.incoming with
      | some y => .next ((s.installContext k y).answerIf w.cmd 0)
      | none => .next (s.setCore k { s.core k with swap := none, stopped := false })

/-! ## The save area (R358) -/

/-- The code of an operation in the operation table (R358). -/
def LapKind.code : LapKind → Nat
  | .mldA .. => 0 | .mldB .. => 1 | .mma .. => 2 | .mdrain .. => 3 | .mzero => 4

/-- An entry of the operation table (R358). -/
def opImage (o : LapOp) (t : Nat) : List DWord :=
  let sm := match o.kind with | .mldB _ _ true => 1 | _ => 0
  [BitVec.ofNat 64 (o.kind.code * 2 ^ 56 + sm * 2 ^ 55 + o.slotNo.val * 2 ^ 52 + t * 2 ^ 48 + o.gang.gang.val * 2 ^ 40 +
      o.gang.crew.toNat * 2 ^ 24 + o.gang.launch.toNat), BitVec.ofNat 64 o.arg] ++ o.walk.toList

/-- Writes the save header and the operation table (R358). -/
def State.writeSaveHeader (s : State) (base : Nat) (cc : CoreCtx) (records bytes : Nat) (lap scr : Bool) : State :=
  let ops := cc.lap.ops
  let flags := cc.conv * 256 + (if ops.isEmpty then 0 else 4) + (if lap then 2 else 0) + (if scr then 1 else 0)
  let s := s.setMem (memDWords s.mem base [BitVec.ofNat 64 (records * 2 ^ 32 + bytes), BitVec.ofNat 64 flags, BitVec.ofNat 64 ops.length])
  let table := ops.flatMap fun o => opImage o (match s.req? o.req with | some r => r.treg.val | none => 0)
  s.setMem (memDWords s.mem (base + 0x400) table)

/-- Whether a delivery to a gang that is being saved is still to come (R357 step 3). -/
def State.awaited (s : State) (k : GangKey) : Bool :=
  s.reqs.any fun r => r.of k && !r.withdrawn && (match r.effect with
    | .copy _ | .engine _ => false
    | .queue (.pop _) _ => !r.site
    | _ => true)

/-- Discards a killed context (R356 command 3): its records, commands and operations are gone, its state is 4. -/
def State.discardContext (s : State) (x : CtxId) : State :=
  let crews := s.crews.filter fun c => c.ctx = x
  let s := s.setReqs (s.reqs.filter fun r => r.ctx != x || r.home != .core && r.writes && !r.perfDone)
  let s := s.setReqs (s.reqs.map fun r => if r.ctx = x then { r with tracked := false } else r)
  let s := s.setGangs (s.gangs.filter fun g => g.ctx != x)
  let s := s.setCrews (s.crews.filter fun c => c.ctx != x)
  let s := s.setSaved (s.saved.filter fun y => y.1 != x)
  let s := s.setSlices (s.slices.filter fun l => l.ctx != x)
  let s := s.setCores (s.cores.map fun co => if co.lapHeld = some x then { co with lapHeld := none } else co)
  let s := crews.foldl (fun s c => if c.held then s.zeroRun c.core c.partBase (runBytes c.partLen) else s) s
  let s := s.setCtxState x 4
  (match s.ctx? x with | some c => s.putCtx { c with killing := false } | none => s).schedule s.now .dispatchTake EvArg.none

/-- Whether a context is active, coming in or being spilled anywhere. -/
def State.ctxAnywhere (s : State) (x : CtxId) : Bool :=
  s.cores.toList.any fun co => co.active = some x || co.shadow = some x || (match co.spill with | some p => p.ctx = x | none => false)

/-- A context that is being killed is discarded once it is saved everywhere; the command has then completed (R356). -/
def State.finishKill (s : State) (x : CtxId) : State :=
  match s.ctx? x with
  | some c =>
    let asked := bits s.sys.ctxCmd 63 63 = 1 && bits s.sys.ctxCmd 7 0 = 3 && bits s.sys.ctxArg0 63 52 = x.toNat
    if c.killing && !s.ctxAnywhere x then (s.discardContext x).answerIf asked 0 else s
  | none => s

/-- SPILL_DONE (R357 step 3, R358): once every delivery has landed, the records stand in the save area in wake order behind
the header, and the spill is complete. -/
def execSpillDone (s : State) : Host.Outcome State Fault Refusal :=
  let k := s.arg.core
  let co := s.core k
  match co.spill with
  | none => .next s
  | some p =>
    let mine := s.gangs.filter fun g => g.core = k && g.ctx = p.ctx && g.place = .saved 0
    if s.now < p.last then .next s
    else if mine.any fun g => s.awaited g.key then .next (s.schedule (s.now + 1) .spillDone s.arg)
    else
      let base := (match s.ctx? p.ctx with | some c => c.saveBase | none => 0) + k.val * 2 ^ 22
      let order := sortBy (fun (a b : Gang) => wakesBefore a b || (a.hd.key.isNone && b.hd.key.isNone && seqAfter b.hd.seq a.hd.seq)) mine
      let (s, bytes) := order.foldl (fun (x : State × Nat) g =>
        let (s, n) := x
        let at_ := base + 0x240000 + n
        ((s.setMem (memDWords s.mem at_ g.image)).putGang { g with place := .saved at_ }, n + 64 * g.blocks)) (s, 0)
      let cc := match s.saved.find? fun y => y.1 = p.ctx && y.2.1 = k with | some y => y.2.2 | none => CoreCtx.reset
      let s := s.writeSaveHeader base cc order.length bytes (!cc.lap.blank && co.lapHeld != some p.ctx) false
      let s := s.setCore k { s.core k with spill := none }
      .next (((s.answerIf p.cmd 0).finishKill p.ctx).offer k)

/-! ## Scratchpad (R357 step 5) -/

/-- SCRATCHPAD_SPILL (R357 step 5, R358): the partitions of saved crews that stand in the way of a run of `n` bytes go to the
image in their save area, and their runs are freed. -/
def execScratchpadSpill (s : State) : Host.Outcome State Fault Refusal :=
  let k := s.arg.core
  if (s.freeRun k s.arg.n).isSome then .next s
  else
    let held := s.crews.filter fun c => c.core = k && c.held
    .next (held.foldl (fun s c =>
      if (s.freeRun k s.arg.n).isSome then s
      else
        let base := (match s.ctx? c.ctx with | some x => x.saveBase | none => 0) + k.val * 2 ^ 22
        let n := runBytes c.partLen
        let to_ := base + 0x100000 + c.partBase
        let s := s.setMem (memPut (memZero s.mem to_ n) (memSlice (s.core k).spad c.partBase n to_))
        let s := s.setMem (memSetDWord s.mem (base + 8) (memDWord s.mem (base + 8) ||| 1))
        (s.putCrew { c with held := false }).zeroRun k c.partBase n) s)

/-! ## Watchdogs (R360) -/

/-- HANG_WATCHDOG_EXPIRY (R360): a context that has made no progress for its limit is reported and switched out. -/
def execHangWatchdogExpiry (s : State) : Host.Outcome State Fault Refusal :=
  let k := s.arg.core
  let co := s.core k
  if co.active != some s.arg.ctx then .next s
  else match s.ctx? s.arg.ctx with
  | none => .next s
  | some c =>
    if c.hangLimit = 0 then .next s
    else
      let some_ := s.gangs.any fun g => g.core = k && g.ctx = c.id && (match g.place with | .saved _ => false | _ => true)
      let mark := if some_ then co.hangMark else s.now
      if s.now < mark + c.hangLimit then
        .next ((s.setCore k { co with hangMark := mark }).schedule (mark + c.hangLimit) .hangWatchdogExpiry s.arg)
      else
        .next ((s.event c.id 6 0 k 0 0 0 0).schedule s.now .ctxSwitchOut { EvArg.none with core := k, ctx := c.id, flag := true })

/-- A core whose SRAMs, L1, lapidary and registers are wiped (R360), with its first clock after that (R97). -/
def Core.wiped (co : Core) (clk : Nat) : Core :=
  { Core.reset with seq := co.seq, limit := co.limit, temp := co.temp, armed := co.armed, gated := co.gated, since := clk }

/-- Kills a context (R356 command 3): it is switched out wherever it is active, and discarded when it is saved everywhere. -/
def State.killContext (s : State) (x : CtxId) : State :=
  let s := match s.ctx? x with | some c => s.putCtx { c with killing := true } | none => s
  (List.finRange 256).foldl (fun s j =>
    if (s.core j).active = some x then s.schedule s.now .ctxSwitchOut { EvArg.none with core := j, ctx := x, flag := true } else s) s

/-- SPILL_WATCHDOG_EXPIRY (R360): a spill without progress for its limit loses the context, and the core is reset; its active
context, whose state there is gone as well, is lost with it. -/
def execSpillWatchdogExpiry (s : State) : Host.Outcome State Fault Refusal :=
  let k := s.arg.core
  let co := s.core k
  match co.spill with
  | none => .next s
  | some p =>
    let limit := match s.ctx? p.ctx with | some c => c.spillLimit | none => 2 ^ 30
    if s.now < p.last + limit then .next (s.schedule (p.last + limit) .spillWatchdogExpiry s.arg)
    else
      let lost := p.ctx :: co.active.toList
      let gone := fun (key : CrewKey) => s.crews.any fun c => c.key = key && c.core = k && lost.contains c.ctx
      let s := s.setReqs (s.reqs.filter fun r => !(r.core = k && gone (crewKeyOf r.owner)))
      let s := s.setGangs (s.gangs.filter fun g => !(g.core = k && lost.contains g.ctx))
      let s := s.setCrews (s.crews.filter fun c => !(c.core = k && lost.contains c.ctx))
      let s := s.setSaved (s.saved.filter fun y => !(y.2.1 = k && lost.contains y.1))
      let s := s.setCore k (co.wiped (s.clock k + 1))
      let s := lost.foldl (fun s x => (s.event x 5 0 k 0 0 0 0).killContext x) s
      .next ((lost.foldl (fun s x => s.finishKill x) (s.answerIf p.cmd 2)).offer k)

end Sys2Proof.Machine
end

