-- ==== Sys2Proof/Machine/Contexts.lean ====
section
/-!
DEFINITION. The steward's commands on contexts, crews, gangs, budgets and buffer records (R356), thermal migration (R362) and
the migration of a crew (R361, R409, R410).
-/
namespace Sys2Proof.Machine

/-! ## Killing (R356 commands 3 and 4) -/

/-- CTX_KILL (R356 command 3). -/
def execCtxKill (s : State) : Host.Outcome State Fault Refusal :=
  match s.ctx? s.arg.ctx with
  | none => .next (s.answer 1)
  | some c =>
    if c.state = 0 || c.state = 4 || c.killing then .next (s.answer 2)
    else .next ((s.killContext c.id).finishKill c.id)

/-- Discards the records of a crew with what they wait for; its resident gangs go at their next boundary. -/
def State.dropRecords (s : State) (k : CrewKey) : State :=
  (s.gangs.filter fun g => g.crewKey = k && g.parked && (match g.place with | .leaving .. => false | _ => true)).foldl (fun s g =>
    let s := s.setReqs ((s.reqs.filter fun r => !(r.of g.key && r.held.isSome && (match r.effect with | .copy _ | .engine _ => false | _ => true))).map fun r =>
      if r.of g.key then { r with tracked := false } else r)
    s.gangExit g) s

/-- CTX_KILL_CREW (R356 command 4). -/
def execCtxKillCrew (s : State) : Host.Outcome State Fault Refusal :=
  let k := crewKeyOf s.arg.key
  match s.crew? k with
  | none => .next (s.answer 1)
  | some c =>
    if c.ctx != s.arg.ctx then .next (s.answer 1)
    else
      let s := s.putCrew { c with killed := true, regs := [] }
      .next ((((s.dropRecords k).cancelCopies c).checkRetire k).answer 0)

/-! ## Resuming a halted gang (R356 command 5) -/

/-- A halted record rewritten as a deposited one. -/
def Gang.resumed (g : Gang) : Gang :=
  { g with trap := none, hmask := 0, hd := { g.hd with kind := 1, wake := 8, tmask := 0, object := 0, arg := 0, bound := false
                                                       floor := false, key := none, bad := false } }

/-- CTX_RESUME_GANG (R356 command 5). -/
def execCtxResumeGang (s : State) : Host.Outcome State Fault Refusal :=
  match s.gang? s.arg.key with
  | none => .next (s.answer 1)
  | some g =>
    let regs := match s.slice? g.key.launch with | some l => l.regs | none => 12
    let g := match g.place with | .saved a => if a = 0 then g else g.ofImage s.mem a regs | _ => g
    if g.ctx != s.arg.ctx then .next (s.answer 1)
    else if g.hd.kind != (4 : Byte) || g.hd.bad || !g.parked then .next (s.answer 2)
    else
      let g := g.resumed
      .next ((((s.putGang g).syncRing g).checkWake g.key).answer 0)

/-! ## Budgets (R346, R356 command 7) -/

/-- CTX_RAISE_BUDGET (R356 command 7): a slice that is no longer exhausted has no trap 0x0B pending any more. -/
def execCtxRaiseBudget (s : State) : Host.Outcome State Fault Refusal :=
  match s.slice? s.arg.launch with
  | none => .next (s.answer 1)
  | some l =>
    let b : DWord := BitVec.ofNat 64 (min (l.budget.toNat + s.arg.v.toNat) (2 ^ 64 - 1))
    let spent := l.limited && b.toNat ≤ l.count
    let s := s.putSlice { l with budget := if l.limited then b else l.budget, spent := spent }
    let s := if l.spent && !spent then s.mapGangs fun g => if g.key.launch = l.id then { g with budgeted := false } else g else s
    .next (s.answer 0)

/-! ## Revocation (R274, R356 command 8) -/

/-- Whether some request of a context is booked or held on a handle. -/
def State.onHandle (s : State) (c : CtxId) (h : Nat) : Bool :=
  s.reqs.any fun r => r.ctx = c && ((r.handle = h && r.device && !r.queue) ||
    (match r.effect with
     | .copy _ => s.cores.toList.any fun co => co.cc.cmds.any fun x => x.parts.any fun p =>
        p.req = r.id && ((p.skind = 0 && p.sh = h) || (x.dkind = 0 && p.dh = h))
     | _ => false))

/-- CTX_REVOKE_RECORD (R356 command 8): it takes effect at the end of its tick, so that every probe from the next tick fails;
the command is done when nothing is left on the handle. `flag` marks the second half. -/
def execCtxRevokeRecord (s : State) : Host.Outcome State Fault Refusal :=
  let a := s.arg
  match s.ctx? a.ctx with
  | none => .next (s.answer 1)
  | some c =>
    if !a.flag then .next (s.scheduleTask ⟨s.now, 4, .ev .ctxRevokeRecord, { a with flag := true }⟩)
    else
      let s := if c.revoked.contains a.n then s else s.putCtx { c with revoked := a.n :: c.revoked }
      .next (s.schedule (s.now + 1) .revokeDone a)

/-- REVOKE_DONE (R356 command 8): every request on the handle has left its set. -/
def execRevokeDone (s : State) : Host.Outcome State Fault Refusal :=
  if s.onHandle s.arg.ctx s.arg.n then .next (s.schedule (s.now + 1) .revokeDone s.arg) else .next (s.answer 0)

/-- Forgets a context's translations and cached records, so that later probes read them as they stand (R279, R356). -/
def State.forgetCtx (s : State) (x : CtxId) : State :=
  let s := s.setCores (s.cores.map fun co =>
    { co with tlb := co.tlb.filter fun e => e.ctx != x, recs := co.recs.filter fun e => e.ctx != x })
  s.setHier { s.hier with spanTlb := s.hier.spanTlb.map fun t => t.filter fun e => e.ctx != x }

/-- CTX_REINSTATE_RECORD (R356 command 8): the revocation ends with its tick. -/
def execCtxReinstateRecord (s : State) : Host.Outcome State Fault Refusal :=
  let a := s.arg
  match s.ctx? a.ctx with
  | none => .next (s.answer 1)
  | some c =>
    if !a.flag then .next (s.scheduleTask ⟨s.now, 4, .ev .ctxReinstateRecord, { a with flag := true }⟩)
    else .next (((s.putCtx { c with revoked := c.revoked.filter fun h => h != a.n }).forgetCtx c.id).answer 0)

/-! ## Asking for a migration (R356 command 6, R361, R362) -/

/-- Requests a migration of a crew to a core: it stops once the target is fit (R361 step 1), and is refused after 2^20 ticks. -/
def State.askMigration (s : State) (c : Crew) (target : CoreId) : State :=
  let sq := s.own.migSeq
  let s := (s.setOwn { s.own with migSeq := sq + 1 }).putCrew { c with mig := some ⟨target, sq, .asked, s.now⟩ }
  s.schedule (s.now + 2 ^ 20) .migrationRefused { EvArg.none with key := ⟨c.key.launch, c.key.crew, 0⟩, ticket := sq }

/-- CTX_MIGRATE_CREW (R356 command 6, R361). A crew that is already to migrate, or is saved, is refused (R363). -/
def execCtxMigrateCrew (s : State) : Host.Outcome State Fault Refusal :=
  let a := s.arg
  match s.crew? (crewKeyOf a.key) with
  | none => .next (s.answer 1)
  | some c =>
    if c.ctx != a.ctx || a.core = c.core then .next (s.answer 1)
    else if c.mig.isSome || !c.resident || c.killed then .next (s.answer 2)
    else .next (((s.askMigration c a.core).tryMigrations).answer 0)

/-- MIGRATION_REFUSED (R361 step 1): the target has stayed unfit for 2^20 ticks. -/
def execMigrationRefused (s : State) : Host.Outcome State Fault Refusal :=
  match s.crew? (crewKeyOf s.arg.key) with
  | none => .next s
  | some c => match c.mig with
    | none => .next s
    | some m =>
      if m.seq != s.arg.ticket || m.stage != .asked then .next s
      else .next ((s.putCrew { c with mig := none }).event c.ctx 8 0 c.core 0 m.seq.toNat c.key.crew.toNat m.target.val)

/-- How near a core is to another: the same stack group, the same die, elsewhere (R362). -/
def nearness (a b : CoreId) : Nat := if stackOf a = stackOf b then 0 else if dieOf a = dieOf b then 1 else 2

/-- The target that the hub picks for a crew (R362): the nearest class first, the coolest of it, the lowest number on a tie. -/
def State.thermalTarget (s : State) (c : Crew) : Option CoreId :=
  let before := fun (a b : CoreId) =>
    let x := nearness c.core a
    let y := nearness c.core b
    x < y || (x = y && (s.core a).temp < (s.core b).temp)
  let others := (List.finRange 256).filter fun k => k != c.core
  match firstBy before (others.filter fun k => s.fitTarget c k) with
  | some k => some k
  | none => firstBy before (others.filter fun k => (s.core k).active = some c.ctx)

/-- Sets the readings of the cores' sensors. -/
def State.setTemps (s : State) (ps : List (Nat × Nat)) : State :=
  ps.foldl (fun s p => s.setCore (coreNo p.1) { s.core (coreNo p.1) with temp := BitVec.ofNat 8 p.2 }) s

/-- THERMAL_THRESHOLD_CROSSING (R362): the sensor of a core reads `n`, at or above THERM, for the first time since it read
below. `pairs` are readings of other cores. -/
def execThermalThresholdCrossing (s : State) : Host.Outcome State Fault Refusal :=
  let a := s.arg
  let s := (s.setTemps a.pairs).setTemps [(a.core.val, a.n)]
  let co := s.core a.core
  if !co.armed || a.n < co.limit.toNat then .next s
  else
    let s := s.setCore a.core { co with armed := false }
    match co.active.bind s.ctx? with
    | none => .next s
    | some c =>
      if c.noMig then .next s
      else
        let crews := sortBy (fun (x y : Crew) => x.index < y.index) ((s.crewsOn a.core).filter fun x => x.mig.isNone && !x.killed)
        .next (crews.foldl (fun t x => match s.thermalTarget x with
          | some k => t.askMigration x k
          | none => t) s).tryMigrations

/-- SENSOR_READS_BELOW_THERM (R362): the monitor is armed again. -/
def execSensorReadsBelowTherm (s : State) : Host.Outcome State Fault Refusal :=
  let a := s.arg
  let s := s.setTemps [(a.core.val, a.n)]
  let co := s.core a.core
  if a.n < co.limit.toNat then .next (s.setCore a.core { co with armed := true }) else .next s

/-! ## The move (R361 steps 3 to 6, R409, R410) -/

/-- Displaces the rows of a command to a moving crew (R410): its requests break with cause 8 and are held with class 5. -/
def State.displace (s : State) (j : CoreId) (x : CopyCmd) (sq : Word) : State :=
  let (s, rows) := s.unbookRows j x x.rows
  let x := { x with rows := rows, holding := false }
  let s := s.putCmd j x
  let s := x.parts.foldl (fun s p => s.breakOpen p.req .migration) s
  s.holdCmd x .migration sq

/-- Whether every gang of a crew has left its gang slot (R361 step 2). -/
def State.crewStopped (s : State) (c : Crew) : Bool := !(s.gangs.any fun g => g.crewKey = c.key && g.slot?.isSome)

/-- Whether a crew that has stopped may move: no value of an atomic or a pop is still to land, no pass of a `bar.wait` is in flight (R215),
no plane move has its last write
to come (R192), the lapidary runs nothing that must complete first, and its target is fit (R361 steps 1 and 3, R248). -/
def State.mayMove (s : State) (c : Crew) (target : CoreId) : Bool :=
  s.crewStopped c &&
  !(s.reqs.any fun r => crewKeyOf r.owner = c.key && r.held.isNone && (match r.effect with
    | .atomic _ (some _) _ => true
    | .queue (.pop _) _ => !r.site
    | _ => r.home = .core && r.access)) &&
  !(s.gangs.any fun g => g.crewKey = c.key && g.probing.isSome) &&
  !(s.agenda.any fun d => d.task = .ev .plpackLastWrite && crewKeyOf d.arg.key = c.key) &&
  (if (s.lap c.core).last = some c.key then !s.lapBusy c.core && (s.lap target).ops.isEmpty
   else !((s.lap c.core).ops.any fun o => crewKeyOf o.gang = c.key)) &&
  s.fitTarget c target

/-- MIGRATION_MOVE_BEGIN (R361, R409, R410): the crew's records, partition and objects start to move, 256 bytes per clock. -/
def execMigrationMoveBegin (s : State) : Host.Outcome State Fault Refusal :=
  match s.crew? (crewKeyOf s.arg.key) with
  | none => .next s
  | some c => match c.mig with
    | none => .next s
    | some m =>
      if m.stage != .stopping || !c.resident then .next s
      else
      let s := if (s.lap c.core).last = some c.key && s.crewStopped c then s.haltLapidary c.core .migration else s
      if !s.mayMove c m.target then .next (s.inClocks c.core 1 .migrationMoveBegin s.arg)
      else
        let n := runBytes c.partLen
        let base := (s.freeRun m.target c.partLen).getD 0
        let mine := s.gangs.filter fun g => g.crewKey = c.key
        let s := s.putCrew { c with mig := some { m with stage := .moving } }
        let s := mine.foldl (fun s g => s.holdForMigration g.key m.seq) s
        let s := (List.finRange 256).foldl (fun s j =>
          ((s.running j).filter fun x => x.dkind != 0 && x.dcrew = c.key.crew && x.crew.launch = c.key.launch).foldl
            (fun s x => s.displace j x m.seq) s) s
        let s := if (s.lap c.core).last = some c.key then s.stopLapidary c.core .migration else s
        let s := s.hitMonitors fun k w => k = c.core && crewKeyOf w.gang = c.key
        let s := s.mapGangs fun g => if g.crewKey = c.key then { g with place := .moving } else g
        let t := s.core m.target
        let s := if n = 0 then s else s.setCore m.target { t with zeroing := (base, n) :: t.zeroing }
        let bytes := mine.foldl (fun x g => x + 64 * g.blocks) 0
        .next (s.inClocks c.core (ceilDiv bytes 256 + ceilDiv c.partLen 256 + 1) .migrationRemap
          { s.arg with n := base, m := n, core := m.target })

/-- Brings a moved crew's requests and commands to life on its target (R68, R410). -/
def State.resumeMoved (s : State) (c : Crew) (sq : Word) : State :=
  let s := (List.finRange 256).foldl (fun s j =>
    ((s.running j).filter fun x => x.dkind != 0 && x.dcrew = c.key.crew && x.crew.launch = c.key.launch).foldl
      (fun s x =>
        let ids := x.parts.map fun p => p.req
        let s := s.setReqs (s.reqs.map fun r => if ids.contains r.id && r.heldFor .migration sq then { r with held := none } else r)
        s.bookCmd j x s.now none) s) s
  let s := s.setReqs (s.reqs.map fun r =>
    if crewKeyOf r.owner = c.key && r.held.isSome && (match r.effect with | .copy _ => false | _ => true) then { r with core := c.core } else r)
  s.resolve .migration sq

/-- MIGRATION_REMAP (R361 steps 5 and 6, R409): the crew stands on its target, the logical map changes, class 5 holds resolve,
"migration done" is appended, and its records relaunch there. -/
def execMigrationRemap (s : State) : Host.Outcome State Fault Refusal :=
  let a := s.arg
  let t := s.core a.core
  let s := s.setCore a.core { t with zeroing := t.zeroing.filter fun z => z != (a.n, a.m) }
  match s.crew? (crewKeyOf a.key) with
  | none => .next s
  | some c => match c.mig with
    | none => .next s
    | some m =>
      if m.stage != .moving || m.target != a.core then .next s
      else
        let cells := memSlice (s.core c.core).spad c.partBase a.m a.n
        let s := s.setCore a.core { s.core a.core with spad := memPut (s.core a.core).spad cells }
        let s := s.zeroRun c.core c.partBase a.m
        let s := s.moveObjects c a.core
        let s := match s.ctx? c.ctx with
          | some x => s.putCtx { x with map := swapCores x.map c.core a.core }
          | none => s
        let new := { c with core := a.core, partBase := a.n, mig := none }
        let s := s.putCrew new
        let mine := sortBy (fun (x y : Gang) => seqAfter y.hd.seq x.hd.seq) (s.gangs.filter fun g => g.crewKey = c.key)
        let s := mine.foldl (fun s g => s.bringRecord g a.core true) s
        let s := mine.foldl (fun s g => s.rewake g.key new) s
        let s := s.resumeMoved new m.seq
        let s := s.event c.ctx 7 0 c.core 0 m.seq.toNat c.key.crew.toNat a.core.val
        let s := s.inClocks a.core 1 .channelTakeCommand { EvArg.none with core := a.core }
        .next (((s.offer c.core).offer a.core).checkRetire c.key)

end Sys2Proof.Machine
end

