-- ==== Sys2Proof/Machine/Clocks.lean ====
section
/-!
DEFINITION. Frequency steps (R372, R373) and the discipline of device time (R47, R374, R375).
-/
namespace Sys2Proof.Machine

def State.setDies (s : State) (f : Fin 4 → Die → Die) : State :=
  s.setTime { s.time with dies := Vector.ofFn fun d => f d s.time.dies[d] }

/-! ## Frequency steps (R372) -/

/-- The dies that a mask names. -/
def dieIn (mask : Nat) (d : Fin 4) : Bool := mask / 2 ^ d.val % 2 = 1
/-- Core clock in MHz of a frequency code (R372). -/
def mhzOf (f : Nat) : Nat := 800 + 25 * f

/-- CLK_STEP_ARM (R372): a write of `v` to CLK_STEP arms the step, replaces an armed one, or is refused. -/
def execClkStepArm (s : State) : Host.Outcome State Fault Refusal :=
  let v := s.arg.v
  let t := BitVec.ofNat 56 (bits v 55 0)
  let ok := 20000 ≤ s.dist t && bits v 61 56 ≤ 56
  let s := s.setTime { s.time with clkStep := setBits v 63 62 (if ok then 1 else 2) }
  if ok then .next (s.scheduleTask ⟨s.whenTick t - 1, 4, .ev .frequencyStep, { EvArg.none with m := 15, n := bits v 61 56 }⟩)
  else .next s

/-- The agenda with the entries of the held dies that are counted in clocks moved: the clocks left begin when the hold has ended
(R3, R373). -/
def State.rescaleAgenda (s : State) (mask : Nat) : State :=
  s.setAgenda (sortBy (fun (x y : Due) => x.tick < y.tick || (x.tick = y.tick && x.rank < y.rank)) (s.agenda.map fun d =>
    match d.arg.clk with
    | some (k, n) => if dieIn mask (dieOf k) then { d with tick := s.edgeTick k n } else d
    | none => d))

/-- The device time of clock `n` of a core whose clocks are held before tick `b` + 64, and then run at `new` MHz (R373). -/
def State.heldClock (s : State) (k : CoreId) (new b n : Nat) : Nat := b + 64 + ceilDiv ((n - s.clock k - 1) * 2000) new

/-- A request whose promise is counted in clocks, at a new frequency (R183, R373): the clocks left begin when the hold has
ended. -/
def State.rescaleReq (s : State) (r : Req) (new b : Nat) : Req :=
  let left := s.heldClock r.core new b r.clk
  if r.fromL1 && s.now < r.perf then
    let t := max r.perf (b + 64) + ceilDiv (24 * 2000) new
    { r with prom := t, arrive := t }
  else { r with prom := left, arrive := left, perf := match r.passClk with
                                                      | some n => if r.perfDone then r.perf else s.heldClock r.core new b n
                                                      | none => if r.perf < b then r.perf else left }

/-- Whether a request is that of an operation which starts in the clock of a frequency step: its schedule is computed at the new
frequency, without a break (R250). -/
def State.startsNow (s : State) (r : Req) : Bool :=
  (s.cc r.core).lap.ops.any fun o => o.req = r.id && o.begin = s.clock r.core + 1

/-- Every promise of the held dies that is counted in clocks, recomputed (R373): one that moves later breaks with cause 4, at
level 0, or 8 for the lapidary; one that moves earlier is recomputed without a report. -/
def State.rescaleReqs (s : State) (mask new b : Nat) : State :=
  (s.reqs.filter fun r => dieIn mask (dieOf r.core) && r.clk != 0 && r.held.isNone && s.clock r.core < r.clk).foldl (fun s r =>
    let r' := s.rescaleReq r new b
    let quiet := s.startsNow r
    let s := if quiet then s.putReq r' else s.moved r r' .power (if r.level = 8 then 8 else 0)
    if (quiet || r'.prom < r.prom) && r.tracked then s.refreshT r.owner r.treg s.now else s) s

/-- The rows of copies whose reads from partitions or landings in them are counted in clocks of the held dies: their landings are booked
again (R62, R373). -/
def State.rescaleCopies (s : State) (mask : Nat) : State :=
  (List.finRange 256).foldl (fun s k =>
    (s.running k).foldl (fun s x =>
      let held := fun (c : CoreId) => dieIn mask (dieOf c)
      let into := x.dkind != 0 && (match s.cmdDest x with | some c => held c.core | none => false)
      let from_ := fun (r : CopyRow) => x.parts.any fun p => p.index = r.slice && p.skind = 1 && held (s.rowCore k x p)
      let read := fun (r : CopyRow) => if from_ r && !r.filled && r.landAt != 0 then
          { r with dataAt := match s.crew? x.crew with | some c => s.edgeTick c.core r.dataClk | none => r.dataAt }
        else r
      if into || x.rows.any from_ then s.relandCmd k { x with rows := x.rows.map read } (fun r => into || from_ r) .power else s) s) s

/-- The dies of a mask hold their clocks for 64 ticks, from now for CLK_STEP (`cmd`), whose edges of this tick are held, else
from the next tick, and then run at a frequency (R372, R373). -/
def State.holdClocks (s : State) (mask code : Nat) (cmd : Bool) : State :=
  let new := mhzOf code
  let b := if cmd then s.now else s.now + 1
  let s := s.rescaleReqs mask new b
  let s := (s.setDies fun d x => if dieIn mask d then { x with freq := BitVec.ofNat 6 code, hold := b + 64 } else x).rescaleAgenda mask
  let s := s.rescaleCopies mask
  s.scheduleTask ⟨b + 63, 4, .ev .frequencyHoldEnd, { EvArg.none with m := mask, n := code, flag := cmd }⟩

/-- FREQUENCY_STEP (R372): the armed step's TICK comes. The entry that comes a tick before it keeps the dies from a clock edge
at TICK; at TICK (`flag`) the hold begins and the promises counted in clocks are recomputed (R373). -/
def execFrequencyStep (s : State) : Host.Outcome State Fault Refusal :=
  let a := s.arg
  if a.flag then .next (s.holdClocks a.m a.n a.write)
  else
    let v := s.time.clkStep
    if bits v 63 62 != 1 || bits v 61 56 != a.n || 1 < s.dist (BitVec.ofNat 56 (bits v 55 0)) then .next s
    else
      let s := s.setDies fun _ x => { x with hold := s.now + 65 }
      .next (s.scheduleTask ⟨s.now + 1, 0, .ev .frequencyStep, { a with flag := true, write := true }⟩)

/-- FREQUENCY_HOLD_END (R372): the dies run at the new frequency from the next tick on, which begins with a clock edge: the phase
after a step, which R3 leaves open, is the model's choice (assumption row 5). -/
def execFrequencyHoldEnd (s : State) : Host.Outcome State Fault Refusal :=
  let a := s.arg
  let s := s.setDies fun d x => if dieIn a.m d then { x with hold := 0, phase := 2000 - mhzOf a.n } else x
  let v := s.time.clkStep
  if a.flag && bits v 63 62 = 1 && bits v 61 56 = a.n && s.dist (BitVec.ofNat 56 (bits v 55 0)) ≤ 0 then
    .next (s.setTime { s.time with clkStep := setBits v 63 62 3 })
  else .next s

/-! ## Corrections of device time (R47, R375) -/

/-- Appends an entry to the correction log (R375). -/
def State.logTime (s : State) (kind before after rate : Nat) : State :=
  let n := s.time.timeWr.toNat
  match s.ringEntry s.time.timeLog 32 n with
  | none => s.setTime { s.time with timeWr := s.time.timeWr + 1 }
  | some a =>
    (s.hubWords a
      [BitVec.ofNat 64 (kind * 2 ^ 56 + n % 2 ^ 32), BitVec.ofNat 64 before, BitVec.ofNat 64 after, BitVec.ofNat 64 rate]).setTime
      { s.time with timeWr := s.time.timeWr + 1 }

/-- TIME_ADJ_SLEW (R375, OP 1): the rate is replaced from the next tick; a value outside ±200,000 is ignored. -/
def execTimeAdjSlew (s : State) : Host.Outcome State Fault Refusal :=
  let new := lowWord s.arg.v
  let s := s.setTime { s.time with timeAdj := setBits s.arg.v 61 32 0 }
  if new.toInt < -200000 || 200000 < new.toInt then .next s
  else
    let old := s.time.rate
    .next ((s.setTime { s.time with rate := new }).logTime 1 s.now (s.now + 1) (old.toNat * 2 ^ 32 + new.toNat))

/-- TIME_ADJ_STEP (R375, OP 2): the ticks are added to those that wait for a device-wide idle instant. -/
def execTimeAdjStep (s : State) : Host.Outcome State Fault Refusal :=
  let s := s.setTime { s.time with timeAdj := setBits s.arg.v 61 32 0, steps := s.time.steps + (lowWord s.arg.v).toNat }
  .next (s.scheduleTask ⟨s.now, 4, .ev .forwardStepApply, EvArg.none⟩)

/-- FORWARD_STEP_APPLY (R47, R375): with no context on any core the pending ticks are added to the count; otherwise the step
waits on. A context that is only being preloaded or spilled is none (DESIGN CHOICE, assumption row 135). -/
def execForwardStepApply (s : State) : Host.Outcome State Fault Refusal :=
  let n := s.time.steps
  if n = 0 then .next s
  else if s.cores.any fun co => co.active.isSome then .next (s.scheduleTask ⟨s.now + 1, 4, .ev .forwardStepApply, EvArg.none⟩)
  else
    let s := s.logTime 2 s.now (s.now + 1 + n) (n % 2 ^ 32)
    .next (s.setTime { s.time with now := s.now + n, steps := 0 })

/-- PTP_EVENT_TIMESTAMP (R374): port 0 timestamps an event message, on ingress (`flag`) or egress; port 1 does not. -/
def execPtpEventTimestamp (s : State) : Host.Outcome State Fault Refusal :=
  if s.arg.n != 0 then .next s
  else if s.arg.flag then .next (s.setTime { s.time with ptpIn := s.time64 })
  else .next (s.setTime { s.time with ptpOut := s.time64 })

end Sys2Proof.Machine
end

