-- ==== Sys2Proof/Machine/Ports.lean ====
section
/-!
DEFINITION. The host port and the fabric: host and peer accesses to device memory (R325, R388, R397), completions and path
allowances (R58, R420), refusals (R397), links that replay, go down and come up (R11, R395, R404).
-/
namespace Sys2Proof.Machine

/-! ## Accesses from outside to device memory -/

/-- Bytes of a list replaced from a place on. -/
def splice (bs : List Byte) (pos : Nat) (new : List Byte) : List Byte := bs.take pos ++ new ++ bs.drop (pos + new.length)

/-- A booked read of the hub for the host or a peer: `n` is the address, `m` the bytes, `pairs` the place in the answer. It is
performed at the home slice. -/
def State.outsideRead (s : State) (i : Instr) (a len pos t : Nat) : State :=
  let x := s.bookLine none (physLine a len) .read false t 0
  x.s.schedule x.b.perf i { EvArg.none with req := 1, n := a, m := len, pairs := [(pos, 0)] }

/-- Such a read performed. -/
def State.outsideReadDue (s : State) : State :=
  let a := s.arg
  let pos := (a.pairs.headD (0, 0)).1
  let s := s.setSys { s.sys with hostData := splice s.sys.hostData pos (memBytes s.mem a.n a.m) }
  s.release (a.n / 128 * 128)

/-- A range of addresses in lines: the first byte, the bytes, the place. -/
def linePieces (a len : Nat) : List (Nat × Nat × Nat) := (linesOf a len).map fun l => (l.2.1, l.2.2.1, l.2.2.2)

/-- The physical address that an offset of BAR 4 is mapped to (R388): in a 1 GiB page of the aperture, in HBM5. -/
def State.apertureOf (s : State) (off : Nat) : Option Nat :=
  match s.sys.aperture.find? fun p => p.1 = off / 2 ^ 30 with
  | some p => let a := p.2 + off % 2 ^ 30; if off < 2 ^ 36 && s.inHbm a then some a else none
  | none => none

/-- Counts an access of the host that is logged and not performed (R344, R388). -/
def State.logHost (s : State) : State := s.setSys { s.sys with pushLog := s.sys.pushLog + 1 }

/-- HOST_MEMORY_ACCESS (R388): the host writes `bytes` at offset `n` of BAR 4, or reads `m` bytes. What is mapped is performed at
the home slices, posted writes in order (R325); what is not is discarded, or reads all ones, and is logged. -/
def execHostMemoryAccess (s : State) : Host.Outcome State Fault Refusal :=
  let a := s.arg
  if a.req = 1 then .next s.outsideReadDue
  else
    let ps := linePieces a.n (if a.write then a.bytes.length else a.m)
    let s := if ps.any fun p => (s.apertureOf p.1).isNone then s.logHost else s
    if a.write then
      .next (ps.foldl (fun s p => match s.apertureOf p.1 with
        | none => s
        | some pa =>
          let (s, b) := s.hubWrite pa ((a.bytes.drop p.2.2).take p.2.1) (max s.now s.sys.hostPerf)
          s.setSys { s.sys with hostPerf := b.perf }) s)
    else
      let s := s.setSys { s.sys with hostData := List.replicate a.m 0xFF }
      .next (ps.foldl (fun s p => match s.apertureOf p.1 with
        | none => s
        | some pa => s.outsideRead .hostMemoryAccess pa p.2.1 p.2.2 (max s.now s.sys.hostPerf)) s)

/-- Whether an entry of the export table admits a request (R397). -/
def Export.admits (e : Export) (src : Nat) (c : CtxId) (a len : Nat) (read write atom : Bool) : Bool :=
  e.src.val = src && e.ctx = c && e.base ≤ a && a + len ≤ e.base + e.len && (!read || e.r) && (!write || e.w) && (!atom || e.a)

/-- The operation of a peer's atomic, by the order of R287. -/
def atomOfNat : Nat → AtomOp
  | 0 => .add | 1 => .min | 2 => .max | 3 => .and | 4 => .or | 5 => .xor | 6 => .xchg | 7 => .cas | 8 => .inc | _ => .fadd

/-- A peer's atomic performed at the home slice: `cause` is its old value's place, the operation and operands in `pairs`. -/
def State.peerAtomicDue (s : State) : State :=
  let a := s.arg
  let (op, v) := a.pairs.headD (0, 0)
  let x := (a.pairs.getD 1 (0, 0)).1
  let old := memBytes s.mem a.n a.m
  let new := atomNew (atomOfNat op) a.m (leNat old) v x
  let l := physLine a.n a.m
  let s := s.writeHome l.home l.line 0 [(a.n, natLe a.m new)]
  (s.setSys { s.sys with hostData := old }).release l.line

/-- PEER_REQUEST (R397): a request of source device `n` and context `ctx` on `m` bytes at physical address `v`: a write of
`bytes`, an atomic (`flag`) of 4 or 8 bytes whose operation and operands stand in `pairs`, or a read. It is served at the home
slice where an export admits it, and otherwise refused. -/
def execPeerRequest (s : State) : Host.Outcome State Fault Refusal :=
  let a := s.arg
  if a.req = 1 then .next (if a.flag then s.peerAtomicDue else s.outsideReadDue)
  else
    let pa := a.v.toNat
    let len := if a.write then a.bytes.length else a.m
    let ok := s.inHbm pa && s.inHbm (pa + len - 1) && s.sys.exports.any fun e => e.admits a.n a.ctx pa len (!a.write && !a.flag) a.write a.flag
    if !ok then .next s
    else if a.write then
      .next ((linePieces pa len).foldl (fun s p => (s.hubWrite p.1 ((a.bytes.drop p.2.2).take p.2.1) s.now).1) s)
    else if a.flag then
      if (a.m = 4 || a.m = 8) && pa % a.m = 0 then
        let x := s.bookLine none (physLine pa a.m) .atomic false s.now 0
        .next (x.s.schedule x.b.perf .peerRequest { a with req := 1, n := pa })
      else .next s
    else
      let s := s.setSys { s.sys with hostData := List.replicate len 0 }
      .next ((linePieces pa len).foldl (fun s p => s.outsideRead .peerRequest p.1 p.2.1 p.2.2 s.now) s)

/-! ## The device's own requests on the host and on peers -/

/-- Whether a request is one on the host or a peer. -/
def Req.outside (r : Req) : Bool := match r.home with | .host | .peer _ => true | _ => false

/-- The allowance with which a request was booked (R396): requests already booked keep theirs. -/
def Req.allowance (r : Req) : Nat :=
  match r.path.find? fun x => match x.res with | .hostOut | .fabOut _ => true | _ => false with
  | some x => x.done
  | none => 0

/-- The fabric link that a request is booked on. -/
def Req.link (r : Req) : Nat :=
  match r.slots.findSome? fun x => match x.res with | .fabOut l | .fabIn l => some l.val | _ => none with
  | some l => l
  | none => 0

/-- PEER_REFUSAL (R397): the peer refuses request `req`, which is held with class 3 and the entry's number. -/
def execPeerRefusal (s : State) : Host.Outcome State Fault Refusal :=
  match s.req? s.arg.req with
  | none => .next s
  | some r =>
    if r.held.isSome then .next s
    else
      let (s, n) := s.logError 6 r.link 2 r.line
      .next (s.holdReq r.id .error (BitVec.ofNat 32 n) 64)

/-- HOST_COMPLETION (R420): the data of a host-tier or peer-tier read has returned to the port in this tick, `bytes` from its
first byte on; it goes to the core, or to the row of a copy (`flag`). -/
def execHostCompletion (s : State) : Host.Outcome State Fault Refusal :=
  let a := s.arg
  if a.flag then
    match s.rowOf false with
    | none => .next s
    | some (x, r, _) =>
      let s := s.putCmd a.core (x.withRow { r with got := [(0, a.bytes.take r.len)] })
      .next (s.scheduleTask ⟨max (s.now + 16) r.landAt, 2, .ev .copyRowLanding, rowArg a.core x r r.turn []⟩)
  else match s.req? a.req with
  | none => .next s
  | some r =>
    if r.perfDone || r.held.isSome || !r.outside then .next s
    else match r.effect with
      | .load .. =>
        let first := r.pieces.foldl (fun n p => min n (r.at p)) (2 ^ 64)
        let got := (r.bytes.eraseDups).map fun b => (b, [a.bytes.getD (b - first) 0])
        let t := s.now + (ceilDiv r.bytes.eraseDups.length 128 - 1) + 36
        .next (((s.putReq { r with got := got, arrive := t }).done { r with got := got, arrive := t }).schedule t .requestLanding
          { EvArg.none with req := r.id })
      | _ => .next s

/-- A read that has not returned in time breaks, later by its allowance (R58). -/
def State.overrun (s : State) (r : Req) (level : Level) : State :=
  let alw := r.allowance
  let r' := { r with prom := r.prom + alw, arrive := if r.perfDone then r.arrive else r.arrive + alw
                     perf := if r.perfDone then r.perf else r.perf + alw }
  (s.moved r r' .overran level).rebookBehind r.id .overran level 64

/-- A row whose data has not returned in time: it is later by the allowance it was booked with, and lands later with those behind it
(R58, R224). -/
def State.overrunRow (s : State) (k : CoreId) (x : CopyCmd) (r : CopyRow) : State :=
  let late := { r with dataAt := r.dataAt + r.alw }
  let s := s.schedule late.dataAt .pathAllowanceOverrun { rowArg k x r r.gen [] with flag := true }
  s.relandCmd k (x.withRow late) (fun y => y.no = r.no) .overran

/-- PATH_ALLOWANCE_OVERRUN (R58): the data of a host-tier or peer-tier read has not returned by the promised tick. The request
breaks with cause 7, later by its allowance; with no link to its peer it is held with class 4. `flag` marks a row of a copy. -/
def execPathAllowanceOverrun (s : State) : Host.Outcome State Fault Refusal :=
  let a := s.arg
  if a.flag then
    match s.rowOf false with
    | none => .next s
    | some (x, r, p) =>
      if r.filled || r.dataAt != s.now || s.cmdHeld x then .next s
      else match homeOf p.sRec (p.soff + r.off) with
        | .peer d =>
          if (s.linkTo d).isNone then .next (s.holdReq p.req .peer (BitVec.ofNat 32 d.val) 64) else .next (s.overrunRow a.core x r)
        | _ => .next (s.overrunRow a.core x r)
  else match s.req? a.req with
  | none => .next s
  | some r =>
    if r.held.isSome || s.now < r.prom || !r.outside || (r.perfDone && r.arrive ≤ r.prom) then .next s
    else match r.home with
      | .peer d =>
        if (s.linkTo d).isNone then .next (s.holdReq r.id .peer (BitVec.ofNat 32 d.val) 64)
        else .next (s.overrun r 7)
      | _ => .next (s.overrun r 6)
/-! ## Links (R11, R395, R404) -/

/-- Whether a slot is in transit over a link in the ticks in which a replay holds it up: `after` ticks from its slot on. -/
def inTransit (now m after : Nat) (x : Slot) : Bool := x.tick < now + m && now < x.tick + after

/-- Delays what a replay of a link holds up until `m` ticks from now. Requests are taken in the order in which they were made. -/
def State.replay (s : State) (p : Slot → Bool) (m : Nat) (cause : BreakCause) (level : Level) : State :=
  let s := (s.usersOf p).foldl (fun s x =>
    match s.req? x.1 with
    | none => s
    | some r => match r.slots[x.2]?, r.effect with
      | _, .copy _ => s
      | some sl, _ => if p sl && r.held.isNone && s.now < r.arrive then s.breakFrom r cause level x.2 (s.now + m) else s
      | none, _ => s) s
  s.delayCopies p (s.now + m) cause

/-- FABRIC_LINK_REPLAY (R395): a flit on link `n`, outward or inward (`flag`), is replayed for `m` ticks. -/
def execFabricLinkReplay (s : State) : Host.Outcome State Fault Refusal :=
  let a := s.arg
  let (s, _) := s.logError 5 a.n 1 0
  .next (s.replay (fun x => inTransit s.now a.m 1 x && (match x.res with
    | .fabOut l => l.val = a.n && !a.flag
    | .fabIn l => l.val = a.n && a.flag
    | _ => false)) a.m .fabricReplay 7)

/-- The number of an end of a die link in the error log: the compute dies 0 to 3, the hub 4. -/
def dieEnd (d : DieNode) : Nat := match d with | .die n => n.val | .hub => 4

/-- DIE_LINK_REPLAY (R11): a flit on a die link is replayed for `m` ticks. -/
def execDieLinkReplay (s : State) : Host.Outcome State Fault Refusal :=
  let a := s.arg
  let (s, _) := s.logError 4 (dieEnd a.die.src * 16 + dieEnd a.die.dst) 1 0
  .next (s.replay (fun x => inTransit s.now a.m 12 x && x.res = .link a.die) a.m .dieReplay 2)

/-- A request whose link has gone down: it is booked on the next link of its mask, or held with class 4 (R404). -/
def State.reroute (s : State) (r : Req) : State :=
  match r.home with
  | .peer d => (match s.linkTo d with
    | none => s.holdReq r.id .peer (BitVec.ofNat 32 d.val) 64
    | some l =>
      let s := s.setHier (s.hier.free r.slots)
      let (s, r') := s.bookPort { r with probed := s.now } (.fab l) s.sys.fabAlw[l].toNat (s.floorTick r)
      (s.moved r { r' with probed := r.probed } .fabricReplay 7).rebookBehind r.id .fabricReplay 7 64)
  | _ => s

/-- Whether a copy slice lies on a peer on some side. -/
def CopySlice.peers (p : CopySlice) : List (Fin 256) :=
  let dev := fun (b : Vector DWord 8) => (⟨Buf.peer b % 256, Nat.mod_lt _ (by decide)⟩ : Fin 256)
  (if p.skind = 0 && Buf.tier p.sRec = 3 then [dev p.sRec] else []) ++
  (if p.dbuf && Buf.tier p.dRec = 3 then [dev p.dRec] else [])

/-- The copies with a row booked on a link that has gone down (R404): booked again on another link, or held with class 4. -/
def State.rerouteCopies (s : State) (l : Fin 12) : State :=
  let on := fun (x : Slot) => x.res = .fabOut l || x.res = .fabIn l
  (List.finRange 256).foldl (fun s k =>
    ((s.running k).filter fun x => x.rows.any fun r => (r.slots ++ r.back).any on).foldl (fun s x =>
      match (x.parts.flatMap fun p => p.peers).find? fun d => (s.linkTo d).isNone with
      | some d => s.holdCmd x .peer (BitVec.ofNat 32 d.val)
      | none => s.bookCmd k x s.now (some .fabricReplay)) s) s

/-- FABRIC_LINK_DOWN (R395, R404): link `n` goes down; the requests in flight on it move to another link, or are held. A link that
does not come up within 2^24 ticks stays down until the steward restarts it. -/
def execFabricLinkDown (s : State) : Host.Outcome State Fault Refusal :=
  let l : Fin 12 := ⟨s.arg.n % 12, Nat.mod_lt _ (by decide)⟩
  if !s.sys.links.getLsbD l.val then .next s
  else
    let s := s.setSys { s.sys with links := s.sys.links &&& ~~~BitVec.ofNat 12 (2 ^ l.val) }
    let s := s.schedule (s.now + 2 ^ 24) .fabricLinkRetrainTimeout { EvArg.none with n := l.val }
    let on := fun (x : Slot) => x.res = .fabOut l || x.res = .fabIn l
    let s := (s.reqs.filter fun r => r.held.isNone && !r.perfDone && r.slots.any on && (match r.effect with | .copy _ => false | _ => true)).foldl
      (fun s r => match s.req? r.id with
        | some r => if r.held.isNone && !r.perfDone then s.reroute r else s
        | none => s) s
    .next (s.rerouteCopies l)

/-- FABRIC_LINK_UP (R395): link `n` has retrained, or the steward has restarted it (`flag`); class 4 holds on its routes
resolve. -/
def execFabricLinkUp (s : State) : Host.Outcome State Fault Refusal :=
  let l : Fin 12 := ⟨s.arg.n % 12, Nat.mod_lt _ (by decide)⟩
  if s.sys.links.getLsbD l.val || (s.sys.stuck.getLsbD l.val && !s.arg.flag) then .next s
  else
    let bit : BitVec 12 := BitVec.ofNat 12 (2 ^ l.val)
    let s := s.setSys { s.sys with links := s.sys.links ||| bit, stuck := s.sys.stuck &&& ~~~bit }
    let s := s.unschedule fun d => d.task = .ev .fabricLinkRetrainTimeout && d.arg.n = l.val
    .next (((List.finRange 256).filter fun p => (s.sys.route[p]).getLsbD l.val).foldl
      (fun s p => s.resolve .peer (BitVec.ofNat 32 p.val)) s)

/-- FABRIC_LINK_RETRAIN_TIMEOUT (R395). -/
def execFabricLinkRetrainTimeout (s : State) : Host.Outcome State Fault Refusal :=
  let n := s.arg.n % 12
  if s.sys.links.getLsbD n then .next s
  else .next (s.setSys { s.sys with stuck := s.sys.stuck ||| BitVec.ofNat 12 (2 ^ n) })

end Sys2Proof.Machine
end

