-- ==== Sys2Proof/Machine/Power.lean ====
section
/-!
DEFINITION. The power arbiter: token periods and rounds (R364, R365), throttling (R366), the licensed allowance (R367), trades
of watts with peers and their log (R368, R369), the energy accounts (R370). Consumers 0 to 3 are the compute dies, 4 the hub, 5
to 20 the HBM5 stacks, 21 the capacity tier.
-/
namespace Sys2Proof.Machine

/-! ## Periods -/

/-- Ticks of a token period (R364) and of a round (R365). -/
def periodTicks : Nat := 2000000
def roundTicks : Nat := 20000

/-- The number of the present token period. -/
def State.period (s : State) : Nat := s.now / periodTicks

/-- The first period of a trade that it no longer covers. -/
def Trade.stop (t : Trade) : Nat := t.first.toNat + t.periods.toNat
/-- Whether a trade covers a period. -/
def Trade.covers (t : Trade) (p : Nat) : Bool := t.first.toNat ≤ p && p < t.stop

/-- The watts of the trades that `count` takes in, given and received, in a period. -/
def tradeSum (count : Trade → Bool) (ts : List Trade) (p : Nat) : Int :=
  (ts.filter fun t => count t && t.covers p).foldl
    (fun n t => if t.giver then n - (t.watts.toNat : Int) else n + (t.watts.toNat : Int)) 0

/-- NET of a period: the trades in force (R364). -/
def Power.netAt (w : Power) (p : Nat) : Int := tradeSum (fun t => t.firm) w.trades p
/-- The least EFF that a coming period can have: every watt offered is given, none that is not firm is received. -/
def Power.least (w : Power) (lic p : Nat) : Int := lic + tradeSum (fun t => t.firm || t.giver) w.trades p
/-- The greatest EFF that a coming period can have. -/
def Power.most (w : Power) (lic p : Nat) : Int := lic + tradeSum (fun t => t.firm || !t.giver) w.trades p

/-- The periods in `[lo, hi)` at which the sum of trades may change. -/
def Power.changes (w : Power) (lo hi : Nat) : List Nat :=
  lo :: (w.trades.flatMap fun t => [t.first.toNat, t.stop]).filter fun p => lo ≤ p && p < hi

/-- Appends an entry to the token log (R369). -/
def State.logToken (s : State) (event peer watts sq first periods : Nat) : State :=
  let w := s.power
  let s := s.setPower { w with tokWr := w.tokWr + 1 }
  match s.ringEntry w.tokLog 32 w.tokWr.toNat with
  | none => s
  | some a =>
    s.hubWords a
      [BitVec.ofNat 64 (event * 2 ^ 56 + peer % 2 ^ 8 * 2 ^ 48 + watts % 2 ^ 16 * 2 ^ 32 + sq % 2 ^ 32),
       BitVec.ofNat 64 (first * 2 ^ 16 + periods % 2 ^ 16), s.time64, BitVec.ofNat 64 (w.eff.toNat * 2 ^ 32)]

/-- Logs an event of a trade. -/
def State.logTrade (s : State) (event : Nat) (t : Trade) : State :=
  s.logToken event t.peer.val t.watts.toNat t.sq.toNat t.first.toNat t.periods.toNat

def State.setTrades (s : State) (ts : List Trade) : State := s.setPower { s.power with trades := ts }

/-- TOKEN_PERIOD_BOUNDARY (R364, R367, R368): LIC takes its new value; trades end and begin; one whose COMMIT has not come is
stranded; EFF tokens stand ready, and what was unspent lapses. -/
def execTokenPeriodBoundary (s : State) : Host.Outcome State Fault Refusal :=
  let p := s.period
  let w := s.power
  let ended := w.trades.filter fun t => t.firm && t.stop ≤ p
  let late := w.trades.filter fun t => !t.firm && t.first.toNat ≤ p
  let starts := w.trades.filter fun t => t.firm && t.first.toNat = p
  let kept := w.trades.filter fun t => !(t.firm && t.stop ≤ p) && !(!t.firm && t.first.toNat ≤ p)
  let w' := { w with lic := w.licNext, trades := kept }
  let net := w'.netAt p
  let eff := BitVec.ofInt 16 (w'.lic.toNat + net)
  let s := s.setPower { w' with net := BitVec.ofInt 16 net, eff := eff, left := eff.toNat, round := 0 }
  let s := if w.lic = w.licNext then s else s.logToken 8 0 0 0 0 0
  let s := ended.foldl (fun s t => s.logTrade 7 t) s
  let s := starts.foldl (fun s t => s.logTrade 5 t) s
  let s := (late.filter fun t => !t.giver).foldl (fun s t => s.logTrade 6 t) s
  .next (s.schedule ((p + 1) * periodTicks) .tokenPeriodBoundary EvArg.none)

/-! ## The licensed allowance (R367) -/

/-- PWR_STAT_LIC_WRITE (R367): LIC from the next period boundary on; ignored out of range, or where EFF would leave the range
in some coming period. A write in the tick of a boundary takes effect from the boundary after it. -/
def execPwrStatLicWrite (s : State) : Host.Outcome State Fault Refusal :=
  let n := bits s.arg.v 15 0
  let w := s.power
  let coming := w.changes (s.period + 1) (2 ^ 48)
  let ok := 1500 ≤ n && n ≤ 4000 && coming.all fun p => 1500 ≤ w.least n p && w.most n p ≤ 4000
  if !ok then .next s
  else if s.now % periodTicks = 0 && !s.arg.flag then
    .next (s.scheduleTask ⟨s.now, 4, .ev .pwrStatLicWrite, { s.arg with flag := true }⟩)
  else .next (s.setPower { w with licNext := BitVec.ofNat 16 n })

/-! ## Trades (R368) -/

/-- TOK_OFFER (R368 step 1): the hub sends OFFER, unless its EFF would fall below 1,500 W in a period that is covered. The reserved bits of the
write are ignored (R4). -/
def execTokOffer (s : State) : Host.Outcome State Fault Refusal :=
  let v := setBits s.arg.v 31 24 0
  let w := s.power
  let watts := bits v 63 48
  let periods := bits v 47 32
  let first := s.period + bits v 15 0
  let t : Trade := ⟨⟨bits v 23 16 % 256, Nat.mod_lt _ (by decide)⟩, true, w.sq, BitVec.ofNat 16 watts, BitVec.ofNat 48 first,
    BitVec.ofNat 16 periods, false, false⟩
  let ok := 1 ≤ watts && watts ≤ 2500 && 1 ≤ periods && 2 ≤ bits v 15 0 &&
    (w.changes first (first + periods)).all fun p => 1500 + (watts : Int) ≤ w.least w.licNext.toNat p
  let s := s.setPower { w with offer := v, sq := w.sq + 1 }
  if ok then .next ((s.setTrades (w.trades ++ [t])).logTrade 1 t) else .next (s.logTrade 3 t)

/-- The peer that a message comes from. -/
def State.fromPeer (s : State) : Fin 256 := ⟨s.arg.n % 256, Nat.mod_lt _ (by decide)⟩

/-- TOKEN_OFFER_RECEIVED (R368 step 2): OFFER of peer `n`, with the giver's sequence number in `ticket`, the first period in `v`,
the watts and the periods in `pairs`. The reply is ACK where EFF stays at or below 4,000 W, else REFUSE. -/
def execTokenOfferReceived (s : State) : Host.Outcome State Fault Refusal :=
  let a := s.arg
  let w := s.power
  let (watts, periods) := a.pairs.headD (0, 0)
  let first := a.v.toNat
  let t : Trade := ⟨s.fromPeer, false, a.ticket, BitVec.ofNat 16 watts, BitVec.ofNat 48 first, BitVec.ofNat 16 periods, true, false⟩
  let ok := (w.changes first (first + periods)).all fun p => w.most w.licNext.toNat p + (watts : Int) ≤ 4000
  if ok then .next ((s.setTrades (w.trades ++ [t])).logTrade 2 t) else .next (s.logTrade 3 t)

/-- The trade that a message of a peer is about. -/
def State.tradeOf (s : State) (giver : Bool) : Option Trade :=
  s.power.trades.find? fun t => t.peer = s.fromPeer && t.sq = s.arg.ticket && t.giver = giver && !t.firm

/-- Replaces a trade. -/
def State.putTrade (s : State) (old new : Trade) : State :=
  s.setTrades (s.power.trades.map fun t => if t = old then new else t)
/-- Takes a trade away. -/
def State.dropTrade (s : State) (t : Trade) : State := s.setTrades (s.power.trades.filter fun x => x != t)

/-- TOKEN_ACK_RECEIVED (R368 step 3): before the start of period F − 1 the trade applies from F and COMMIT is sent. -/
def execTokenAckReceived (s : State) : Host.Outcome State Fault Refusal :=
  match s.tradeOf true with
  | none => .next s
  | some t =>
    if s.now < (t.first.toNat - 1) * periodTicks then
      .next (((s.putTrade t { t with acked := true, firm := true }).logTrade 2 t).logTrade 4 t)
    else .next (s.dropTrade t)

/-- TOKEN_REFUSE_RECEIVED (R368): the offer is off. -/
def execTokenRefuseReceived (s : State) : Host.Outcome State Fault Refusal :=
  match s.tradeOf true with
  | none => .next s
  | some t => .next ((s.dropTrade t).logTrade 3 t)

/-- TOKEN_COMMIT_RECEIVED (R368 step 4): before the start of F the trade applies; else its watts are stranded. -/
def execTokenCommitReceived (s : State) : Host.Outcome State Fault Refusal :=
  match s.tradeOf false with
  | none => .next s
  | some t =>
    if s.now < t.first.toNat * periodTicks then .next ((s.putTrade t { t with firm := true }).logTrade 4 t)
    else .next ((s.dropTrade t).logTrade 6 t)

/-! ## Rounds (R365, R370) -/

/-- The grants of a round out of `total` tokens (R365): the idle floors, and the rest in proportion to the demands. Where the
floors alone exceed the total, it is shared in proportion to them. -/
def grantsOf (total : Nat) (floors demands : Vector Nat 22) : Vector Nat 22 :=
  let fs := floors.toList.foldl (· + ·) 0
  let ds := demands.toList.foldl (· + ·) 0
  if total < fs then floors.map fun f => total * f / fs
  else if ds = 0 then floors
  else Vector.ofFn fun i => floors[i] + (total - fs) * demands[i] / ds

/-- A slice with its share of a round's energy, in units of 1/65,536 µJ (R370): whole µJ are added, the rest is carried. -/
def Slice.accrue (l : Slice) (e : Nat) : Slice :=
  let n := e + l.accRem
  let acc := l.acc + BitVec.ofNat 64 (n / 65536)
  { l with acc := acc, accShown := acc, accRem := n % 65536 }

/-- Dies that the arbiter steps down at a round boundary, if it does (R366): of clock group 0, with no hold under way. -/
def State.arbiterSteps (s : State) (f : Nat) : State :=
  if s.time.clkGrp != 0 || s.time.dies.any fun d => s.now < d.hold then s
  else (List.finRange 4).foldl (fun s d => match Config.arbiterStep f d.val with
    | some n => if n < s.time.dies[d].freq.toNat then s.holdClocks (2 ^ d.val) n false else s
    | none => s) s

/-- ARBITER_ROUND (R365, R366, R370): energy and demands are collected, grants made, launches charged; throttles of the round
before end. -/
def execArbiterRound (s : State) : Host.Outcome State Fault Refusal :=
  let f := s.freeNo
  let w := s.power
  let round := s.now % periodTicks / roundTicks
  let used : Vector Nat 22 := Vector.ofFn fun i => Config.consumerEnergy f i.val
  let demands : Vector Nat 22 := Vector.ofFn fun i => Config.consumerDemand f i.val
  let left := if round = 0 then w.left else w.left - used.toList.foldl (· + ·) 0
  let grants := grantsOf (left / (100 - round)) (Vector.ofFn fun i => Config.idleFloor i.val) demands
  let s := s.setPower { w with left := left, round := round, used := used, demands := demands, grants := grants
                               step := Vector.replicate 22 0
                               unattr := w.unattr + BitVec.ofNat 64 (Config.unattributedEnergy f) }
  let s := s.setSlices (s.slices.map fun l => l.accrue (Config.roundEnergy f l.id.toNat))
  let s := s.setCores (s.cores.map fun co => { co with gated := false })
  let s := (s.arbiterSteps f).useFree 1
  .next (s.schedule ((s.now / roundTicks + 1) * roundTicks) .arbiterRound EvArg.none)

/-! ## Throttling (R366) -/

/-- The accepted operations while the cells are gated up to clock `till`, `more` of these clocks being gated anew after the present
one, `clk` (R247): the running one is delayed by `more`, and one behind it starts after the one before and after the gating. One that
completes by now is not delayed (R250). -/
def gatedOps (clk till more : Nat) : Nat → List LapOp → List LapOp
  | _, [] => []
  | prev, o :: os =>
    let o' := if o.finish ≤ clk then o
      else if o.begin ≤ clk then { o with finish := o.finish + more, lost := o.lost + more }
      else
        let b := max o.begin prev
        let b := if b ≤ till then till + 1 else b
        { o with begin := b, finish := o.finish + (b - o.begin) }
    o' :: gatedOps clk till more o'.finish os

/-- The lapidary of a core gates its cells for `v` clocks (R247): the operations whose completion moves later are delayed with their
reads, and break with cause 4 at level 8. -/
def State.gateCells (s : State) (k : CoreId) (v : Nat) : State :=
  let clk := s.clock k
  let lap := s.lap k
  let till := max lap.gateTill (clk + v)
  let more := till - max lap.gateTill clk
  let s := s.setLap k { lap with ops := gatedOps clk till more 0 lap.ops, gateTill := till
                                 stop := lap.stop.map fun x => if clk < x.2 then (x.1, x.2 + more) else x }
  let s := s.count k 0x32 more none none
  (lap.ops.zip (s.lap k).ops).foldl (fun s x =>
    let o := x.2
    let d := o.finish - x.1.finish
    if d = 0 then s
    else
      let mine := fun (y : Due) => y.task = .stageRead && y.arg.core = k && y.arg.n = o.id && clk < y.arg.m
      let reads := s.agenda.filter mine
      let s := reads.foldl (fun s y => s.dueIn k (y.arg.m + d) y.rank y.task { y.arg with m := y.arg.m + d }) (s.unschedule mine)
      let s := s.scheduleOp k o
      match s.req? o.req with
      | none => s
      | some r =>
        let t := s.tickAt k o.finish
        s.moved r { r with prom := t, arrive := t, perf := t, clk := o.finish } .power 8) s

/-- THROTTLE (R366): consumer `n` takes step `m`, which follows the one it has taken. Step 1 withholds traffic that is not
booked; step 2 gates a die's quarters (`flag`) or ends their gating; step 3 gates its lapidaries' cells for `v` clocks; step 4
withholds a stack's or the capacity tier's slots before tick `v`. -/
def execThrottle (s : State) : Host.Outcome State Fault Refusal :=
  let a := s.arg
  let w := s.power
  if 22 ≤ a.n || a.m = 0 || 4 < a.m || vget w.step a.n + 1 < a.m then .next s
  else
    let s := s.setPower { w with step := vset w.step a.n (max a.m (vget w.step a.n)) }
    let mine := (List.finRange 256).filter fun k => (dieOf k).val = a.n
    let until_ := a.v.toNat
    match a.m with
    | 2 => .next (mine.foldl (fun s k => s.setCore k { s.core k with gated := a.flag }) s)
    | 3 => .next (mine.foldl (fun s k => s.gateCells k until_) s)
    | 4 =>
      let p := fun (x : Slot) => s.now ≤ x.tick && x.tick < until_ && (match x.res with
        | .hbm q _ => q.val + 5 = a.n
        | .cap _ => a.n = 21
        | _ => false)
      .next ((s.delayAll p (fun _ => until_) .power (if a.n = 21 then 5 else 3)).delayCopies p until_ .power)
    | _ => .next s

end Sys2Proof.Machine
end

