-- ==== Sys2Proof/Machine/Regs.lean ====
section
/-!
DEFINITION. The control windows (R388, R391 to R394, R403): reads that clear, and the write of a register.
-/
namespace Sys2Proof.Machine

/-! ## Reads that clear (R5, R378, R384, R124) -/

/-- What the register read returns. -/
def State.answerRead (s : State) (v : DWord) : State := s.setSys { s.sys with readBack := v }

/-- Whether a core has a context whose registers its window shows (R393). -/
def State.windowOpen (s : State) (k : CoreId) : Bool := (s.core k).active.isSome

/-- A read of a core's control window: zero while no context is active. -/
def State.coreRead (s : State) (f : CoreId → Nat → State) : Host.Outcome State Fault Refusal :=
  match s.arg.reg with
  | .core k off => if s.windowOpen k then .next (f k off) else .next (s.answerRead 0)
  | _ => .next (s.answerRead 0)

/-- BRKC_READ (R378): BRKC1 to BRKC8. -/
def execBrkcRead (s : State) : Host.Outcome State Fault Refusal :=
  s.coreRead fun k off =>
    let i := (off - 0x10) / 8
    if off < 0x10 || 0x50 ≤ off || off % 8 != 0 then s.answerRead 0
    else
      let cc := s.cc k
      (s.setCc k { cc with brkc := vset cc.brkc i 0 }).answerRead ((vget cc.brkc i).zeroExtend 64)

/-- ERRC_READ (R378): the corrected-error counters of the dies, the hub, the stacks and the capacity channels. -/
def execErrcRead (s : State) : Host.Outcome State Fault Refusal :=
  let y := s.sys
  match s.arg.reg with
  | .hub off =>
    if off % 8 != 0 then .next (s.answerRead 0)
    else if 0x1100 ≤ off && off < 0x1120 then
      let i := (off - 0x1100) / 8
      .next ((s.setSys { y with errcDie := vset y.errcDie i 0 }).answerRead ((vget y.errcDie i).zeroExtend 64))
    else if off = 0x1120 then .next ((s.setSys { y with errcHub := 0 }).answerRead (y.errcHub.zeroExtend 64))
    else if 0x1180 ≤ off && off < 0x1200 then
      let i := (off - 0x1180) / 8
      .next ((s.setSys { y with errcHbm := vset y.errcHbm i 0 }).answerRead ((vget y.errcHbm i).zeroExtend 64))
    else if 0x1200 ≤ off && off < 0x1300 then
      let i := (off - 0x1200) / 8
      .next ((s.setSys { y with errcCap := vset y.errcCap i 0 }).answerRead ((vget y.errcCap i).zeroExtend 64))
    else .next (s.answerRead 0)
  | _ => .next (s.answerRead 0)

/-- CONT_STAT_READ (R124): HIGH is cleared, and set again by the present sum; a further read in the tick finds it as it was (R6). -/
def execContStatRead (s : State) : Host.Outcome State Fault Refusal :=
  s.coreRead fun k _ =>
    let cc := s.cc k
    let sum := s.chargedSum k
    let used := (s.gangs.filter fun g => g.core = k && some g.ctx = (s.core k).active && g.inStore).foldl (fun n g => n + g.blocks) 0
    let high := max (if cc.highAt = s.now + 1 then cc.highWas else cc.high) sum
    (s.setCc k { cc with high := sum, highWas := high, highAt := s.now + 1 }).answerRead
      (BitVec.ofNat 64 (high * 2 ^ 36 + sum * 2 ^ 22 + used * 2 ^ 8))

/-- CONT_OVF_READ (R124): SPILLS is cleared. -/
def execContOvfRead (s : State) : Host.Outcome State Fault Refusal :=
  s.coreRead fun k _ =>
    let cc := s.cc k
    let n := (s.gangs.filter fun g => g.core = k && some g.ctx = (s.core k).active && g.ringAt.isSome).length
    (s.setCc k { cc with spills := 0 }).answerRead (joinWords (BitVec.ofNat 32 n) cc.spills)

/-- TRC_CNT_READ (R384): DROPS is cleared. -/
def execTrcCntRead (s : State) : Host.Outcome State Fault Refusal :=
  s.coreRead fun k _ =>
    let cc := s.cc k
    (s.setCc k { cc with trc := { cc.trc with drops := 0 } }).answerRead (joinWords cc.trc.writes cc.trc.drops)

/-! ## CTX_CMD (R356) -/

/-- CTX_ARG0 with only the fields of a mask of its fields left: CID, launch id, crew, gang. -/
def argFields (cid launch crew gang : Bool) : Nat :=
  (if cid then 0xFFF0000000000000 else 0) + (if launch then 0x0000FFFFFF000000 else 0) + (if crew then 0x0000000000FFFF00 else 0) +
  (if gang then 0xFF else 0)

/-- Whether a register has no bit set outside a mask. -/
def within (v : DWord) (mask : Nat) : Bool := v &&& ~~~BitVec.ofNat 64 mask = 0

/-- Whether the operands of a command lie in the fields that it names (R356). -/
def ctxOperandsOk (cmd : Nat) (a0 a1 : DWord) : Bool :=
  match cmd with
  | 1 => within a0 (argFields true false false false) && within a1 0xFF
  | 2 => within a0 0 && within a1 0xFF
  | 3 => within a0 (argFields true false false false) && within a1 0
  | 4 => within a0 (argFields true true true false) && within a1 0
  | 5 => within a0 (argFields true true true true) && bits a0 7 0 < 32 && within a1 0
  | 6 => within a0 (argFields true true true false) && within a1 0xFF
  | 7 => within a0 (argFields false true false false)
  | 8 => within a0 (argFields true false false false) && within a1 (2 ^ 63 + 0xFFFFF)
  | _ => false

/-- The row of a command. -/
def ctxCommand (cmd : Nat) (a1 : DWord) : State → Host.Outcome State Fault Refusal :=
  match cmd with
  | 1 => execCtxSwitchIn
  | 2 => execCtxSwitchOut
  | 3 => execCtxKill
  | 4 => execCtxKillCrew
  | 5 => execCtxResumeGang
  | 6 => execCtxMigrateCrew
  | 7 => execCtxRaiseBudget
  | _ => if bits a1 63 63 = 1 then execCtxReinstateRecord else execCtxRevokeRecord

/-- A write of CTX_CMD (R356): while a command is BUSY it is ignored; operands out of their fields, or a command that there is
not, complete with STATUS 1. -/
def State.writeCtxCmd (s : State) (v : DWord) : Host.Outcome State Fault Refusal :=
  let y := s.sys
  if bits y.ctxCmd 63 63 = 1 then .next s
  else
    let cmd := bits v 55 0
    let s := s.setSys { y with ctxCmd := setBits (setBits v 63 63 1) 62 56 0 }
    if !ctxOperandsOk cmd y.ctxArg0 y.ctxArg1 then .next (s.answer 1)
    else
      let cid : CtxId := BitVec.ofNat 12 (bits y.ctxArg0 63 52)
      let launch : LaunchId := BitVec.ofNat 24 (bits y.ctxArg0 47 24)
      let known := (s.ctx? cid).isSome
      let a := { EvArg.none with
        ctx := cid, launch := launch, key := ⟨launch, BitVec.ofNat 16 (bits y.ctxArg0 23 8), ⟨bits y.ctxArg0 7 0 % 32, Nat.mod_lt _ (by decide)⟩⟩
        core := coreNo (bits y.ctxArg1 7 0), v := y.ctxArg1
        n := if cmd = 8 then bits y.ctxArg1 19 0 else if cmd = 1 && !known then 64 * Config.ctxRecord cid.toNat else 0 }
      ctxCommand cmd y.ctxArg1 (s.setArg a)

/-! ## The hub's registers (R392) -/

/-- A ring register as written (R394). -/
def ringWritten (v : DWord) : DWord := setBits v 63 57 0

/-- A write of TIME_ADJ (R375). -/
def State.writeTimeAdj (s : State) (v : DWord) : Host.Outcome State Fault Refusal :=
  let s := s.setArg { s.arg with v := v }
  match bits v 63 62 with
  | 1 => execTimeAdjSlew s
  | 2 => execTimeAdjStep s
  | _ => .next (s.setTime { s.time with timeAdj := setBits v 61 32 0 })

/-- A write of HBM_DEAD of a stack (R305). -/
def State.writeDead (s : State) (k : Fin 16) (v : DWord) : Host.Outcome State Fault Refusal :=
  let s := s.setArg { s.arg with n := k.val, m := bits v 15 0 }
  match bits v 63 62 with
  | 1 => execHbmDeadMark s
  | 2 => execHbmDeadLoad s
  | 3 => .next s
  | _ =>
    if s.rangeOk (bits v 15 0) then
      .next (s.setHier { s.hier with stks := s.hier.stks.set k { s.hier.stks[k] with deadReg := deadWritten s.hier.stks[k].deadReg 0 (bits v 15 0) } })
    else .next s

/-- The set bits of register `r` of a stack's skip bits after a write (R392). -/
def skipWritten (old : List Nat) (r : Nat) (v : DWord) : List Nat :=
  (old.filter fun b => b / 64 != r) ++ ((List.range 64).filter fun i => v.getLsbD i).map fun i => 64 * r + i

/-- A write of a route table entry (R395): requests held on that peer are probed again where a link of the mask is up. -/
def State.writeRoute (s : State) (p : Fin 256) (v : DWord) : State :=
  let s := s.setSys { s.sys with route := s.sys.route.set p (BitVec.ofNat 12 (bits v 11 0)) }
  if (s.linkTo p).isSome then s.resolve .peer (BitVec.ofNat 32 p.val) else s

/-- Entry `(off - base) / 8` of an array of `n` registers at `base`. -/
def regIndex (base n off : Nat) : Option (Fin n) :=
  if base ≤ off then (if h : (off - base) / 8 < n then some ⟨(off - base) / 8, h⟩ else none) else none

/-- A write of the hub register arrays (R392). -/
def State.writeArrays (s : State) (off : Nat) (v : DWord) : Host.Outcome State Fault Refusal :=
  let y := s.sys
  match regIndex 0x100 12 off, regIndex 0x200 256 off, regIndex 0x1000 16 off, regIndex 0x2000 256 off with
  | some l, _, _, _ => if bits v 31 0 < 1000 then .next s else .next (s.setSys { y with fabAlw := y.fabAlw.set l (lowWord v) })
  | _, some p, _, _ => .next (s.writeRoute p v)
  | _, _, some k, _ => s.writeDead k v
  | _, _, _, some c =>
    if 70 ≤ bits v 7 0 && bits v 7 0 ≤ 105 then .next (s.setCore c { s.core c with limit := BitVec.ofNat 8 (bits v 7 0) }) else .next s
  | _, _, _, _ =>
    if 0x20000 ≤ off && off < 0x40000 && off % 0x2000 / 8 < 768 then
      let k : Fin 16 := ⟨(off - 0x20000) / 0x2000 % 16, Nat.mod_lt _ (by decide)⟩
      let st := s.hier.stks[k]
      .next (s.setHier { s.hier with stks := s.hier.stks.set k { st with skip := skipWritten st.skip (off % 0x2000 / 8) v } })
    else .next s

/-- A write of a hub register (R392); a register with a row of its own takes its row's meaning. -/
def State.writeHub (s : State) (off : Nat) (v : DWord) : Host.Outcome State Fault Refusal :=
  let y := s.sys
  let withV := s.setArg { s.arg with v := v, flag := false }
  match off with
  | 0x00 => execBootcfgWrite withV
  | 0x08 => s.writeCtxCmd v
  | 0x10 => .next (s.setSys { y with ctxArg0 := v })
  | 0x18 => .next (s.setSys { y with ctxArg1 := v })
  | 0x20 => execPwrStatLicWrite withV
  | 0x28 => execTokOffer withV
  | 0x30 => .next (s.setPower { s.power with tokLog := ringWritten v })
  | 0x40 => .next (s.setPower { s.power with engTbl := ringWritten v })
  | 0x50 => .next (s.setTime { s.time with clkGrp := BitVec.ofNat 16 (bits v 15 0) })
  | 0x58 => execClkStepArm withV
  | 0x60 => s.writeTimeAdj v
  | 0x68 => .next (s.setTime { s.time with timeLog := ringWritten v })
  | 0x78 => .next (s.setSys { y with fabId := BitVec.ofNat 8 (bits v 7 0) })
  | 0x80 => if bits v 31 0 < 1000 then .next s else .next (s.setSys { y with hostAlw := lowWord v })
  | 0x88 => .next (s.setSys { y with errLog := ringWritten v })
  | _ => s.writeArrays off v

/-! ## The core windows (R393) -/

/-- TRC_CTL as written (R384): K of 0 or 6 to 20; reserved bits zero. -/
def trcCtlWritten (old v : DWord) : DWord :=
  let k := if bits v 47 43 = 0 || (6 ≤ bits v 47 43 && bits v 47 43 ≤ 20) then bits v 47 43 else bits old 47 43
  BitVec.ofNat 64 (k * 2 ^ 43 + bits v 31 0)

/-- A write of a register of a core's window. -/
def State.writeCoreReg (s : State) (k : CoreId) (off : Nat) (v : DWord) : State :=
  let cc := s.cc k
  let put := fun (t : Trace) => s.setCc k { cc with trc := t }
  if !s.windowOpen k then s
  else match off with
  | 0x80 => put { cc.trc with base := setBits v 63 52 0 }
  | 0x88 => put { cc.trc with ctl := trcCtlWritten cc.trc.ctl v }
  | 0x98 => put { cc.trc with read := lowWord v }
  | _ => s

/-! ## The host's window (R388, R389, R391) -/

/-- A write of a mailbox at a byte offset: the doorbell word, whose LEN is written and whose bits clear, the doorbell-set
register, or message bytes. `flag` is that the steward writes. -/
def State.writeBox (s : State) (n : Fin 8) (off : Nat) (v : DWord) (bs : List Byte) : Host.Outcome State Fault Refusal :=
  let b := s.sys.boxes[n]
  if off = 0 then
    let s := s.setBox n { b with bell := (b.bell &&& 0xFFFF0000) ||| (lowWord v &&& 0xFFFF) }
    execMailboxDoorbellClear (s.setArg { s.arg with n := n.val, v := v })
  else if off = 0xFFC then execMailboxDoorbellSet (s.setArg { s.arg with n := n.val })
  else if 4 ≤ off && off + bs.length ≤ 0xFFC then .next (s.setBox n { b with msg := memWrite b.msg off bs })
  else .next s

/-- A write at an offset of the hub control window (R391). -/
def State.writeWindow (s : State) (off : Nat) (v : DWord) : Host.Outcome State Fault Refusal :=
  if off < 0x400000 then s.writeHub off v
  else if off < 0x800000 then .next (s.writeCoreReg (coreNo ((off - 0x400000) / 0x4000)) (off % 0x4000) v)
  else .next s

/-- REGISTER_WRITE (R391): a write of `v`, `m` bytes wide, at a control window address. Registers of the control window are
written whole, 8 bytes at an aligned offset; the host reaches the hub control window only while HCTL = 1. -/
def execRegisterWrite (s : State) : Host.Outcome State Fault Refusal :=
  let a := s.arg
  let whole := fun (off : Nat) => a.m = 8 && off % 8 = 0
  match a.reg with
  | .hub off => if whole off then s.writeHub off a.v else .next s
  | .core k off => if whole off then .next (s.writeCoreReg k off a.v) else .next s
  | .bar0 off =>
    if off < 0x8000 then s.writeBox (boxNo (off / 0x1000)) (off % 0x1000) a.v a.bytes
    else if 0x800000 ≤ off && bits s.sys.bootCfg 8 8 = 1 && whole off then s.writeWindow (off - 0x800000) a.v
    else .next s

end Sys2Proof.Machine
end

