-- ==== Sys2Proof/Machine/Dispatch.lean ====
section
/-!
DEFINITION. One arm per constructor of `Instr`: its meaning.
-/
namespace Sys2Proof.Machine

def exec (i : Instr) (s : State) : Host.Outcome State Fault Refusal :=
  match i with
  | .nop n0 => Sys2Proof.Machine.execNop n0 s
  | .bra n0 off prio => Sys2Proof.Machine.execBra n0 off prio s
  | .bp n0 p off prio => Sys2Proof.Machine.execBp n0 p off prio s
  | .bpz n0 p off prio => Sys2Proof.Machine.execBpz n0 p off prio s
  | .ball n0 p off prio => Sys2Proof.Machine.execBall n0 p off prio s
  | .bany n0 p off prio => Sys2Proof.Machine.execBany n0 p off prio s
  | .call n0 off prio => Sys2Proof.Machine.execCall n0 off prio s
  | .ret n0 => Sys2Proof.Machine.execRet n0 s
  | .jmp n0 a => Sys2Proof.Machine.execJmp n0 a s
  | .jmpv n0 a => Sys2Proof.Machine.execJmpv n0 a s
  | .exit n0 => Sys2Proof.Machine.execExit n0 s
  | .setprio n0 n => Sys2Proof.Machine.execSetprio n0 n s
  | .trap n0 n => Sys2Proof.Machine.execTrap n0 n s
  | .rett n0 => Sys2Proof.Machine.execRett n0 s
  | .brk n0 n => Sys2Proof.Machine.execBrk n0 n s
  | .yieldAll n0 x m => Sys2Proof.Machine.execYieldAll n0 x m s
  | .yieldAny n0 x m => Sys2Proof.Machine.execYieldAny n0 x m s
  | .yieldAt n0 x m => Sys2Proof.Machine.execYieldAt n0 x m s
  | .live n0 n => Sys2Proof.Machine.execLive n0 n s
  | .fork n0 p off prio => Sys2Proof.Machine.execFork n0 p off prio s
  | .bts n0 t off prio => Sys2Proof.Machine.execBts n0 t off prio s
  | .btb n0 t off prio => Sys2Proof.Machine.execBtb n0 t off prio s
  | .bth n0 t off prio => Sys2Proof.Machine.execBth n0 t off prio s
  | .btl n0 t delta off prio => Sys2Proof.Machine.execBtl n0 t delta off prio s
  | .smov n0 d a => Sys2Proof.Machine.execSmov n0 d a s
  | .sli n0 d imm => Sys2Proof.Machine.execSli n0 d imm s
  | .slih n0 d imm => Sys2Proof.Machine.execSlih n0 d imm s
  | .sadd n0 d a b => Sys2Proof.Machine.execSadd n0 d a b s
  | .ssub n0 d a b => Sys2Proof.Machine.execSsub n0 d a b s
  | .saddi n0 d a imm => Sys2Proof.Machine.execSaddi n0 d a imm s
  | .smul n0 d a b => Sys2Proof.Machine.execSmul n0 d a b s
  | .smulhI n0 d a b => Sys2Proof.Machine.execSmulhI n0 d a b s
  | .smulhN n0 d a b => Sys2Proof.Machine.execSmulhN n0 d a b s
  | .sand n0 d a b => Sys2Proof.Machine.execSand n0 d a b s
  | .sor n0 d a b => Sys2Proof.Machine.execSor n0 d a b s
  | .sxor n0 d a b => Sys2Proof.Machine.execSxor n0 d a b s
  | .snot n0 d a => Sys2Proof.Machine.execSnot n0 d a s
  | .sshl n0 d a b => Sys2Proof.Machine.execSshl n0 d a b s
  | .sshr n0 d a b => Sys2Proof.Machine.execSshr n0 d a b s
  | .ssra n0 d a b => Sys2Proof.Machine.execSsra n0 d a b s
  | .sminI n0 d a b => Sys2Proof.Machine.execSminI n0 d a b s
  | .sminN n0 d a b => Sys2Proof.Machine.execSminN n0 d a b s
  | .smaxI n0 d a b => Sys2Proof.Machine.execSmaxI n0 d a b s
  | .smaxN n0 d a b => Sys2Proof.Machine.execSmaxN n0 d a b s
  | .sclz n0 d a => Sys2Proof.Machine.execSclz n0 d a s
  | .spop n0 d a => Sys2Proof.Machine.execSpop n0 d a s
  | .sbfx n0 d a sg f => Sys2Proof.Machine.execSbfx n0 d a sg f s
  | .sbfi n0 d a f => Sys2Proof.Machine.execSbfi n0 d a f s
  | .scmp n0 d a b cc sg => Sys2Proof.Machine.execScmp n0 d a b cc sg s
  | .ssel n0 d a b c => Sys2Proof.Machine.execSsel n0 d a b c s
  | .sreg n0 d n => Sys2Proof.Machine.execSreg n0 d n s
  | .vmov n0 d a => Sys2Proof.Machine.execVmov n0 d a s
  | .vli n0 d imm => Sys2Proof.Machine.execVli n0 d imm s
  | .vadd n0 d a b => Sys2Proof.Machine.execVadd n0 d a b s
  | .vsub n0 d a b => Sys2Proof.Machine.execVsub n0 d a b s
  | .vaddi n0 d a imm => Sys2Proof.Machine.execVaddi n0 d a imm s
  | .vmul n0 d a b => Sys2Proof.Machine.execVmul n0 d a b s
  | .vmulhI n0 d a b => Sys2Proof.Machine.execVmulhI n0 d a b s
  | .vmulhN n0 d a b => Sys2Proof.Machine.execVmulhN n0 d a b s
  | .vmad n0 d a b c => Sys2Proof.Machine.execVmad n0 d a b c s
  | .vand n0 d a b => Sys2Proof.Machine.execVand n0 d a b s
  | .vor n0 d a b => Sys2Proof.Machine.execVor n0 d a b s
  | .vxor n0 d a b => Sys2Proof.Machine.execVxor n0 d a b s
  | .vnot n0 d a => Sys2Proof.Machine.execVnot n0 d a s
  | .vshl n0 d a b => Sys2Proof.Machine.execVshl n0 d a b s
  | .vshr n0 d a b => Sys2Proof.Machine.execVshr n0 d a b s
  | .vsra n0 d a b => Sys2Proof.Machine.execVsra n0 d a b s
  | .vmin n0 d a b sg => Sys2Proof.Machine.execVmin n0 d a b sg s
  | .vmax n0 d a b sg => Sys2Proof.Machine.execVmax n0 d a b sg s
  | .vabs n0 d a => Sys2Proof.Machine.execVabs n0 d a s
  | .vclz n0 d a => Sys2Proof.Machine.execVclz n0 d a s
  | .vpop n0 d a => Sys2Proof.Machine.execVpop n0 d a s
  | .vbfx n0 d a sg f => Sys2Proof.Machine.execVbfx n0 d a sg f s
  | .vbfi n0 d a f => Sys2Proof.Machine.execVbfi n0 d a f s
  | .vcmp n0 d a b cc sg => Sys2Proof.Machine.execVcmp n0 d a b cc sg s
  | .vsel n0 d a b p => Sys2Proof.Machine.execVsel n0 d a b p s
  | .fadd n0 d a b => Sys2Proof.Machine.execFadd n0 d a b s
  | .fsub n0 d a b => Sys2Proof.Machine.execFsub n0 d a b s
  | .fmul n0 d a b => Sys2Proof.Machine.execFmul n0 d a b s
  | .ffma n0 d a b c fv => Sys2Proof.Machine.execFfma n0 d a b c fv s
  | .fmin n0 d a b => Sys2Proof.Machine.execFmin n0 d a b s
  | .fmax n0 d a b => Sys2Proof.Machine.execFmax n0 d a b s
  | .fabs n0 d a => Sys2Proof.Machine.execFabs n0 d a s
  | .fneg n0 d a => Sys2Proof.Machine.execFneg n0 d a s
  | .fcmp n0 d a b cc => Sys2Proof.Machine.execFcmp n0 d a b cc s
  | .frcp n0 d a => Sys2Proof.Machine.execFrcp n0 d a s
  | .frsq n0 d a => Sys2Proof.Machine.execFrsq n0 d a s
  | .fsqrt n0 d a => Sys2Proof.Machine.execFsqrt n0 d a s
  | .fex2 n0 d a => Sys2Proof.Machine.execFex2 n0 d a s
  | .flg2 n0 d a => Sys2Proof.Machine.execFlg2 n0 d a s
  | .fsin n0 d a => Sys2Proof.Machine.execFsin n0 d a s
  | .fcos n0 d a => Sys2Proof.Machine.execFcos n0 d a s
  | .frnd n0 d a rm => Sys2Proof.Machine.execFrnd n0 d a rm s
  | .fclass n0 d a => Sys2Proof.Machine.execFclass n0 d a s
  | .cvt n0 d a rm sat dst src => Sys2Proof.Machine.execCvt n0 d a rm sat dst src s
  | .haddBf n0 d a b => Sys2Proof.Machine.execHaddBf n0 d a b s
  | .hmulBf n0 d a b => Sys2Proof.Machine.execHmulBf n0 d a b s
  | .hfmaBf n0 d a b c fv => Sys2Proof.Machine.execHfmaBf n0 d a b c fv s
  | .haddH n0 d a b => Sys2Proof.Machine.execHaddH n0 d a b s
  | .hmulH n0 d a b => Sys2Proof.Machine.execHmulH n0 d a b s
  | .hfmaH n0 d a b c fv => Sys2Proof.Machine.execHfmaH n0 d a b c fv s
  | .shflIdx n0 d a b => Sys2Proof.Machine.execShflIdx n0 d a b s
  | .shflN n0 d a k n => Sys2Proof.Machine.execShflN n0 d a k n s
  | .bcast n0 d a b => Sys2Proof.Machine.execBcast n0 d a b s
  | .vote n0 d a => Sys2Proof.Machine.execVote n0 d a s
  | .vred n0 d a op => Sys2Proof.Machine.execVred n0 d a op s
  | .vscan n0 d a op ex => Sys2Proof.Machine.execVscan n0 d a op ex s
  | .vlane n0 d => Sys2Proof.Machine.execVlane n0 d s
  | .pand n0 d a b => Sys2Proof.Machine.execPand n0 d a b s
  | .por n0 d a b => Sys2Proof.Machine.execPor n0 d a b s
  | .pxor n0 d a b => Sys2Proof.Machine.execPxor n0 d a b s
  | .pnot n0 d a => Sys2Proof.Machine.execPnot n0 d a s
  | .pmov n0 d a => Sys2Proof.Machine.execPmov n0 d a s
  | .pget n0 d a => Sys2Proof.Machine.execPget n0 d a s
  | .ld n0 m => Sys2Proof.Machine.execLd n0 m s
  | .st n0 m => Sys2Proof.Machine.execSt n0 m s
  | .atomAdd n0 m => Sys2Proof.Machine.execAtomAdd n0 m s
  | .atomMin n0 m => Sys2Proof.Machine.execAtomMin n0 m s
  | .atomMax n0 m => Sys2Proof.Machine.execAtomMax n0 m s
  | .atomAnd n0 m => Sys2Proof.Machine.execAtomAnd n0 m s
  | .atomOr n0 m => Sys2Proof.Machine.execAtomOr n0 m s
  | .atomXor n0 m => Sys2Proof.Machine.execAtomXor n0 m s
  | .atomXchg n0 m => Sys2Proof.Machine.execAtomXchg n0 m s
  | .atomCas n0 m => Sys2Proof.Machine.execAtomCas n0 m s
  | .atomInc n0 m => Sys2Proof.Machine.execAtomInc n0 m s
  | .atomFadd n0 m => Sys2Proof.Machine.execAtomFadd n0 m s
  | .redAdd n0 m => Sys2Proof.Machine.execRedAdd n0 m s
  | .redMin n0 m => Sys2Proof.Machine.execRedMin n0 m s
  | .redMax n0 m => Sys2Proof.Machine.execRedMax n0 m s
  | .redFadd n0 m => Sys2Proof.Machine.execRedFadd n0 m s
  | .pf n0 m => Sys2Proof.Machine.execPf n0 m s
  | .bchk n0 m => Sys2Proof.Machine.execBchk n0 m s
  | .bmeta n0 m => Sys2Proof.Machine.execBmeta n0 m s
  | .lds n0 m => Sys2Proof.Machine.execLds n0 m s
  | .sts n0 m => Sys2Proof.Machine.execSts n0 m s
  | .atomsAdd n0 m => Sys2Proof.Machine.execAtomsAdd n0 m s
  | .atomsCas n0 m => Sys2Proof.Machine.execAtomsCas n0 m s
  | .plpack n0 d a b w => Sys2Proof.Machine.execPlpack n0 d a b w s
  | .plunpack n0 d a b w => Sys2Proof.Machine.execPlunpack n0 d a b w s
  | .l1cfg n0 a t => Sys2Proof.Machine.execL1cfg n0 a t s
  | .copy n0 a t sc rel => Sys2Proof.Machine.execCopy n0 a t sc rel s
  | .cwp n0 d a => Sys2Proof.Machine.execCwp n0 d a s
  | .fence n0 sc k => Sys2Proof.Machine.execFence n0 sc k s
  | .watch n0 m => Sys2Proof.Machine.execWatch n0 m s
  | .mldA n0 a t l f => Sys2Proof.Machine.execMldA n0 a t l f s
  | .mldB n0 a t l f sm => Sys2Proof.Machine.execMldB n0 a t l f sm s
  | .mma n0 a t => Sys2Proof.Machine.execMma n0 a t s
  | .mdrain n0 a t f => Sys2Proof.Machine.execMdrain n0 a t f s
  | .mzero n0 t => Sys2Proof.Machine.execMzero n0 t s
  | .mstat n0 d n => Sys2Proof.Machine.execMstat n0 d n s
  | .lrec n0 a l => Sys2Proof.Machine.execLrec n0 a l s
  | .lconf n0 d => Sys2Proof.Machine.execLconf n0 d s
  | .lconfClr n0 d => Sys2Proof.Machine.execLconfClr n0 d s
  | .qnt n0 d a b f => Sys2Proof.Machine.execQnt n0 d a b f s
  | .qntScale n0 d a c f => Sys2Proof.Machine.execQntScale n0 d a c f s
  | .dqnt n0 d a b f => Sys2Proof.Machine.execDqnt n0 d a b f s
  | .bscale n0 d a f => Sys2Proof.Machine.execBscale n0 d a f s
  | .fslot n0 d f h => Sys2Proof.Machine.execFslot n0 d f h s
  | .tcount n0 d a w => Sys2Proof.Machine.execTcount n0 d a w s
  | .tnow n0 d => Sys2Proof.Machine.execTnow n0 d s
  | .tget n0 d a => Sys2Proof.Machine.execTget n0 d a s
  | .tset n0 d a => Sys2Proof.Machine.execTset n0 d a s
  | .tmin n0 d a b => Sys2Proof.Machine.execTmin n0 d a b s
  | .tmax n0 d a b => Sys2Proof.Machine.execTmax n0 d a b s
  | .tadd n0 d a b n => Sys2Proof.Machine.execTadd n0 d a b n s
  | .tsort n0 d a b => Sys2Proof.Machine.execTsort n0 d a b s
  | .tclr n0 d l => Sys2Proof.Machine.execTclr n0 d l s
  | .trep n0 d => Sys2Proof.Machine.execTrep n0 d s
  | .barInit n0 d a n => Sys2Proof.Machine.execBarInit n0 d a n s
  | .barArrive n0 d => Sys2Proof.Machine.execBarArrive n0 d s
  | .barWait n0 d => Sys2Proof.Machine.execBarWait n0 d s
  | .barThen n0 d off => Sys2Proof.Machine.execBarThen n0 d off s
  | .barBytes n0 d a => Sys2Proof.Machine.execBarBytes n0 d a s
  | .barPhase n0 d a => Sys2Proof.Machine.execBarPhase n0 d a s
  | .ringInit n0 d a n strict size => Sys2Proof.Machine.execRingInit n0 d a n strict size s
  | .ringFill n0 a => Sys2Proof.Machine.execRingFill n0 a s
  | .ringAwait n0 d a => Sys2Proof.Machine.execRingAwait n0 d a s
  | .ringRelease n0 a => Sys2Proof.Machine.execRingRelease n0 a s
  | .ringState n0 d a => Sys2Proof.Machine.execRingState n0 d a s
  | .mwait n0 n => Sys2Proof.Machine.execMwait n0 n s
  | .qbindPin n0 a => Sys2Proof.Machine.execQbindPin n0 a s
  | .qbind n0 a => Sys2Proof.Machine.execQbind n0 a s
  | .qpush n0 d a t => Sys2Proof.Machine.execQpush n0 d a t s
  | .qpop n0 d a t => Sys2Proof.Machine.execQpop n0 d a t s
  | .qpeek n0 d a t => Sys2Proof.Machine.execQpeek n0 d a t s
  | .qlen n0 d a => Sys2Proof.Machine.execQlen n0 d a s
  | .bgt n0 d => Sys2Proof.Machine.execBgt n0 d s
  | .dline n0 d => Sys2Proof.Machine.execDline n0 d s
  | .ergr n0 d => Sys2Proof.Machine.execErgr n0 d s
  | .ctrr n0 d k => Sys2Proof.Machine.execCtrr n0 d k s
  | .ctrcSet n0 d a b => Sys2Proof.Machine.execCtrcSet n0 d a b s
  | .ctrcClr n0 d => Sys2Proof.Machine.execCtrcClr n0 d s
  | .ctrcStop n0 d => Sys2Proof.Machine.execCtrcStop n0 d s
  | .ctrcStart n0 d => Sys2Proof.Machine.execCtrcStart n0 d s
  | .smark n0 a n => Sys2Proof.Machine.execSmark n0 a n s
  | .powerOnReset => Sys2Proof.Machine.execPowerOnReset s
  | .fundamentalReset => Sys2Proof.Machine.execFundamentalReset s
  | .readyBitRise => Sys2Proof.Machine.execReadyBitRise s
  | .lifecycleChange => Sys2Proof.Machine.execLifecycleChange s
  | .bootcfgWrite => Sys2Proof.Machine.execBootcfgWrite s
  | .attestationRequest => Sys2Proof.Machine.execAttestationRequest s
  | .attestationReportSigned => Sys2Proof.Machine.execAttestationReportSigned s
  | .mailboxDoorbellSet => Sys2Proof.Machine.execMailboxDoorbellSet s
  | .mailboxDoorbellClear => Sys2Proof.Machine.execMailboxDoorbellClear s
  | .hostMemoryAccess => Sys2Proof.Machine.execHostMemoryAccess s
  | .hostQueuePush => Sys2Proof.Machine.execHostQueuePush s
  | .peerRequest => Sys2Proof.Machine.execPeerRequest s
  | .peerRefusal => Sys2Proof.Machine.execPeerRefusal s
  | .hostCompletion => Sys2Proof.Machine.execHostCompletion s
  | .pathAllowanceOverrun => Sys2Proof.Machine.execPathAllowanceOverrun s
  | .fabricLinkReplay => Sys2Proof.Machine.execFabricLinkReplay s
  | .dieLinkReplay => Sys2Proof.Machine.execDieLinkReplay s
  | .fabricLinkDown => Sys2Proof.Machine.execFabricLinkDown s
  | .fabricLinkUp => Sys2Proof.Machine.execFabricLinkUp s
  | .fabricLinkRetrainTimeout => Sys2Proof.Machine.execFabricLinkRetrainTimeout s
  | .ptpEventTimestamp => Sys2Proof.Machine.execPtpEventTimestamp s
  | .instructionFetchFill => Sys2Proof.Machine.execInstructionFetchFill s
  | .clauseHeader => Sys2Proof.Machine.execClauseHeader s
  | .fairnessTimerExpiry => Sys2Proof.Machine.execFairnessTimerExpiry s
  | .recordWriteDone => Sys2Proof.Machine.execRecordWriteDone s
  | .relaunch => Sys2Proof.Machine.execRelaunch s
  | .relaunchComplete => Sys2Proof.Machine.execRelaunchComplete s
  | .wakeTimeReached => Sys2Proof.Machine.execWakeTimeReached s
  | .mwaitTimeout => Sys2Proof.Machine.execMwaitTimeout s
  | .detachedTimerSettle => Sys2Proof.Machine.execDetachedTimerSettle s
  | .probePass => Sys2Proof.Machine.execProbePass s
  | .requestLanding => Sys2Proof.Machine.execRequestLanding s
  | .requestBreak => Sys2Proof.Machine.execRequestBreak s
  | .heldResolution => Sys2Proof.Machine.execHeldResolution s
  | .heldConvertClass3 => Sys2Proof.Machine.execHeldConvertClass3 s
  | .stewardLaunchSubmit => Sys2Proof.Machine.execStewardLaunchSubmit s
  | .dispatchTake => Sys2Proof.Machine.execDispatchTake s
  | .crewPlacement => Sys2Proof.Machine.execCrewPlacement s
  | .affinityFallback => Sys2Proof.Machine.execAffinityFallback s
  | .crewRetire => Sys2Proof.Machine.execCrewRetire s
  | .partitionZeroDone => Sys2Proof.Machine.execPartitionZeroDone s
  | .l1cfgComplete => Sys2Proof.Machine.execL1cfgComplete s
  | .channelTakeCommand => Sys2Proof.Machine.execChannelTakeCommand s
  | .copyRowLanding => Sys2Proof.Machine.execCopyRowLanding s
  | .lapidaryOpStart => Sys2Proof.Machine.execLapidaryOpStart s
  | .lapidaryOpComplete => Sys2Proof.Machine.execLapidaryOpComplete s
  | .storePerformed => Sys2Proof.Machine.execStorePerformed s
  | .atomicPerformed => Sys2Proof.Machine.execAtomicPerformed s
  | .l2VictimWriteback => Sys2Proof.Machine.execL2VictimWriteback s
  | .writeThroughPerform => Sys2Proof.Machine.execWriteThroughPerform s
  | .mscSectorFill => Sys2Proof.Machine.execMscSectorFill s
  | .hbmRefresh => Sys2Proof.Machine.execHbmRefresh s
  | .stackTempCrossing => Sys2Proof.Machine.execStackTempCrossing s
  | .eccError => Sys2Proof.Machine.execEccError s
  | .scrub => Sys2Proof.Machine.execScrub s
  | .hbmDeadMark => Sys2Proof.Machine.execHbmDeadMark s
  | .hbmDeadLoad => Sys2Proof.Machine.execHbmDeadLoad s
  | .queueUnitRequest => Sys2Proof.Machine.execQueueUnitRequest s
  | .queueRefillLanding => Sys2Proof.Machine.execQueueRefillLanding s
  | .queueSwapIn => Sys2Proof.Machine.execQueueSwapIn s
  | .queueSwapInDone => Sys2Proof.Machine.execQueueSwapInDone s
  | .budgetExhausted => Sys2Proof.Machine.execBudgetExhausted s
  | .ctxSwitchIn => Sys2Proof.Machine.execCtxSwitchIn s
  | .ctxSwitchOut => Sys2Proof.Machine.execCtxSwitchOut s
  | .contextBankExchange => Sys2Proof.Machine.execContextBankExchange s
  | .lapidaryRestore => Sys2Proof.Machine.execLapidaryRestore s
  | .scratchpadSpill => Sys2Proof.Machine.execScratchpadSpill s
  | .ctxKill => Sys2Proof.Machine.execCtxKill s
  | .ctxKillCrew => Sys2Proof.Machine.execCtxKillCrew s
  | .ctxResumeGang => Sys2Proof.Machine.execCtxResumeGang s
  | .ctxMigrateCrew => Sys2Proof.Machine.execCtxMigrateCrew s
  | .ctxRaiseBudget => Sys2Proof.Machine.execCtxRaiseBudget s
  | .ctxRevokeRecord => Sys2Proof.Machine.execCtxRevokeRecord s
  | .ctxReinstateRecord => Sys2Proof.Machine.execCtxReinstateRecord s
  | .revokeDone => Sys2Proof.Machine.execRevokeDone s
  | .hangWatchdogExpiry => Sys2Proof.Machine.execHangWatchdogExpiry s
  | .spillWatchdogExpiry => Sys2Proof.Machine.execSpillWatchdogExpiry s
  | .thermalThresholdCrossing => Sys2Proof.Machine.execThermalThresholdCrossing s
  | .migrationRefused => Sys2Proof.Machine.execMigrationRefused s
  | .migrationMoveBegin => Sys2Proof.Machine.execMigrationMoveBegin s
  | .migrationRemap => Sys2Proof.Machine.execMigrationRemap s
  | .tokenPeriodBoundary => Sys2Proof.Machine.execTokenPeriodBoundary s
  | .arbiterRound => Sys2Proof.Machine.execArbiterRound s
  | .throttle => Sys2Proof.Machine.execThrottle s
  | .pwrStatLicWrite => Sys2Proof.Machine.execPwrStatLicWrite s
  | .tokOffer => Sys2Proof.Machine.execTokOffer s
  | .tokenOfferReceived => Sys2Proof.Machine.execTokenOfferReceived s
  | .tokenAckReceived => Sys2Proof.Machine.execTokenAckReceived s
  | .tokenRefuseReceived => Sys2Proof.Machine.execTokenRefuseReceived s
  | .tokenCommitReceived => Sys2Proof.Machine.execTokenCommitReceived s
  | .clkStepArm => Sys2Proof.Machine.execClkStepArm s
  | .frequencyStep => Sys2Proof.Machine.execFrequencyStep s
  | .frequencyHoldEnd => Sys2Proof.Machine.execFrequencyHoldEnd s
  | .timeAdjSlew => Sys2Proof.Machine.execTimeAdjSlew s
  | .timeAdjStep => Sys2Proof.Machine.execTimeAdjStep s
  | .forwardStepApply => Sys2Proof.Machine.execForwardStepApply s
  | .brkcRead => Sys2Proof.Machine.execBrkcRead s
  | .errcRead => Sys2Proof.Machine.execErrcRead s
  | .contStatRead => Sys2Proof.Machine.execContStatRead s
  | .contOvfRead => Sys2Proof.Machine.execContOvfRead s
  | .trcCntRead => Sys2Proof.Machine.execTrcCntRead s
  | .registerWrite => Sys2Proof.Machine.execRegisterWrite s
  | .plpackLastWrite => Sys2Proof.Machine.execPlpackLastWrite s
  | .preloadDone => Sys2Proof.Machine.execPreloadDone s
  | .spillDone => Sys2Proof.Machine.execSpillDone s
  | .sensorReadsBelowTherm => Sys2Proof.Machine.execSensorReadsBelowTherm s

end Sys2Proof.Machine
end

