-- ==== Sys2Proof/Machine/Step.lean ====
section
/-!
DEFINITION. One step of the device. Within a tick the quarters issue first, and the probes that wait are attempted again, in the
order of R57; then the agenda's entries whose
time has come take place, in the order in which they came due; a die whose clock runs faster than the ticks then issues its
second clock of the tick, after which the entries of that clock take place; then device time moves on (R46, R51, R97).
-/
namespace Sys2Proof.Machine

/-- The gang issues: a header at a clause boundary, else the word it has reached. -/
def issueGang (g : Gang) (s : State) : Host.Outcome State Fault Refusal :=
  match g.clause with
  | none => exec .clauseHeader s
  | some c =>
    let w := s.wordsAt g c
    match decode c.cls w.1 w.2 with
    | some i => exec i s
    | none => execIllegal s

/-- The state in which a gang issues: it is the issuing gang, and the round has come to its quarter. -/
def State.toIssue (s : State) (g : Gang) : State :=
  s.setOwn { s.own with cur := g.key, pos := g.pos + 1
                        issued := match g.slot? with
                          | some (q, _) => (g.core, q, g.key) :: s.own.issued
                          | none => s.own.issued }

/-- What an agenda entry brings about. -/
def runDue (d : Due) (s : State) : Host.Outcome State Fault Refusal :=
  match d.task with
  | .ev i => exec i s
  | .perform => .next s.performDue
  | .tagRead => .next s.tagReadDue
  | .rowRead => .next s.rowReadDue
  | .rowWrite => .next s.rowWriteDue
  | .stageRead => .next s.stageReadDue
  | .hubWrite => .next s.hubWriteDue
  | .ringOut => .next s.ringOutDue
  | .ringWrite => .next s.ringWriteDue
  | .lineDone => .next (s.release s.arg.n)
  | .reprobe => .next s.walkDone
  | .copyAgain => .next s.copyAgainDue
  | .barTest => .next (s.barTest (crewKeyOf s.arg.key) ⟨s.arg.n % 32, Nat.mod_lt _ (by decide)⟩)

/-- The state with an entry taken from the agenda, its operands in `arg`, and the present round closed. -/
def State.toServe (s : State) (d : Due) (rest : List Due) : State :=
  ((s.setAgenda rest).setArg d.arg).setOwn { s.own with pos := 1024 }

/-- The state with a waiting probe's entry taken from the agenda; its gang issues no word in this clock any more. -/
def State.toProbe (s : State) (d : Due) (rest : List Due) : State :=
  let s := (s.setAgenda rest).setArg d.arg
  match s.gang? d.arg.key with
  | some x => s.putGang { x with readyAt := max x.readyAt (s.clock x.core + 1) }
  | none => s

/-- One step. -/
def step (s : State) : Host.Outcome State Fault Refusal :=
  match s.fetcher with
  | some (g, a) => .next (s.startFetch g a)
  | none =>
    match s.nextGang with
    | some g =>
      match s.probeFirst g with
      | some (d, rest) => runDue d (s.toProbe d rest)
      | none => issueGang g (s.toIssue g)
    | none =>
      match takeFirst s.comes s.agenda with
      | some (d, rest) => runDue d (s.toServe d rest)
      | none => if s.moreRounds then .next s.nextRound else .next s.nextTick

/-! ## Placing one instruction where the machine fetches its next one -/

/-- The gang that stands inside a clause of class `c` at a word (assumption row 3). -/
def probeGang (c : Cls) (left : Nat) : Gang :=
  { key := ⟨0, 0, 0⟩, ctx := 0, core := 0, place := .slot 0 0, role := .general, live := 12
    s := Vector.replicate 64 0, v := Vector.replicate 192 (Vector.replicate 32 0), p := Vector.replicate 8 0
    t := Vector.replicate 16 TimeReg.reset, front := [], sel := some ⟨0x1000, 31, 0xFFFFFFFF⟩
    clause := some ⟨0x1000, 0x1004, left, c⟩, lastPc := none, rotPoint := false, fair := 0, rotPend := false, round := none
    trap := none, hmask := 0, strict := none, budgeted := false, timedOut := false, readyAt := 0, wait := false, stall := 0
    probing := none, opnd := 0, block := [], marks := [], probeAt := (0, 0), pend := [], fences := [], obsT := Vector.replicate 16 0, obs := 0, hd := Rec.reset }

/-- A launch record of one crew of one gang with 192 vector registers and 32 barrier slots. -/
def probeSlice : Slice :=
  { id := 0, ctx := 0
    record := #v[0x0100000000001000, 0x0000000100010001, 0x00010C0000002000, 0x0000000000010000, 0, 0, 0, 0,
                 0, 0, 0, 0, 0, 0, 0, 0, 0, 0, 0, 0, 0, 0, 0, 0, 0, 0, 0, 0, 0, 0, 0, 0]
    args := #v[0, 0, 0], deadline := 0, budget := 0, limited := false, count := 0, acc := 0, accShown := 0, accRem := 0
    nextCrew := 1, rr := 0, tries := 0, fallback := false, spent := false }

/-- The crew of that gang. -/
def probeCrew : Crew :=
  { key := ⟨0, 0⟩, ctx := 0, index := 0, core := 0, partBase := 0, partLen := 65536, bars := 32
    bind := Vector.ofFn fun i => 16 * i.val, regs := [], reserve := 51584, mig := none, killed := false, resident := true, held := false }

/-- The context of that gang: running, its tables at address 0. -/
def probeCtx : Ctx :=
  { id := 0, record := Vector.replicate 16 0, addr := 0, map := Vector.ofFn fun i => i, revoked := [], pages := [], killing := false
    resolved := [] }

/-- The state with the instruction of a table word stored where `step` fetches its next one: a gang of core 0 inside a
clause of the class that `decodeTableWord` finds, whose words stand in the core's instruction cache at 0x1004. -/
def State.withFetchWord (s : State) (_nbits w : Nat) : State :=
  let lo := w % 0x100000000
  let hi := w / 0x100000000 % 0x100000000
  let c := match decodeTableWord 64 w with
    | some i => i.cls?.getD .ctl
    | none => .ctl
  let words : List Word := [0, BitVec.ofNat 32 lo, BitVec.ofNat 32 hi] ++ List.replicate 29 0
  let left := if c.extended (fOP lo) then 2 else 1
  let s := (((s.setGangs [probeGang c left]).setCrews [probeCrew]).setSlices [probeSlice]).setCtxs [probeCtx]
  let s := s.setCore 0 { s.core 0 with active := some 0, icache := [⟨0, 0x1000, words⟩] }
  s.setOwn { s.own with round := 0, pos := 0 }

end Sys2Proof.Machine
end

