-- ==== Sys2Proof/Safety.lean ====
section
/-!
DEFINITION. What a safe run is, and the terms in which the claims speak: canonical memories, words that may issue, what a
word leaves untouched.
-/
namespace Sys2Proof

open Machine

/-- The machine takes a step from `s` to `t`. -/
def Steps (s t : State) : Prop := step s = .next t

/-- Device memory and the scratchpad of every core are in canonical form: addresses strictly rising, no zero listed. -/
def MemoryOk (s : State) : Prop := Memory.wf s.mem = true ∧ ∀ k, Memory.wf (s.core k).spad = true

/-- The launch of a gang has the checking scoreboard on (R25, R81). -/
def checks (s : State) (g : Gang) : Bool := match s.slice? g.key.launch with | some l => l.check | none => false

/-- The conditions on the machine and the operands under which a word raises no trap before its own effect: the gang's role
may issue it (R40), its vector registers are allocated (R33), and with the checking scoreboard no result that it reads is
still to come and no access in flight touches its registers (R25). -/
structure MayIssue (s : State) (g : Gang) (kind : WordKind) (reads writes : List RegRef) : Prop where
  role  : roleAllows g.role kind = true
  alloc : ∀ n, .v n ∈ reads ++ writes → n.val < s.alloc g
  early : checks s g = true → g.early (s.clock g.core) reads = false
  board : checks s g = true → s.unsettled g reads writes = false

/-- An earlier fixed-latency result of a scalar register is due in clock `c` or later (R25). -/
def dueS (g : Gang) (n : SReg) (c : Nat) : Prop := ∃ due old, .s n due old ∈ g.pend ∧ c ≤ due
/-- The same for a lane of a vector register. -/
def dueV (g : Gang) (n : VReg) (l c : Nat) : Prop := ∃ due m old, .v n due m old ∈ g.pend ∧ m.getLsbD l = true ∧ c ≤ due
/-- The same for a lane's bit of a predicate register. -/
def dueP (g : Gang) (n : PReg) (l c : Nat) : Prop := ∃ due m old, .p n due m old ∈ g.pend ∧ m.getLsbD l = true ∧ c ≤ due

/-- From clock `c` on every scalar register but those of `but` holds what it held and is read as it was, results still to
come included. -/
def KeepsS (x y : Gang) (c : Nat) (but : SReg → Bool) : Prop :=
  ∀ n, but n = false → y.s[n] = x.s[n] ∧ ∀ f k, c ≤ k → y.readS f k n = x.readS f k n
/-- The same for every lane of every vector register but those of `but`. -/
def KeepsV (x y : Gang) (c : Nat) (but : VReg → Nat → Bool) : Prop :=
  ∀ n l, l < 32 → but n l = false → vget y.v[n] l = vget x.v[n] l ∧ ∀ f k, c ≤ k → y.readV f k n l = x.readV f k n l
/-- The same for every bit of every predicate register but those of `but`. -/
def KeepsP (x y : Gang) (c : Nat) (but : PReg → Nat → Bool) : Prop :=
  ∀ n l, l < 32 → but n l = false → y.p[n].getLsbD l = x.p[n].getLsbD l ∧
    ∀ f k, c ≤ k → (y.readP f k n).getLsbD l = (x.readP f k n).getLsbD l

/-- No register, no lane, no bit. -/
def noneS : SReg → Bool := fun _ => false
def noneV : VReg → Nat → Bool := fun _ _ => false
def noneP : PReg → Nat → Bool := fun _ _ => false

/-- Apart from its scalar, vector and predicate registers, its place in the program (frontier, clause, next issue clock,
fairness timer) and the results still to come, the gang is as it was: time registers, trap block, live count, role, fences
and the rest. -/
def SameRest (x y : Gang) : Prop :=
  { y with s := x.s, v := x.v, p := x.p, front := x.front, sel := x.sel, clause := x.clause, lastPc := x.lastPc
           rotPoint := x.rotPoint, fair := x.fair, readyAt := x.readyAt, pend := x.pend } = x

/-- A gang other than the issuing one: it is as it was; only the overflow bit of a counter that it has read in this very
clock may have been set in a scalar register (R379). -/
def SameOther (x y : Gang) : Prop :=
  { y with s := x.s } = x ∧ ∀ n : SReg, y.s[n] = x.s[n] ∨ y.s[n] = x.s[n] ||| 0x8000000000000000

/-- A request without the notes that another write makes on it: lanes written meanwhile (R25), store data that is read again
while its registers may still change (R285). -/
def bare (r : Req) : Req := { r with mixed := [], pieces := r.pieces.map fun p => { p with data := [], data2 := [] } }

/-- What a word that works on its gang's registers alone leaves as it was: device time, every byte of memory and of every
scratchpad, caches, lapidaries, barriers, rings, monitors, copies, requests, contexts, queues, power and system registers,
and every other gang. Its issue clock counts in the event counters, the watchdog's mark and, where it is one (`issued`), the
slice (R346, R360, R376). -/
structure Untouched (s t : State) (g : Gang) (issued : Bool := true) : Prop where
  time   : t.time = s.time
  mem    : ∀ a, memGet t.mem a = memGet s.mem a
  hier   : t.hier = s.hier
  cores  : ∀ k, { t.core k with hangMark := (s.core k).hangMark, cc := { t.cc k with ev := (s.cc k).ev } } = s.core k
  saved  : t.saved = s.saved
  gangs  : ∀ k x, k ≠ g.key → s.gang? k = some x → ∃ y, t.gang? k = some y ∧ SameOther x y
  crews  : t.crews = s.crews
  slices : ∀ l, t.slice? l = (s.slice? l).map fun x => if issued = true ∧ l = g.key.launch then { x with count := x.count + 1 } else x
  reqs   : t.reqs.map bare = s.reqs.map bare
  ctxs   : t.ctxs = s.ctxs
  queues : t.queues = s.queues
  power  : t.power = s.power
  sys    : t.sys = s.sys

/-- What a word leaves whose one result is a scalar register with a latency of `lat` clocks: in `d` the value `v` stands and
is read once the latency is over, unless an earlier result of `d` is due no sooner, where either may stay (R25); every
other register of every kind, and the rest of the machine, is as before. -/
structure ScalarResult (s t : State) (g : Gang) (lat : Nat) (d : SReg) (v : DWord) : Prop where
  rest : Untouched s t g
  gang : ∃ y, t.gang? g.key = some y ∧ SameRest g y ∧
    KeepsS g y (s.clock g.core) (fun n => n == d) ∧ KeepsV g y (s.clock g.core) noneV ∧ KeepsP g y (s.clock g.core) noneP ∧
    (y.s[d] = v ∨ y.s[d] = g.s[d] ∧ dueS g d (s.clock g.core + lat)) ∧
    (¬ dueS g d (s.clock g.core + lat) → ∀ f k, s.clock g.core + lat ≤ k → y.readS f k d = v)

/-- The same for a vector register, whose lanes of `m` take `v`; the other lanes keep what they hold (R144). -/
structure VectorResult (s t : State) (g : Gang) (lat : Nat) (d : VReg) (m : Mask) (v : Nat → Word) : Prop where
  rest : Untouched s t g
  gang : ∃ y, t.gang? g.key = some y ∧ SameRest g y ∧
    KeepsS g y (s.clock g.core) noneS ∧ KeepsV g y (s.clock g.core) (fun n l => n == d && m.getLsbD l) ∧
    KeepsP g y (s.clock g.core) noneP ∧
    ∀ l, l < 32 → m.getLsbD l = true →
      (vget y.v[d] l = v l ∨ vget y.v[d] l = vget g.v[d] l ∧ dueV g d l (s.clock g.core + lat)) ∧
      (¬ dueV g d l (s.clock g.core + lat) → ∀ f k, s.clock g.core + lat ≤ k → y.readV f k d l = v l)

/-- The same for a predicate register, whose bits of `m` take those of `v` (R146). -/
structure PredResult (s t : State) (g : Gang) (lat : Nat) (d : PReg) (m : Mask) (v : Nat → Bool) : Prop where
  rest : Untouched s t g
  gang : ∃ y, t.gang? g.key = some y ∧ SameRest g y ∧
    KeepsS g y (s.clock g.core) noneS ∧ KeepsV g y (s.clock g.core) noneV ∧
    KeepsP g y (s.clock g.core) (fun n l => n == d && m.getLsbD l) ∧
    ∀ l, l < 32 → m.getLsbD l = true →
      (y.p[d].getLsbD l = v l ∨ y.p[d].getLsbD l = g.p[d].getLsbD l ∧ dueP g d l (s.clock g.core + lat)) ∧
      (¬ dueP g d l (s.clock g.core + lat) → ∀ f k, s.clock g.core + lat ≤ k → (y.readP f k d).getLsbD l = v l)

end Sys2Proof
end

