-- ==== Sys2Proof/Certificates/Slice0/Obligations.lean ====
section
/-!
DEFINITION. The claims about the model, for the provers. Helper terms stand in `Sys2Proof.Obl`; each claim is a definition
`Obligations.<Name> : Prop`.
-/
namespace Sys2Proof.Obl

open Machine

/-! ## Words that may issue -/

/-- The gang `g` is the issuing one, mid-clause in entry `e`; the word reads and writes the registers listed and raises no trap
before its own effect (R25, R33, R40). -/
def Ready (s : State) (g : Gang) (e : Entry) (c : Clause) (kind : WordKind) (reads writes : List RegRef) : Prop :=
  s.issuing = some (g, e, c) ∧ MayIssue s g kind reads writes

/-- Scalar register `n` as the issuing gang reads it now. -/
def rs (s : State) (g : Gang) (n : SReg) : DWord := g.readS s.freeNo (s.clock g.core) n
/-- Lane `l` of a vector source as the issuing gang reads it now. -/
def rv (s : State) (g : Gang) (x : VSrc) (l : Nat) : Word := g.readSrc s.freeNo (s.clock g.core) x l
/-- Predicate register `n` as the issuing gang reads it now. -/
def rp (s : State) (g : Gang) (n : PReg) : Mask := g.readP s.freeNo (s.clock g.core) n

/-! ## UNI words (R149 to R153) -/

/-- Bits of a value from position `p`, `w` of them, extended with zeros or with their top bit (R151, R157). -/
def field {n : Nat} (sg : Bool) (p w : Nat) (x : BitVec n) : BitVec n :=
  if sg then (x <<< (n - p - w)).sshiftRight (n - w) else (x <<< (n - p - w)) >>> (n - w)
/-- A value with `w` bits from position `p` replaced by the low bits of another. -/
def insert {n : Nat} (p w : Nat) (d x : BitVec n) : BitVec n :=
  let m := (BitVec.allOnes n >>> (n - w)) <<< p
  (d &&& ~~~m) ||| ((x <<< p) &&& m)
/-- An integer condition of R36 on two values read as signed or unsigned. -/
def holds {n : Nat} (cc : Cond) (sg : Bool) (a b : BitVec n) : Bool :=
  let lt := if sg then decide (a.toInt < b.toInt) else decide (a.toNat < b.toNat)
  match cc with
  | .eq => a == b | .ne => a != b | .lt => lt | .le => lt || a == b | .gt => !lt && a != b | .ge => !lt
  | .ord => true | .unord => false

/-- The UNI words with one result: the destination, the scalar registers read, the value, from the values `r` of the
registers. -/
def uni (r : SReg → DWord) : Instr → Option (SReg × List SReg × DWord)
  | .smov _ d a => some (d, [a], r a)
  | .sli _ d imm => some (d, [], imm.signExtend 64)
  | .sadd _ d a b => some (d, [a, b], r a + r b)
  | .ssub _ d a b => some (d, [a, b], r a - r b)
  | .saddi _ d a imm => some (d, [a], r a + imm.signExtend 64)
  | .smul _ d a b => some (d, [a, b], r a * r b)
  | .smulhI _ d a b => some (d, [a, b], ((r a).signExtend 128 * (r b).signExtend 128).extractLsb' 64 64)
  | .smulhN _ d a b => some (d, [a, b], ((r a).zeroExtend 128 * (r b).zeroExtend 128).extractLsb' 64 64)
  | .sand _ d a b => some (d, [a, b], r a &&& r b)
  | .sor _ d a b => some (d, [a, b], r a ||| r b)
  | .sxor _ d a b => some (d, [a, b], r a ^^^ r b)
  | .snot _ d a => some (d, [a], ~~~(r a))
  | .sshl _ d a b => some (d, [a, b], r a <<< ((r b).extractLsb' 0 6).toNat)
  | .sshr _ d a b => some (d, [a, b], r a >>> ((r b).extractLsb' 0 6).toNat)
  | .ssra _ d a b => some (d, [a, b], (r a).sshiftRight ((r b).extractLsb' 0 6).toNat)
  | .sminI _ d a b => some (d, [a, b], if (r a).toInt < (r b).toInt then r a else r b)
  | .sminN _ d a b => some (d, [a, b], if (r a).toNat < (r b).toNat then r a else r b)
  | .smaxI _ d a b => some (d, [a, b], if (r a).toInt < (r b).toInt then r b else r a)
  | .smaxN _ d a b => some (d, [a, b], if (r a).toNat < (r b).toNat then r b else r a)
  | .sclz _ d a => some (d, [a], (r a).clz)
  | .spop _ d a => some (d, [a], (r a).cpop)
  | .sbfx _ d a sg f => some (d, [a], field sg f.pos.val (f.wid.val + 1) (r a))
  | .sbfi _ d a f => some (d, [a, d], insert f.pos.val (f.wid.val + 1) (r d) (r a))
  | .scmp _ d a b cc sg => some (d, [a, b], if holds cc sg (r a) (r b) then 1 else 0)
  | .ssel _ d a b c => some (d, [a, b, c], if r c = 0 then r b else r a)
  | _ => none

/-! ## VEC words (R154 to R175) -/

/-- The integer words of VEC with one result: the destination, the registers read, the value of a lane. -/
def vecInt (r : VSrc → Nat → Word) (p : PReg → Mask) : Instr → Option (VReg × List RegRef × (Nat → Word))
  | .vmov _ d a => some (d, srcRefs a, r a)
  | .vli _ d imm => some (d, [], fun _ => imm)
  | .vadd _ d a b => some (d, srcRefs a ++ srcRefs b, fun l => r a l + r b l)
  | .vsub _ d a b => some (d, srcRefs a ++ srcRefs b, fun l => r a l - r b l)
  | .vaddi _ d a imm => some (d, srcRefs a, fun l => r a l + imm.signExtend 32)
  | .vmul _ d a b => some (d, srcRefs a ++ srcRefs b, fun l => r a l * r b l)
  | .vmulhI _ d a b => some (d, srcRefs a ++ srcRefs b, fun l =>
      ((r a l).signExtend 64 * (r b l).signExtend 64).extractLsb' 32 32)
  | .vmulhN _ d a b => some (d, srcRefs a ++ srcRefs b, fun l =>
      ((r a l).zeroExtend 64 * (r b l).zeroExtend 64).extractLsb' 32 32)
  | .vmad _ d a b c => some (d, srcRefs a ++ srcRefs b ++ srcRefs c, fun l => r a l * r b l + r c l)
  | .vand _ d a b => some (d, srcRefs a ++ srcRefs b, fun l => r a l &&& r b l)
  | .vor _ d a b => some (d, srcRefs a ++ srcRefs b, fun l => r a l ||| r b l)
  | .vxor _ d a b => some (d, srcRefs a ++ srcRefs b, fun l => r a l ^^^ r b l)
  | .vnot _ d a => some (d, srcRefs a, fun l => ~~~(r a l))
  | .vshl _ d a b => some (d, srcRefs a ++ srcRefs b, fun l => r a l <<< ((r b l).extractLsb' 0 5).toNat)
  | .vshr _ d a b => some (d, srcRefs a ++ srcRefs b, fun l => r a l >>> ((r b l).extractLsb' 0 5).toNat)
  | .vsra _ d a b => some (d, srcRefs a ++ srcRefs b, fun l => (r a l).sshiftRight ((r b l).extractLsb' 0 5).toNat)
  | .vmin _ d a b sg => some (d, srcRefs a ++ srcRefs b, fun l => if holds .lt sg (r a l) (r b l) then r a l else r b l)
  | .vmax _ d a b sg => some (d, srcRefs a ++ srcRefs b, fun l => if holds .lt sg (r a l) (r b l) then r b l else r a l)
  | .vabs _ d a => some (d, srcRefs a, fun l => if (r a l).toInt < 0 then -(r a l) else r a l)
  | .vclz _ d a => some (d, srcRefs a, fun l => (r a l).clz)
  | .vpop _ d a => some (d, srcRefs a, fun l => (r a l).cpop)
  | .vbfx _ d a sg f => some (d, srcRefs a, fun l => field sg f.pos.val (f.wid.val + 1) (r a l))
  | .vbfi _ d a f => some (d, srcRefs a ++ [.v d], fun l => insert f.pos.val (f.wid.val + 1) (r (.v d) l) (r a l))
  | .vsel _ d a b q => some (d, .p q :: srcRefs a ++ srcRefs b, fun l => if (p q).getLsbD l then r a l else r b l)
  | .vlane _ d => some (d, [], fun l => BitVec.ofNat 32 l)
  | .pget _ d q => some (d, [.p q], fun _ => p q)
  | _ => none

/-- The VEC words that write a predicate register: the destination, the latency, the registers read, whether the word writes
every bit or those of the active lanes, the bit of a lane. -/
def vecPred (r : VSrc → Nat → Word) (p : PReg → Mask) (s : SReg → DWord) (act : Mask) :
    Instr → Option (PReg × Nat × List RegRef × Bool × (Nat → Bool))
  | .vcmp _ d a b cc sg => some (d, 2, srcRefs a ++ srcRefs b, false, fun l => holds cc sg (r a l) (r b l))
  | .fcmp _ d a b cc => some (d, 4, srcRefs a ++ srcRefs b, false, fun l =>
      Fmt.f32.compare cc (r a l).toNat (r b l).toNat)
  | .pand _ d a b => some (d, 2, [.p a, .p b], false, fun l => (p a).getLsbD l && (p b).getLsbD l)
  | .por _ d a b => some (d, 2, [.p a, .p b], false, fun l => (p a).getLsbD l || (p b).getLsbD l)
  | .pxor _ d a b => some (d, 2, [.p a, .p b], false, fun l => xor ((p a).getLsbD l) ((p b).getLsbD l))
  | .pnot _ d a => some (d, 2, [.p a], false, fun l => !(p a).getLsbD l)
  | .vote _ d a => some (d, 2, srcRefs a, true, fun l => act.getLsbD l && r a l != 0)
  | .pmov _ d a => some (d, 2, [.s a], true, fun l => (s a).getLsbD l)
  | _ => none

/-- A function of an f32 lane. -/
def f1 (f : Nat → Nat) (x : Word) : Word := BitVec.ofNat 32 (f x.toNat)
/-- A function of two f32 lanes. -/
def f2 (f : Nat → Nat → Nat) (x y : Word) : Word := BitVec.ofNat 32 (f x.toNat y.toNat)
/-- An operation on the two 16-bit elements of each lane (R169). -/
def pair2 (f : Nat → Nat → Nat) (x y : Word) : Word :=
  BitVec.ofNat 16 (f (x.extractLsb' 16 16).toNat (y.extractLsb' 16 16).toNat) ++
    BitVec.ofNat 16 (f (x.extractLsb' 0 16).toNat (y.extractLsb' 0 16).toNat)
def pair3 (f : Nat → Nat → Nat → Nat) (x y z : Word) : Word :=
  BitVec.ofNat 16 (f (x.extractLsb' 16 16).toNat (y.extractLsb' 16 16).toNat (z.extractLsb' 16 16).toNat) ++
    BitVec.ofNat 16 (f (x.extractLsb' 0 16).toNat (y.extractLsb' 0 16).toNat (z.extractLsb' 0 16).toNat)

/-- The exact value that a fused multiply-add rounds (R160). -/
def fused (v : FmaVar) (a b c : FVal) : FVal :=
  match v with
  | .plain => (a.mul b).add c
  | .fms => (a.mul b).add c.neg
  | .fnma => (a.mul b).neg.add c
  | .fnms => (a.mul b).neg.add c.neg

/-- The floating words of VEC: the destination, the registers read, the value of a lane: operands at their exact values, one
rounding (R132). Every one has a latency of 4 clocks (R147). -/
def vecFloat (r : VSrc → Nat → Word) : Instr → Option (VReg × List RegRef × (Nat → Word))
  | .fadd _ d a b => some (d, srcRefs a ++ srcRefs b, fun l =>
      f2 (fun x y => Fmt.f32.encode .rn false ((Fmt.f32.decode x).add (Fmt.f32.decode y))) (r a l) (r b l))
  | .fsub _ d a b => some (d, srcRefs a ++ srcRefs b, fun l =>
      f2 (fun x y => Fmt.f32.encode .rn false ((Fmt.f32.decode x).add (Fmt.f32.decode y).neg)) (r a l) (r b l))
  | .fmul _ d a b => some (d, srcRefs a ++ srcRefs b, fun l =>
      f2 (fun x y => Fmt.f32.encode .rn false ((Fmt.f32.decode x).mul (Fmt.f32.decode y))) (r a l) (r b l))
  | .ffma _ d a b c v => some (d, srcRefs a ++ srcRefs b ++ srcRefs c, fun l =>
      BitVec.ofNat 32 (Fmt.f32.encode .rn false (fused v (Fmt.f32.decode (r a l).toNat) (Fmt.f32.decode (r b l).toNat)
        (Fmt.f32.decode (r c l).toNat))))
  | .fmin _ d a b => some (d, srcRefs a ++ srcRefs b, fun l => f2 (Fmt.f32.minMax false) (r a l) (r b l))
  | .fmax _ d a b => some (d, srcRefs a ++ srcRefs b, fun l => f2 (Fmt.f32.minMax true) (r a l) (r b l))
  | .fabs _ d a => some (d, srcRefs a, fun l =>
      if Fmt.f32.decode (r a l).toNat = .nan then 0x7FC00000 else r a l &&& 0x7FFFFFFF)
  | .fneg _ d a => some (d, srcRefs a, fun l =>
      if Fmt.f32.decode (r a l).toNat = .nan then 0x7FC00000 else r a l ^^^ 0x80000000)
  | .frnd _ d a m => some (d, srcRefs a, fun l => f1 (rnd32 m) (r a l))
  | .fclass _ d a => some (d, srcRefs a, fun l => f1 class32 (r a l))
  | .cvt _ d a m sat dst src => some (d, srcRefs a, fun l => f1 (convert dst src m sat) (r a l))
  | .haddBf _ d a b => some (d, srcRefs a ++ srcRefs b, fun l => pair2 Fmt.bf16.add (r a l) (r b l))
  | .hmulBf _ d a b => some (d, srcRefs a ++ srcRefs b, fun l => pair2 Fmt.bf16.mul (r a l) (r b l))
  | .hfmaBf _ d a b c v => some (d, srcRefs a ++ srcRefs b ++ srcRefs c, fun l =>
      pair3 (Fmt.bf16.fma v) (r a l) (r b l) (r c l))
  | .haddH _ d a b => some (d, srcRefs a ++ srcRefs b, fun l => pair2 Fmt.f16.add (r a l) (r b l))
  | .hmulH _ d a b => some (d, srcRefs a ++ srcRefs b, fun l => pair2 Fmt.f16.mul (r a l) (r b l))
  | .hfmaH _ d a b c v => some (d, srcRefs a ++ srcRefs b ++ srcRefs c, fun l =>
      pair3 (Fmt.f16.fma v) (r a l) (r b l) (r c l))
  | _ => none

/-- The seven functions of R164: the destination, the registers read, the value of a lane; each has a latency of 12 clocks. -/
def vecFun (r : VSrc → Nat → Word) : Instr → Option (VReg × List RegRef × (Nat → Word))
  | .frcp _ d a => some (d, srcRefs a, fun l => f1 rcp32 (r a l))
  | .frsq _ d a => some (d, srcRefs a, fun l => f1 rsq32 (r a l))
  | .fsqrt _ d a => some (d, srcRefs a, fun l => f1 sqrt32 (r a l))
  | .fex2 _ d a => some (d, srcRefs a, fun l => BitVec.ofNat 32 (ex2 (r a l)))
  | .flg2 _ d a => some (d, srcRefs a, fun l => BitVec.ofNat 32 (lg2 (r a l)))
  | .fsin _ d a => some (d, srcRefs a, fun l => BitVec.ofNat 32 (sin32 (r a l)))
  | .fcos _ d a => some (d, srcRefs a, fun l => BitVec.ofNat 32 (cos32 (r a l)))
  | _ => none

/-- R173's loop for one lane of the result: the accumulator after the lanes below `n` that are active. -/
def accumulate (op : RedOp) (act : Mask) (x : Nat → Word) : Nat → Word
  | 0 => redIdentity op
  | n + 1 => if act.getLsbD n then combine op (accumulate op act x n) (x n) else accumulate op act x n

/-- The words that move values between lanes (R170, R171, R173): the destination, the latency, the registers read, the value of
a lane. -/
def vecCross (r : VSrc → Nat → Word) (s : SReg → DWord) (act : Mask) :
    Instr → Option (VReg × Nat × List RegRef × (Nat → Word))
  | .shflIdx _ d a b => some (d, 4, srcRefs a ++ srcRefs b, fun l => r a ((r b l).extractLsb' 0 5).toNat)
  | .shflN _ d a k n => some (d, 4, srcRefs a, fun l => r a (match k with
      | .up => if n.val ≤ l then l - n.val else l
      | .down => if l + n.val ≤ 31 then l + n.val else l
      | .xor => l ^^^ n.val))
  | .bcast _ d a b => some (d, 4, .s b :: srcRefs a, fun _ => r a ((s b).extractLsb' 0 5).toNat)
  | .vred _ d a op => some (d, if op = .fadd ∨ op = .fmin ∨ op = .fmax then 10 else 6, srcRefs a,
      fun _ => accumulate op act (r a) 32)
  | .vscan _ d a op ex => some (d, if op = .fadd ∨ op = .fmin ∨ op = .fmax then 10 else 6, srcRefs a,
      fun l => accumulate op act (r a) (if ex then l else l + 1))
  | _ => none

/-- The entry is that of a probe which waits and is attempted again in the present clock before gang `g` issues, its gang coming first by
R57. -/
def ProbeTurn (s : State) (g : Gang) (d : Due) : Prop :=
  d.task = .ev .probePass ∧ d.tick ≤ s.now ∧ d.rank = 3 ∧ d.arg.clk = none ∧
  ∃ x, s.gang? d.arg.key = some x ∧ x.probing ≠ none ∧ x.before g = true

end Sys2Proof.Obl

section
open Sys2Proof Sys2Proof.Machine Sys2Proof.Obl

/-- Every UNI word with one result answers a next state in which sD holds the value that the spec gives, readable after 2 clocks,
and nothing else of the machine has changed (R147, R149 to R153). `slih` replaces the high word of sD and keeps its low word (R149). -/
def Obligations.UniResults : Prop :=
  (
  ∀ (s : State) (g : Gang) (e : Entry) (c : Clause) (i : Instr) (d : SReg) (as : List SReg) (v : DWord),
    wellFormed i = true → uni (rs s g) i = some (d, as, v) →
    Ready s g e c .free (as.map .s) [.s d] →
    ∃ t, exec i s = .next t ∧ (e.mask ≠ 0 → ScalarResult s t g 2 d v)) ∧
  (
  ∀ (s : State) (g : Gang) (e : Entry) (c : Clause) (n : Stall) (d : SReg) (imm : Word),
    Ready s g e c .free [] [.s d] →
    ∃ t, exec (.slih n d imm) s = .next t ∧ (e.mask ≠ 0 → ScalarResult s t g 2 d (imm ++ (g.s[d]).extractLsb' 0 32)))

/-- The integer, bitwise, field, select and lane-number words of VEC, and `pget`: the active lanes of vD take the value that the
spec gives, readable after 2 clocks; inactive lanes and the rest of the machine are as before. -/
def Obligations.VecIntegerResults : Prop :=
  ∀ (s : State) (g : Gang) (e : Entry) (c : Clause) (i : Instr) (d : VReg) (rd : List RegRef) (v : Nat → Word),
    wellFormed i = true → vecInt (rv s g) (rp s g) i = some (d, rd, v) →
    Ready s g e c .vec rd [.v d] →
    ∃ t, exec i s = .next t ∧ (e.mask ≠ 0 → VectorResult s t g 2 d e.mask v)

/-- The words that write a predicate register: comparisons and predicate operations write the bits of the active lanes, `vote` and
`pmov` all 32 (R146). -/
def Obligations.PredicateResults : Prop :=
  ∀ (s : State) (g : Gang) (e : Entry) (c : Clause) (i : Instr) (d : PReg) (lat : Nat) (rd : List RegRef) (whole : Bool)
    (v : Nat → Bool), wellFormed i = true → vecPred (rv s g) (rp s g) (rs s g) e.mask i = some (d, lat, rd, whole, v) →
    Ready s g e c .vec rd [.p d] →
    ∃ t, exec i s = .next t ∧ (e.mask ≠ 0 → PredResult s t g lat d (if whole then 0xFFFFFFFF else e.mask) v)

/-- The floating words of VEC (R159 to R163, R166 to R169): one rounding of the exact result in each active lane, latency 4. The seven functions of R164 complete on every operand, with a latency of 12; where the spec gives only an accuracy, the lane
holds a free one of the f32 values within 2 ulp (log entry 7).
The model's own choices in it: log entry 7. -/
def Obligations.VecFloatResults : Prop :=
  (
  ∀ (s : State) (g : Gang) (e : Entry) (c : Clause) (i : Instr) (d : VReg) (rd : List RegRef) (v : Nat → Word),
    wellFormed i = true → vecFloat (rv s g) i = some (d, rd, v) → Ready s g e c .vec rd [.v d] →
    ∃ t, exec i s = .next t ∧ (e.mask ≠ 0 → VectorResult s t g 4 d e.mask v)) ∧
  (
  ∀ (s : State) (g : Gang) (e : Entry) (c : Clause) (i : Instr) (d : VReg) (rd : List RegRef) (v : Nat → Word),
    vecFun (rv s g) i = some (d, rd, v) → Ready s g e c .vec rd [.v d] →
    ∃ t, exec i s = .next t ∧ (e.mask ≠ 0 → VectorResult s t g 12 d e.mask v))

/-- Lane exchange, reductions and scans (R170, R171, R173): source lanes are read whatever their state, reductions and scans take
the active lanes in ascending order. -/
def Obligations.VecCrossLane : Prop :=
  ∀ (s : State) (g : Gang) (e : Entry) (c : Clause) (i : Instr) (d : VReg) (lat : Nat) (rd : List RegRef) (v : Nat → Word),
    vecCross (rv s g) (rs s g) e.mask i = some (d, lat, rd, v) → Ready s g e c .vec rd [.v d] →
    ∃ t, exec i s = .next t ∧ (e.mask ≠ 0 → VectorResult s t g lat d e.mask v)

end
/-! ## Control flow (R91 to R107, R125 to R127, R80, R351 to R354) -/

namespace Sys2Proof.Obl

open Machine

/-- The gang's registers, results still to come included, are those of `x`. -/
def SameRegs (x y : Gang) : Prop := y.s = x.s ∧ y.v = x.v ∧ y.p = x.p ∧ y.pend = x.pend

/-- The frontier in the order of R91: descending priority, then ascending PC; no two entries share a PC, every mask has a lane and
the masks are disjoint. -/
def FrontOk (es : List Entry) : Prop :=
  es.Pairwise (fun a b => entryBefore a b = true ∧ a.pc ≠ b.pc ∧ a.mask &&& b.mask = 0) ∧ ∀ x ∈ es, x.mask ≠ 0

/-- The address of a branch target (R21): words from the branch word. -/
def target (c : Clause) (off : BitVec 16) : Pc := c.next + 4 * off.signExtend 48

/-- The WB branches (R103): offset, priority, the registers read and written, the lanes that go, from the values of the
predicate registers and the active lanes `m`. -/
def branch (p : PReg → Mask) (m : Mask) : Instr → Option (BitVec 16 × Fin 32 × List RegRef × List RegRef × Mask)
  | .bra _ off prio => some (off, prio, [], [], m)
  | .bp _ q off prio => some (off, prio, [.p q], [], m &&& p q)
  | .bpz _ q off prio => some (off, prio, [.p q], [], m &&& ~~~(p q))
  | .ball _ q off prio => some (off, prio, [.p q], [], if p q &&& m = m then m else 0)
  | .bany _ q off prio => some (off, prio, [.p q], [], if p q &&& m ≠ 0 then m else 0)
  | .call _ off prio => some (off, prio, [], [.s 63], m)
  | _ => none

/-- The time branches (R80): offset, priority, the time register, whether the branch is taken at device time `now`. -/
def timeBranch (now : Nat) (t : TReg → TimeReg) : Instr → Option (BitVec 16 × Fin 32 × TReg × Bool)
  | .bts _ r off prio => some (off, prio, r, (t r).state == 0)
  | .btb _ r off prio => some (off, prio, r, (t r).state == 2)
  | .bth _ r off prio => some (off, prio, r, (t r).state == 3)
  | .btl _ r delta off prio => some (off, prio, r,
      (t r).state == 3 || (((t r).state == 1 || (t r).state == 2) &&
        later (t r).tick (BitVec.ofNat 56 (now + delta.toNat))))
  | _ => none

/-- In a handler a transfer may neither split the entry nor give it the PC of another entry (R352); outside a handler anything
goes. -/
def handlerOk (g : Gang) (m go : Mask) (to_ fall : Pc) : Prop :=
  g.inHandler = true → (go = 0 ∨ go = m) ∧ (go ≠ 0 → ∀ x ∈ g.front, x.pc ≠ to_) ∧ (go ≠ m → ∀ x ∈ g.front, x.pc ≠ fall)

/-- The gang has taken a trap at the word that its clause had reached (R351): the trap block, the handler entry at HANDLER with the
lanes and priority of the trapping entry, every other entry as it was, and no other effect (R7). -/
def TookTrap (s t : State) (g : Gang) (e : Entry) (c : Clause) (cause : Byte) (info : Word) : Prop :=
  Untouched s t g ∧ ∃ y, t.gang? g.key = some y ∧
    y.trap = some ⟨c.next, c.hdr, cause, info, true⟩ ∧ y.hmask = e.mask ∧
    y.front = frontInsert { e with pc := s.handlerOf g } g.front ∧ y.sel = none ∧ y.clause = none ∧
    SameRegs g y ∧ y.t = g.t ∧ y.hd = g.hd ∧ y.place = g.place ∧ y.live = g.live

/-- The gang has become a halted record (R351): the trap block takes the trap with in-handler set, and the trapping entry stands at
`at_`. -/
def Halted (t : State) (g : Gang) (e : Entry) (at_ : Pc) (blk : TrapBlk) : Prop :=
  ∃ y, t.gang? g.key = some y ∧ y.hd.kind = 4 ∧ y.trap = some blk ∧
    y.front = frontInsert { e with pc := at_ } g.front ∧ y.sel = none ∧ y.clause = none ∧
    y.s = g.s ∧ y.v = g.v ∧ y.p = g.p ∧ y.t = g.t

/-- The gang has deposited a record of kind 0x01 (R111): header fields, frontier, registers; where the record fits in the store, no
byte of memory changes and the gang leaves its slot. -/
def Deposited (s t : State) (g : Gang) (front : List Entry) (wake : BitVec 4) (tmask : BitVec 16) (bound floor : Bool)
    (wtick : Tick) : Prop :=
  ∃ y, t.gang? g.key = some y ∧ y.hd.kind = 1 ∧ y.hd.wake = wake ∧ y.hd.tmask = tmask ∧ y.hd.bound = bound ∧
    y.hd.floor = floor ∧ y.hd.wtick = wtick ∧ y.front = front ∧ y.sel = none ∧ y.clause = none ∧
    y.s = g.s ∧ y.v = g.v ∧ y.p = g.p ∧ y.t = g.t ∧ y.trap = g.trap ∧ y.live = g.live ∧
    (s.recordFits y = true → (∀ a, memGet t.mem a = memGet s.mem a) ∧
      ∀ q n, g.place = .slot q n → y.place = .leaving q n none)

/-- Clause class of a word by its role group (R40). -/
def groupOf (i : Instr) (cl : Cls) : WordKind :=
  match cl with
  | .vec => .vec
  | .mtx => .mtx
  | .mem => match i with | .copy .. => .copy | .cwp .. => .copy | .fence .. => .fence | _ => .mem
  | _ => .free

end Sys2Proof.Obl

section
open Sys2Proof Sys2Proof.Machine Sys2Proof.Obl

/-- Placing lanes keeps the frontier as R91 describes it; the lanes join the entry at their PC, which takes the higher of the two
priorities, or form an entry; every other entry is as it was (R93, R102). -/
def Obligations.PlaceJoins : Prop :=
  ∀ (es : List Entry) (m : Mask) (pc : Pc) (prio : Fin 32), FrontOk es → (∀ x ∈ es, x.mask &&& m = 0) →
    FrontOk (placeLanes m pc prio es) ∧
    (∀ x, x.pc ≠ pc → (x ∈ placeLanes m pc prio es ↔ x ∈ es)) ∧
    (m = 0 → placeLanes m pc prio es = es) ∧
    (m ≠ 0 → (∀ x ∈ es, x.pc ≠ pc) → ⟨pc, prio, m⟩ ∈ placeLanes m pc prio es) ∧
    (m ≠ 0 → ∀ x ∈ es, x.pc = pc → ⟨pc, if x.prio < prio then prio else x.prio, x.mask ||| m⟩ ∈ placeLanes m pc prio es)

/-- `setprio` sets the priority of the selected entry, which counts from the next clause boundary (R106); `live` sets the live count
(R126). `nop` has no effect beyond its issue clock and stall count (R107, R24): the next word of the clause may issue after 1 + S
clocks, and after its last word the entry falls through to the next header (R21, R92). -/
def Obligations.PriorityLiveNop : Prop :=
  (
  (∀ (s : State) (g : Gang) (e : Entry) (c : Clause) (n : Stall) (k : Fin 32), Ready s g e c .free [] [] →
    ∃ t, exec (.setprio n k) s = .next t ∧ (e.mask ≠ 0 → Untouched s t g ∧ ∃ y, t.gang? g.key = some y ∧
      SameRest g y ∧ SameRegs g y ∧
      (g.wait = false → 1 < c.left → y.sel = some { e with prio := k } ∧ y.front = g.front) ∧
      (g.wait = false → c.left = 1 → y.sel = none ∧ y.front = placeLanes e.mask (c.next + 4) k g.front))) ∧
  (∀ (s : State) (g : Gang) (e : Entry) (c : Clause) (n : Stall) (k : Fin 13), Ready s g e c .free [] [] →
    16 * k.val ≤ s.alloc g →
    ∃ t, exec (.live n k) s = .next t ∧ (e.mask ≠ 0 → Untouched s t g ∧ ∃ y, t.gang? g.key = some y ∧
      y.live = k.val ∧ SameRest g { y with live := g.live } ∧ SameRegs g y))) ∧
  (
  ∀ (s : State) (g : Gang) (e : Entry) (c : Clause) (n : Stall), Ready s g e c .free [] [] →
    ∃ t, exec (.nop n) s = .next t ∧ (e.mask ≠ 0 → Untouched s t g ∧ ∃ y, t.gang? g.key = some y ∧
      SameRest g y ∧ SameRegs g y ∧ y.readyAt = s.clock g.core + 1 + n.val ∧
      (g.wait = false → 1 < c.left → y.sel = some e ∧ y.front = g.front ∧
        y.clause = some { c with next := c.next + 4, left := c.left - 1 }) ∧
      (g.wait = false → c.left = 1 → y.sel = none ∧ y.clause = none ∧
        y.front = placeLanes e.mask (c.next + 4) e.prio g.front)))

/-- The WB branches (R103): the lanes that go are placed at the target with the branch's priority, the others at the fall-through
header with their own; `call` writes the fall-through address to s63; nothing else changes. -/
def Obligations.Branches : Prop :=
  ∀ (s : State) (g : Gang) (e : Entry) (c : Clause) (i : Instr) (off : BitVec 16) (prio : Fin 32) (rd wr : List RegRef)
    (go : Mask), branch (rp s g) e.mask i = some (off, prio, rd, wr, go) → Ready s g e c .free rd wr →
    handlerOk g e.mask go (target c off) (c.next + 4) →
    ∃ t, exec i s = .next t ∧ (e.mask ≠ 0 → Untouched s t g ∧ ∃ y, t.gang? g.key = some y ∧ SameRest g y ∧
      y.s = (if wr = [] then g.s else g.s.set 63 ((c.next + 4).zeroExtend 64)) ∧ y.v = g.v ∧ y.p = g.p ∧ y.pend = g.pend ∧
      y.sel = none ∧ y.clause = none ∧
      y.front = placeLanes (e.mask &&& ~~~go) (c.next + 4) e.prio (placeLanes go (target c off) prio g.front))

/-- The time branches (R80): every lane of the entry moves to the target, or none; no register changes. -/
def Obligations.TimeBranches : Prop :=
  ∀ (s : State) (g : Gang) (e : Entry) (c : Clause) (i : Instr) (off : BitVec 16) (prio : Fin 32) (r : TReg) (taken : Bool),
    timeBranch s.now (fun n => g.t[n]) i = some (off, prio, r, taken) → Ready s g e c .free [] [] →
    handlerOk g e.mask (if taken then e.mask else 0) (target c off) (c.next + 8) →
    ∃ t, exec i s = .next t ∧ (e.mask ≠ 0 → Untouched s t g ∧ ∃ y, t.gang? g.key = some y ∧
      SameRest g { y with obs := g.obs } ∧ SameRegs g y ∧ y.sel = none ∧ y.clause = none ∧
      y.front = (if taken then placeLanes e.mask (target c off) prio g.front
        else placeLanes e.mask (c.next + 8) e.prio g.front))

/-- The register transfers (R104): `ret` and `jmp` take every active lane to the 48 low bits of s63 or sA, with the entry's
priority; `jmpv` takes each active lane to its own vA, zero-extended; a misaligned target raises trap 0x08 before any lane moves. -/
def Obligations.RegisterJumps : Prop :=
  (∀ (s : State) (g : Gang) (e : Entry) (c : Clause) (i : Instr) (a : SReg),
    (∃ n, i = .jmp n a ∨ i = .ret n ∧ a = 63) → Ready s g e c .free [.s a] [] →
    let x : Pc := (rs s g a).extractLsb' 0 48
    (x.extractLsb' 0 2 = 0 → handlerOk g e.mask e.mask x (c.next + 4) →
      ∃ t, exec i s = .next t ∧ (e.mask ≠ 0 → Untouched s t g ∧ ∃ y, t.gang? g.key = some y ∧ SameRest g y ∧
        SameRegs g y ∧ y.sel = none ∧ y.clause = none ∧ y.front = placeLanes e.mask x e.prio g.front)) ∧
    (x.extractLsb' 0 2 ≠ 0 → g.inHandler = false → s.handlerOf g ≠ 0 →
      ∃ t, exec i s = .next t ∧ TookTrap s t g e c 0x08 0)) ∧
  (∀ (s : State) (g : Gang) (e : Entry) (c : Clause) (n : Stall) (a : VReg), Ready s g e c .free [.v a] [] →
    let x : Nat → Word := fun l => rv s g (.v a) l
    ((∀ l, l < 32 → e.mask.getLsbD l = true → (x l).extractLsb' 0 2 = 0) →
      (g.inHandler = true → (∀ l k, l < 32 → k < 32 → e.mask.getLsbD l = true → e.mask.getLsbD k = true → x l = x k) ∧
        ∀ l, l < 32 → e.mask.getLsbD l = true → ∀ z ∈ g.front, z.pc ≠ (x l).zeroExtend 48) →
      ∃ t, exec (.jmpv n a) s = .next t ∧ (e.mask ≠ 0 → Untouched s t g ∧ ∃ y, t.gang? g.key = some y ∧ SameRest g y ∧
        SameRegs g y ∧ y.sel = none ∧ y.clause = none ∧
        (∀ l, l < 32 → e.mask.getLsbD l = true → ∃ z ∈ y.front, z.pc = (x l).zeroExtend 48 ∧ z.mask.getLsbD l = true) ∧
        (∀ z ∈ g.front, (∀ l, l < 32 → e.mask.getLsbD l = true → z.pc ≠ (x l).zeroExtend 48) → z ∈ y.front) ∧
        (∀ pc z, g.front.find? (fun w => w.pc = pc) = some z → ∃ z' ∈ y.front, z'.pc = pc ∧ z.mask &&& z'.mask = z.mask))) ∧
    (∀ l, l < 32 → e.mask.getLsbD l = true → (x l).extractLsb' 0 2 ≠ 0 →
      (∀ k, k < l → e.mask.getLsbD k = true → (x k).extractLsb' 0 2 = 0) → g.inHandler = false → s.handlerOf g ≠ 0 →
      ∃ t, exec (.jmpv n a) s = .next t ∧ TookTrap s t g e c 0x08 (BitVec.ofNat 32 l)))

/-- `exit` takes the active lanes out of the gang and ends a handler (R105, R352); when no entry is left the gang is gone (R99),
otherwise its other entries stay. -/
def Obligations.ExitLeaves : Prop :=
  ∀ (s : State) (g : Gang) (e : Entry) (c : Clause) (n : Stall), Ready s g e c .free [] [] →
    ∃ t, exec (.exit n) s = .next t ∧ (∀ a, memGet t.mem a = memGet s.mem a) ∧
      (g.front = [] → t.gang? g.key = none) ∧
      (g.front ≠ [] → Untouched s t g ∧ ∃ y, t.gang? g.key = some y ∧ y.front = g.front ∧ y.sel = none ∧ y.clause = none ∧
        SameRegs g y ∧ y.t = g.t ∧ y.trap = g.trap.map fun b => { b with inHandler := false })

/-- `trap n` and `brk n` take their exception (R354, R351): cause 0x80 + n with info 0, or cause 0x0F with info n, at the word. A trap in a handler, or with no handler, or by `brk` under BRKHALT, escalates: the gang becomes a halted record whose trapping
entry stands at the word after `trap` or `brk` (R351, R353). -/
def Obligations.TrapWords : Prop :=
  (
  ∀ (s : State) (g : Gang) (e : Entry) (c : Clause) (n : Stall), Ready s g e c .free [] [] →
    g.inHandler = false → s.handlerOf g ≠ 0 →
    (∀ k : Fin 128, ∃ t, exec (.trap n k) s = .next t ∧ TookTrap s t g e c (0x80 + BitVec.ofNat 8 k.val) 0) ∧
    (∀ k : Byte, s.brkHalts g = false → ∃ t, exec (.brk n k) s = .next t ∧ TookTrap s t g e c 0x0F (k.zeroExtend 32))) ∧
  (
  ∀ (s : State) (g : Gang) (e : Entry) (c : Clause) (n : Stall), Ready s g e c .free [] [] →
    (g.inHandler = true ∨ s.handlerOf g = 0 →
      ∀ k : Fin 128, ∃ t, exec (.trap n k) s = .next t ∧
        Halted t g e (c.next + 4) ⟨c.next, c.hdr, 0x80 + BitVec.ofNat 8 k.val, 0, true⟩) ∧
    (g.inHandler = true ∨ s.handlerOf g = 0 ∨ s.brkHalts g = true →
      ∀ k : Byte, ∃ t, exec (.brk n k) s = .next t ∧
        Halted t g e (c.next + 4) ⟨c.next, c.hdr, 0x0F, k.zeroExtend 32, true⟩))

/-- `rett` returns from the handler to the resume point of R353, with the entry's priority, and clears in-handler, the trap block
otherwise staying; with no resume point it escalates; outside a handler it raises trap 0x01 (R353, R354). Where `rett` resumes (R353): at a header for causes 0x09, 0x0A, 0x0B, 0x0C at a resume header and 0x01 with info bit [8]; after
the word for `brk` and `trap`; nowhere for any other cause at a word.
The model's own choices in it: log entry 16. -/
def Obligations.RettReturns : Prop :=
  (
  ∀ (s : State) (g : Gang) (e : Entry) (c : Clause) (n : Stall), Ready s g e c .free [] [] →
    (∀ b, g.trap = some b → b.inHandler = true → ∀ x, resumePoint b = some x →
      ∃ t, exec (.rett n) s = .next t ∧ (e.mask ≠ 0 → Untouched s t g ∧ ∃ y, t.gang? g.key = some y ∧
        y.trap = some { b with inHandler := false } ∧ y.hmask = 0 ∧ y.sel = none ∧ y.clause = none ∧
        y.front = placeLanes e.mask x e.prio g.front ∧ SameRegs g y ∧ y.t = g.t)) ∧
    (∀ b, g.trap = some b → b.inHandler = true → resumePoint b = none →
      ∃ t, exec (.rett n) s = .next t ∧ Halted t g e b.hdr b) ∧
    (g.inHandler = false → s.handlerOf g ≠ 0 → ∃ t, exec (.rett n) s = .next t ∧ TookTrap s t g e c 0x01 0)) ∧
  (
  ∀ (b : TrapBlk),
    (b.cause = 0x01 → resumePoint b = if b.info.getLsbD 8 then some b.pc else none) ∧
    (b.cause = 0x09 ∨ b.cause = 0x0A ∨ b.cause = 0x0B → resumePoint b = some b.pc) ∧
    (b.cause = 0x0F ∨ 0x80 ≤ b.cause.toNat → resumePoint b = some (b.pc + 4)) ∧
    (b.cause = 0x0C → resumePoint b = if b.info = 0 then some b.pc else none) ∧
    (∀ k, k ∈ [2, 3, 4, 5, 6, 7, 8, 13] → b.cause.toNat = k → resumePoint b = none))

/-- A transfer in a handler that would split the entry, or give it the PC of another entry, raises trap 0x01, which escalates (R352,
R351). A word that the gang's role may not issue raises trap 0x01 with info bit [0] (R40), whatever else is wrong with it (R34). -/
def Obligations.IllegalHere : Prop :=
  (
  ∀ (s : State) (g : Gang) (e : Entry) (c : Clause) (i : Instr) (off : BitVec 16) (prio : Fin 32) (rd wr : List RegRef)
    (go : Mask), branch (rp s g) e.mask i = some (off, prio, rd, wr, go) → Ready s g e c .free rd wr → g.inHandler = true →
    (go ≠ 0 ∧ go ≠ e.mask ∨ go ≠ 0 ∧ (∃ x ∈ g.front, x.pc = target c off) ∨
      go ≠ e.mask ∧ ∃ x ∈ g.front, x.pc = c.next + 4) →
    ∃ t, exec i s = .next t ∧ Halted t g e c.hdr ⟨c.next, c.hdr, 0x01, 0, true⟩) ∧
  (
  ∀ (s : State) (g : Gang) (e : Entry) (c : Clause) (i : Instr) (cl : Cls), i.cls? = some cl →
    s.issuing = some (g, e, c) → roleAllows g.role (groupOf i cl) = false → g.inHandler = false → s.handlerOf g ≠ 0 →
    ∃ t, exec i s = .next t ∧ TookTrap s t g e c 0x01 1)

/-- The yields (R125): the gang deposits with its selected entry at the fall-through header; with TMASK 0 it wakes at the tick of sX,
else by its time registers, sX being a deadline, or a floor for `yield.at`. `fork` (R127): with some but not all active lanes going and a gang index free, a child of that index takes them to the target,
with its parent's registers, its time registers detached; the parent's other lanes fall through. Otherwise it acts as `bp`. -/
def Obligations.YieldAndFork : Prop :=
  (
  ∀ (s : State) (g : Gang) (e : Entry) (c : Clause) (n : Stall) (x : Option SReg) (m : BitVec 16) (any floor : Bool) (i : Instr),
    (i, any, floor) ∈ [(.yieldAll n x m, false, false), (.yieldAny n x m, true, false), (.yieldAt n x m, false, true)] →
    wellFormed i = true →
    Ready s g e c .free (match x with | some r => [.s r] | none => []) [] →
    let tick : Tick := match x with | some r => (rs s g r).extractLsb' 0 56 | none => 0
    let front := placeLanes e.mask (c.next + 4) e.prio g.front
    ∃ t, exec i s = .next t ∧ (e.mask ≠ 0 →
      (m = 0 → Deposited s t g front 0 0 false false (recordable tick)) ∧
      (m ≠ 0 → Deposited s t g front (if any then 2 else 1) m x.isSome (floor && x.isSome)
        (if x.isSome then recordable tick else wakeTick (if any then 2 else 1) (g.masked m))))) ∧
  (
  ∀ (s : State) (g : Gang) (e : Entry) (c : Clause) (n : Stall) (p : PReg) (off : BitVec 16) (prio : Fin 32),
    Ready s g e c .free [.p p] [] →
    (checks s g = true → ∀ r ∈ s.reqs, r.of g.key = true → ∀ x ∈ r.dsts,
      match x with | .v k => 16 * g.live ≤ k.val | .s _ => False | .p _ => True) →
    let go := e.mask &&& rp s g p
    (g.inHandler = false → go ≠ 0 → go ≠ e.mask → ∀ k, s.freeIndex g.crewKey = some k →
      ∃ t y z, exec (.fork n p off prio) s = .next t ∧
        t.gang? g.key = some y ∧ y.front = placeLanes (e.mask &&& ~~~go) (c.next + 4) e.prio g.front ∧ y.sel = none ∧
        SameRegs g y ∧ y.t = g.t ∧
        t.gang? { g.key with gang := k } = some z ∧ z.front = [⟨target c off, prio, go⟩] ∧ z.sel = none ∧
        z.s = g.s ∧ z.v = g.v ∧ z.p = g.p ∧ z.role = g.role ∧ z.live = g.live ∧ z.trap = none ∧ z.strict = none ∧
        z.hd.kind = 1 ∧ z.hd.wake = 8 ∧ ∀ r : TReg, z.t[r].val = g.t[r].val ∧ z.t[r].soft = true) ∧
    (go = 0 ∨ go = e.mask ∨ s.freeIndex g.crewKey = none → handlerOk g e.mask go (target c off) (c.next + 4) →
      ∃ t, exec (.fork n p off prio) s = .next t ∧ (e.mask ≠ 0 → Untouched s t g ∧ ∃ y, t.gang? g.key = some y ∧
        SameRest g y ∧ SameRegs g y ∧ y.sel = none ∧
        y.front = placeLanes (e.mask &&& ~~~go) (c.next + 4) e.prio (placeLanes go (target c off) prio g.front))))

end
/-! ## Encodings, the step, reset, arithmetic -/

namespace Sys2Proof.Obl

open Machine

/-- Words in which the tables of the spec print an encoding: class, word, extension word, instruction. -/
def printed : List (Cls × Nat × Nat × Instr) :=
  [(.ctl, 0x10FF001E, 0x0, .yieldAny 0 none 0x1E),
   (.ctl, 0x110C0000, 0x0, .yieldAt 0 (some 12) 0),
   (.ctl, 0x12000002, 0x0, .live 0 2),
   (.ctl, 0x13000469, 0x0, .fork 0 3 4 9),
   (.ctl, 0x02000527, 0x0, .bp 0 1 5 7),
   (.ctl, 0x01000605, 0x0, .bra 0 6 5),
   (.ctl, 0x0C000005, 0x0, .trap 0 5),
   (.ctl, 0x0D000000, 0x0, .rett 0),
   (.ctl, 0x0E000007, 0x0, .brk 0 7),
   (.ctl, 0x17000C00, 0xA0000FA0, .btl 0 10 4000 12 0),
   (.uni, 0x01080000, 0x2, .sli 0 8 2),
   (.uni, 0x03030102, 0x0, .sadd 0 3 1 2),
   (.uni, 0x16050600, 0x102C8, .sbfx 0 5 6 true ⟨8, 11⟩),
   (.uni, 0x1A080008, 0x0, .sreg 0 8 8),
   (.vec, 0x4D0100C8, 0x0, .vshl 1 1 (.v 0) (.s 8)),
   (.vec, 0x02050404, 0x0, .vadd 0 5 (.v 4) (.v 4)),
   (.vec, 0x10020304, 0x10000, .vmin 0 2 (.v 3) (.v 4) true),
   (.vec, 0x17020405, 0xA0000, .vcmp 0 2 (.v 4) (.v 5) .lt true),
   (.vec, 0xE1010405, 0x20000, .fcmp 3 1 (.v 4) (.v 5) .lt),
   (.vec, 0x21030102, 0x70000, .fcmp 0 3 (.v 1) (.v 2) .unord),
   (.vec, 0x1C060405, 0x6010000, .ffma 0 6 (.v 4) (.v 5) (.v 6) .fms),
   (.vec, 0x2B090800, 0x102, .cvt 0 9 (.v 8) .rn false .bf16 .f32),
   (.vec, 0x2B090800, 0x90108, .cvt 0 9 (.v 8) .rz true .i8 .f32),
   (.vec, 0x320A0B00, 0x30010, .shflN 0 10 (.v 11) .xor 16),
   (.vec, 0x330307C9, 0x0, .bcast 0 3 (.v 7) 9),
   (.vec, 0x360C0D00, 0x180000, .vscan 0 12 (.v 13) .fadd true),
   (.vec, 0x3C04D400, 0x0, .pmov 0 4 20),
   (.mem, 0x00040112, 0x10040000, .ld 0 ⟨.v 4, .v 1, 1, .b32, 4, false, 0, .dev, .plain, 0⟩),
   (.mem, 0x000A0112, 0x10C40000, .ld 0 ⟨.v 10, .v 1, 1, .b32, 4, true, 8, .dev, .plain, 0⟩),
   (.mem, 0x00090982, 0x19044000, .ld 0 ⟨.v 9, .s 9, 8, .b32, 6, false, 0, .dev, .acq, 0⟩),
   (.mem, 0x01080912, 0x19048000, .st 0 ⟨.v 8, .s 9, 1, .b32, 6, false, 0, .dev, .rel, 0⟩),
   (.mem, 0x020B0132, 0x18040000, .atomAdd 0 ⟨.v 11, .v 1, 3, .b32, 6, false, 0, .dev, .plain, 0⟩),
   (.mem, 0x0C0C0952, 0x19048000, .redAdd 0 ⟨.v 12, .s 9, 5, .b32, 6, false, 0, .dev, .rel, 0⟩),
   (.mem, 0x10000100, 0x10000100, .pf 0 ⟨.v 0, .v 1, 0, .b8, 4, false, 0, .gang, .plain, 256⟩),
   (.mem, 0x110D09A3, 0x13000008, .bchk 0 ⟨.s 13, .s 9, 10, .b64, 4, false, 0, .gang, .plain, 8⟩),
   (.mem, 0x120C0090, 0x17000002, .bmeta 0 ⟨.s 12, .s 0, 9, .b8, 5, false, 0, .gang, .plain, 2⟩),
   (.mem, 0x13040122, 0x10000, .lds 0 ⟨.v 4, .v 1, 2, .b32, 0, false, 0, .crew, .plain, 0⟩),
   (.mem, 0x14050132, 0x10040, .sts 0 ⟨.v 5, .v 1, 3, .b32, 0, false, 0, .crew, .plain, 64⟩),
   (.mem, 0x15081452, 0x1010000, .atomsAdd 0 ⟨.v 8, .s 20, 5, .b32, 0, false, 0, .crew, .plain, 0⟩),
   (.mem, 0x170A0B0C, 0x3, .plpack 0 10 11 12 2)] ++
  [(.mem, 0x19000640, 0x0, .l1cfg 0 6 4),
   (.mem, 0x1A000D20, 0x1, .copy 0 13 2 .crew false),
   (.mem, 0x1C00000C, 0x0, .fence 0 .dev .acq),
   (.mem, 0x1C000014, 0x0, .fence 0 .dev .rel),
   (.mem, 0x5C00001D, 0x0, .fence 1 .sys .full),
   (.mem, 0x1D000902, 0x19040000, .watch 0 ⟨.v 0, .s 9, 0, .b32, 6, false, 0, .dev, .plain, 0⟩),
   (.mtx, 0x00001750, 0x5, .mldA 0 23 5 1 1),
   (.mtx, 0x01001640, 0x0, .mldB 0 22 4 0 0 false),
   (.mtx, 0x02001860, 0x0, .mma 0 24 6),
   (.mtx, 0x03001970, 0x2, .mdrain 0 25 7 2),
   (.mtx, 0x04000030, 0x0, .mzero 0 3),
   (.mtx, 0x051E0001, 0x0, .mstat 0 30 1),
   (.mtx, 0x06001501, 0x0, .lrec 0 21 1),
   (.mtx, 0x071F0001, 0x0, .lconfClr 0 31),
   (.mtx, 0x080A0800, 0xB0B0000, .qntScale 0 10 (.v 8) 11 3),
   (.mtx, 0x090C0A0B, 0x30000, .dqnt 0 12 (.v 10) (.v 11) 3),
   (.mtx, 0x0A0B0800, 0x30000, .bscale 0 11 (.v 8) 3),
   (.mtx, 0x0B0C000A, 0x0, .fslot 0 12 2 true),
   (.mtx, 0x0C030200, 0x7, .tcount 0 3 (.v 2) 6),
   (.syn, 0x060A0104, 0x0, .tsort 0 10 1 4),
   (.syn, 0x0708000B, 0x0, .tclr 0 8 11),
   (.syn, 0x09030A00, 0x4, .barInit 0 3 10 3),
   (.syn, 0x0A030000, 0x0, .barArrive 0 3),
   (.syn, 0x0B030000, 0x0, .barWait 0 3),
   (.syn, 0x0C030000, 0x20, .barThen 0 3 8),
   (.syn, 0x0D030900, 0x0, .barBytes 0 3 9),
   (.syn, 0x0E0C0300, 0x0, .barPhase 0 12 3),
   (.syn, 0x0F191800, 0x884, .ringInit 0 25 24 3 true 8),
   (.syn, 0x11191800, 0x0, .ringAwait 0 25 24),
   (.syn, 0x12001800, 0x0, .ringRelease 0 24),
   (.syn, 0x14000000, 0x4E20, .mwait 0 20000),
   (.syn, 0x15002801, 0x0, .qbindPin 0 40),
   (.syn, 0x16142890, 0x0, .qpush 0 20 40 9),
   (.syn, 0x17152860, 0x0, .qpop 0 21 40 6),
   (.syn, 0x18152820, 0x0, .qpeek 0 21 40 2),
   (.syn, 0x190B2800, 0x0, .qlen 0 11 40),
   (.syn, 0x1A0C0000, 0x0, .bgt 0 12),
   (.syn, 0x1B0D0000, 0x0, .dline 0 13),
   (.syn, 0x1C0E0000, 0x0, .ergr 0 14),
   (.syn, 0x1D0F0003, 0x0, .ctrr 0 15 3),
   (.syn, 0x1E031011, 0x0, .ctrcSet 0 3 16 17),
   (.syn, 0x1E030000, 0x10000, .ctrcClr 0 3),
   (.syn, 0x1F001205, 0x0, .smark 0 18 5)]

/-- The opcodes that R41 leaves unassigned, by class. -/
def unassigned : Cls → Nat → Bool
  | .ctl, op => 0x18 ≤ op | .uni, op => 0x1B ≤ op | .vec, op => 0x3E ≤ op
  | .mem, op => 0x1E ≤ op | .mtx, op => 0x0D ≤ op | .syn, op => 0x20 ≤ op

/-- A multiple `k` of a unit is a choice between the two neighbours of the magnitude a/b of a number of sign `neg`, as a rounding
mode of R133 makes it. -/
def Rounds (mode : Round) (neg : Bool) (a b k : Nat) : Prop :=
  k * b < a + b ∧ a < k * b + b ∧
  (match mode with
   | .rn => (2 * (k * b) ≤ 2 * a + b ∧ 2 * a ≤ 2 * (k * b) + b) ∧
       (2 * a = 2 * (k * b) + b ∨ 2 * (k * b) = 2 * a + b → k % 2 = 0)
   | .rna => 2 * (k * b) ≤ 2 * a + b ∧ 2 * a < 2 * (k * b) + b
   | .rz => k * b ≤ a
   | .rm => if neg then a ≤ k * b else k * b ≤ a
   | .rp => if neg then k * b ≤ a else a ≤ k * b)

end Sys2Proof.Obl

section
open Sys2Proof Sys2Proof.Machine Sys2Proof.Obl

/-- Every well-formed instruction word encodes to one or two words of 32 bits, which decode to it again: no bit of an encoding is
dropped (R31 to R39). -/
def Obligations.DecodeEncode : Prop :=
  ∀ (i : Instr) (c : Cls), wellFormed i = true → i.cls? = some c →
    ∃ w es, encode i = w :: es ∧ w < 2 ^ 32 ∧ (∀ x ∈ es, x < 2 ^ 32) ∧
      es.length = (if c.extended (fOP w) then 1 else 0) ∧ decode c w (es.headD 0) = some i

/-- A word that decodes decodes to a well-formed instruction of the clause's class, which encodes to that word again: two words
never mean the same, and a field that an instruction does not use is zero (R33). -/
def Obligations.EncodeDecode : Prop :=
  ∀ (c : Cls) (w e : Nat) (i : Instr), w < 2 ^ 32 → e < 2 ^ 32 → decode c w e = some i →
    wellFormed i = true ∧ i.cls? = some c ∧ encode i = if c.extended (fOP w) then [w, e] else [w]

/-- Words that the spec prints beside their fields decode to the instructions that it prints them for. -/
def Obligations.PrintedWords : Prop := ∀ x ∈ printed, decode x.1 x.2.1 x.2.2.1 = some x.2.2.2

/-- The opcodes that R41 leaves unassigned decode to nothing in a word, make a header raise trap 0x01 as R20 says, and classes 6
and 7 are no classes. -/
def Obligations.UnassignedOpcodes : Prop :=
  (∀ (c : Cls) (w e : Nat), unassigned c (fOP w) = true → decode c w e = none) ∧
  (∀ (h : Nat) (ws : Nat → Nat) (c : Cls), cls? (hCls h) = some c → 0 < hN h → unassigned c (fOP (ws 0)) = true →
    headerOk h ws = none) ∧
  cls? 6 = none ∧ cls? 7 = none

/-- A step issues: where every code word that a ready gang needs is fetched and no waiting probe comes first, the gang that the spec's order chooses runs the
instruction that its next words decode to, or takes trap 0x01 where they decode to none; at a clause boundary it runs the header.
Nothing but the model's own place in the round is changed before (R21, R33, R57, R97).
The model's own choices in it: log entry 8. -/
def Obligations.StepRunsDecoded : Prop :=
  ∀ (s : State) (g : Gang), s.fetcher = none → s.nextGang = some g → (∀ d ∈ s.agenda, ¬ ProbeTurn s g d) →
    ({ s.toIssue g with own := s.own } = s ∧ (s.toIssue g).own.cur = g.key ∧ (s.toIssue g).own.free = s.own.free) ∧
    (g.clause = none → step s = exec .clauseHeader (s.toIssue g)) ∧
    (∀ (c : Clause) (w x : Word), g.clause = some c → s.fetched g.core g.ctx c.next = some w →
      (if 2 ≤ c.left then s.fetched g.core g.ctx (c.next + 4) else some 0) = some x →
      (∀ i, decode c.cls w.toNat x.toNat = some i → step s = exec i (s.toIssue g)) ∧
      (∀ e, decode c.cls w.toNat x.toNat = none → g.sel = some e → s.gang? g.key = some g →
        g.inHandler = false → s.handlerOf g ≠ 0 → ∃ t, step s = .next t ∧ TookTrap (s.toIssue g) t g e c 0x01 0))

/-- Before a gang issues, the probe that waits and whose gang comes first in the clock is attempted again, and that gang issues no word in
the clock (R57). Where no gang issues any more in a clock, the first entry of the agenda whose tick, and whose clock where it is counted in clocks,
has come takes place with its operands; where there is none, the next clock edge of the tick or the next tick begins, and device time
moves on by one (R3, R46, R51).
The model's own choices in it: log entry 8. -/
def Obligations.StepServesAgenda : Prop :=
  ∀ (s : State), s.fetcher = none →
    (∀ g, s.nextGang = some g → ∀ pre d post, s.agenda = pre ++ d :: post → (∀ x ∈ pre, ¬ ProbeTurn s g x) → ProbeTurn s g d →
      let t := s.toProbe d (pre ++ post)
      step s = exec .probePass t ∧ t.agenda = pre ++ post ∧ t.arg = d.arg ∧ { t with agenda := s.agenda, arg := s.arg, gangs := s.gangs } = s ∧
      (∀ k, k ≠ d.arg.key → t.gang? k = s.gang? k) ∧
      ∃ x y, s.gang? d.arg.key = some x ∧ t.gang? d.arg.key = some y ∧ s.clock x.core < y.readyAt ∧ { y with readyAt := x.readyAt } = x) ∧
    (s.nextGang = none →
    let has := fun (d : Due) => d.tick ≤ s.now ∧ ∀ k n, d.arg.clk = some (k, n) → n ≤ s.clock k
    (∀ pre d post, s.agenda = pre ++ d :: post → (∀ x ∈ pre, ¬ has x) → has d → step s = runDue d (s.toServe d (pre ++ post)) ∧
      (s.toServe d (pre ++ post)).agenda = pre ++ post ∧ (s.toServe d (pre ++ post)).arg = d.arg ∧
      ({ s.toServe d (pre ++ post) with agenda := s.agenda, arg := s.arg, own := s.own } = s)) ∧
    ((∀ d ∈ s.agenda, ¬ has d) →
      ∃ t, step s = .next t ∧ t.now = (if s.moreRounds then s.now else s.now + 1) ∧ t.mem = s.mem ∧ t.reqs = s.reqs ∧
        t.agenda = s.agenda ∧ t.sys = s.sys ∧ t.power = s.power ∧ t.ctxs = s.ctxs))

/-- Every step keeps the memories of the machine in their canonical form: device memory and the scratchpad of every core.
The model's own choices in it: log entry 1. -/
def Obligations.MemoryKept : Prop := ∀ s t : State, MemoryOk s → Steps s t → MemoryOk t

/-- The machine right after reset: device time 0 (R46); nothing in memory, in a scratchpad, a cache or a register file, no context
and no gang (R398); launch ids, SEQ, migration numbers and write counts at 0 (R419); EFF and LIC 1,500 (R367); every core clock at
code 48 (R372); THERM 95 (R392). The memories are in canonical form after reset.
The model's own choices in it: log entry 1. -/
def Obligations.ResetValues : Prop :=
  (
  State.reset.now = 0 ∧ (∀ a, memGet State.reset.mem a = 0) ∧
  (∀ k a, memGet (State.reset.core k).spad a = 0) ∧ (∀ k, (State.reset.core k).l1 = [] ∧ (State.reset.core k).icache = [] ∧
    (State.reset.core k).tlb = [] ∧ (State.reset.core k).recs = [] ∧ (State.reset.core k).active = none) ∧
  State.reset.gangs = [] ∧ State.reset.ctxs = [] ∧ State.reset.reqs = [] ∧ State.reset.slices = [] ∧ State.reset.hier.l2 = [] ∧
  State.reset.hier.msc = [] ∧ State.reset.own.launch = 0 ∧ (∀ k, (State.reset.core k).seq = 0) ∧ State.reset.own.migSeq = 0 ∧
  State.reset.sys.errWr = 0 ∧ State.reset.power.tokWr = 0 ∧ State.reset.time.timeWr = 0 ∧
  State.reset.power.eff = 1500 ∧ State.reset.power.lic = 1500 ∧ (∀ d : Fin 4, State.reset.time.dies[d].freq = 48) ∧
  ∀ k, (State.reset.core k).limit = 95) ∧
  (
 MemoryOk State.reset)

/-- The rounding modes (R133): a magnitude n/d × 2^e is rounded to the multiple of 2^q that its mode chooses between the two
neighbours. -/
def Obligations.RoundingModes : Prop :=
  ∀ (mode : Round) (neg : Bool) (n d : Nat) (e q : Int), 0 < d →
    Rounds mode neg (n * 2 ^ (e - q).toNat) (d * 2 ^ (q - e).toNat) (roundAt mode neg n d e q)

/-- The special values of the functions (R165): NaN, the infinities, the zeros, 1.0, and negative operands of the functions that
give NaN for them. The conversions that R135 prints as examples. -/
def Obligations.SpecialValues : Prop :=
  (
  (∀ x : Word, Fmt.f32.decode x.toNat = .nan → f1 rcp32 x = 0x7FC00000 ∧ f1 rsq32 x = 0x7FC00000 ∧ f1 sqrt32 x = 0x7FC00000 ∧
    ex2 x = 0x7FC00000 ∧ lg2 x = 0x7FC00000 ∧ sin32 x = 0x7FC00000 ∧ cos32 x = 0x7FC00000) ∧
  (f1 rcp32 0xFF800000 = 0x80000000 ∧ ex2 0xFF800000 = 0 ∧
    ∀ f ∈ [f1 rsq32 0xFF800000, f1 sqrt32 0xFF800000, BitVec.ofNat 32 (lg2 0xFF800000), BitVec.ofNat 32 (sin32 0xFF800000),
      BitVec.ofNat 32 (cos32 0xFF800000)], f = (0x7FC00000 : Word)) ∧
  (∀ x : Word, 0x80000000 < x.toNat → x.toNat < 0xFF800000 →
    f1 rsq32 x = 0x7FC00000 ∧ f1 sqrt32 x = 0x7FC00000 ∧ lg2 x = 0x7FC00000) ∧
  (f1 rcp32 0x80000000 = 0xFF800000 ∧ f1 rsq32 0x80000000 = 0xFF800000 ∧ f1 sqrt32 0x80000000 = 0x80000000 ∧
    ex2 0x80000000 = 0x3F800000 ∧ lg2 0x80000000 = 0xFF800000 ∧ sin32 0x80000000 = 0x80000000 ∧ cos32 0x80000000 = 0x3F800000) ∧
  (f1 rcp32 0 = 0x7F800000 ∧ f1 rsq32 0 = 0x7F800000 ∧ f1 sqrt32 0 = 0 ∧ ex2 0 = 0x3F800000 ∧ lg2 0 = 0xFF800000 ∧
    sin32 0 = 0 ∧ cos32 0 = 0x3F800000) ∧
  (f1 rcp32 0x3F800000 = 0x3F800000 ∧ f1 rsq32 0x3F800000 = 0x3F800000 ∧ f1 sqrt32 0x3F800000 = 0x3F800000 ∧
    ex2 0x3F800000 = 0x40000000 ∧ lg2 0x3F800000 = 0) ∧
  (f1 rcp32 0x7F800000 = 0 ∧ f1 rsq32 0x7F800000 = 0 ∧ f1 sqrt32 0x7F800000 = 0x7F800000 ∧ ex2 0x7F800000 = 0x7F800000 ∧
    lg2 0x7F800000 = 0x7F800000 ∧ sin32 0x7F800000 = 0x7FC00000 ∧ cos32 0x7F800000 = 0x7FC00000)) ∧
  (
  convert .bf16 .f32 .rn false 0x3EAAAAAB = 0x3EAB ∧ convert .f16 .f32 .rn false 0x3EAAAAAB = 0x3555 ∧
  convert .f8e4 .f32 .rn false 0x3F800000 = 0x38 ∧ convert .f8e5 .f32 .rn false 0x3F800000 = 0x3C ∧
  convert .f8e4 .f32 .rn false 0x3E99999A = 0x2A ∧ convert .f8e5 .f32 .rn false 0x3E99999A = 0x35 ∧
  convert .f8e4 .f32 .rn false 0x43FA0000 = 0x7F ∧ convert .f8e4 .f32 .rn true 0x43FA0000 = 0x7E ∧
  convert .f8e5 .f32 .rn false 0x43FA0000 = 0x60 ∧ convert .f8e4 .f32 .rn false 0x3A800000 = 0 ∧
  convert .f8e5 .f32 .rn false 0x3A800000 = 0x14 ∧ convert .f8e4 .f32 .rn false 0xFF800000 = 0x7F ∧
  convert .f8e4 .f32 .rn true 0xFF800000 = 0xFE ∧ convert .f8e5 .f32 .rn true 0xFF800000 = 0xFB ∧
  convert .i8 .f32 .rn false 0xC0600000 = 0xFFFFFFFC ∧ convert .i8 .f32 .rz false 0xC0600000 = 0xFFFFFFFD ∧
  convert .i8 .f32 .rna false 0xC0600000 = 0xFFFFFFFC ∧ convert .i8 .f32 .rn false 0x43960000 = 0x7F ∧
  convert .i8 .i32 .rn false 400 = 0xFFFFFF90 ∧ convert .i8 .i32 .rn true 400 = 0x7F ∧
  convert .f32 .i32 .rn false 16777217 = 0x4B800000 ∧ convert .f32 .i32 .rp false 16777217 = 0x4B800001)

end
/-! ## Time, counters, objects in scratchpad, queues -/

namespace Sys2Proof.Obl

open Machine

/-! ### Time registers (R49, R71 to R79) -/

/-- The special registers that `sreg` reads (R35, R108). -/
def special (s : State) (g : Gang) (n : Fin 11) : Option Nat :=
  match n with
  | 0 => (s.ctx? g.ctx).map fun c => c.logical g.core
  | 1 => some g.core.val
  | 2 => g.slot?.map fun q => q.1.val
  | 3 => g.slot?.map fun q => q.2.val
  | 4 => (s.crew? g.crewKey).map fun c => c.index.toNat
  | 5 => some g.key.launch.toNat
  | 6 => some g.ctx.toNat
  | 7 => some (match g.trap with | some b => b.pc.toNat | none => 0)
  | 8 => some (match g.trap with | some b => b.cause.toNat | none => 0)
  | 9 => some (match g.trap with | some b => b.info.toNat | none => 0)
  | 10 => (s.slice? g.key.launch).map fun l =>
      let f := (l.record[(5 : Fin 32)]).extractLsb' 0 32
      if f = 0 then 4096 else f.toNat

/-- The words that read time, the slice or a special register: the destination and the value at the issue clock (R73, R79, R108,
R347, R380). -/
def timeRead (s : State) (g : Gang) : Instr → Option (SReg × DWord)
  | .tnow _ d => some (d, BitVec.ofNat 64 s.time.now)
  | .tget _ d a => some (d, g.t[a].val)
  | .trep _ d => (s.ctx? g.ctx).map fun c => (d, BitVec.ofNat 32 c.dropped ++ c.rrWrite.extractLsb' 0 32)
  | .bgt _ d => (s.slice? g.key.launch).map fun l =>
      (d, if l.limited then BitVec.ofNat 64 (l.budget.toNat - l.count) else BitVec.allOnes 64)
  | .dline _ d => (s.slice? g.key.launch).map fun l => (d, l.deadline)
  | .ergr _ d => (s.slice? g.key.launch).map fun l => (d, l.accShown)
  | .sreg _ d n => (special s g n).map fun x => (d, BitVec.ofNat 64 x)
  | _ => none

/-- The grade of a time register's image (R75): 0 SETTLED, 1 PROMISED or BROKEN, 2 HELD. -/
def gradeOf (x : DWord) : Nat := match x.extractLsb' 62 2 with | 0 => 0 | 3 => 2 | _ => 1
/-- How far a register's tick lies from a tick (R48). -/
def distOf (now : Tick) (x : DWord) : Int := (x.extractLsb' 0 56 - now).toInt
/-- The order of R75: by grade, then by distance; two HELD registers count as equal. -/
def ranksLe (now : Tick) (x y : DWord) : Bool :=
  gradeOf x < gradeOf y || (gradeOf x == gradeOf y && (gradeOf x == 2 || distOf now x ≤ distOf now y))

/-- The words that write one time register: the register, the scalars read, the value (R74 to R76). -/
def timeWrite (now : Tick) (r : SReg → DWord) (x : TReg → DWord) : Instr → Option (TReg × List SReg × DWord)
  | .tset _ d a =>
    let v := r a
    let cl := (v.extractLsb' 56 6).toNat
    match v.extractLsb' 62 2 with
    | 3 => if cl < 1 ∨ 5 < cl then none else some (d, [a], v &&& 0xFF000000FFFFFFFF)
    | 2 => some (d, [a], v)
    | _ => some (d, [a], v &&& 0xC0FFFFFFFFFFFFFF)
  | .tmin _ d a b => some (d, [], if ranksLe now (x a) (x b) then x a else x b)
  | .tmax _ d a b => some (d, [], if ranksLe now (x a) (x b) then x b else x a)
  | .tadd _ d a b n =>
    let y : DWord := (x a).extractLsb' 56 8 ++ ((x a).extractLsb' 0 56 + (r b).extractLsb' 0 56 + n.zeroExtend 56)
    some (d, [b], match (x a).extractLsb' 62 2 with
      | 3 => x a
      | 0 => y ||| 0x4000000000000000
      | _ => y)
  | _ => none

/-- The registers of `ds` take the value `v`, as software wrote them: their requests are detached, and a PROMISED or BROKEN value
settles in the tick it names (R52); nothing else changes. -/
structure TimeWritten (s t : State) (g : Gang) (ds : TReg → Bool) (v : DWord) : Prop where
  rest  : Untouched s { t with reqs := s.reqs } g
  reqs  : t.reqs.map bare = s.reqs.map fun r => bare (if r.of g.key = true ∧ ds r.treg = true then { r with tracked := false } else r)
  gang  : ∃ y, t.gang? g.key = some y ∧ SameRegs g y ∧ SameRest { g with t := y.t, obsT := y.obsT } y ∧
    ∀ n : TReg, y.t[n] = if ds n then ⟨v, true, 0⟩ else g.t[n]
  timer : (v.extractLsb' 62 2 = 1 ∨ v.extractLsb' 62 2 = 2) → ∀ n, ds n = true →
    ⟨s.whenTick (v.extractLsb' 0 56), 3, .ev .detachedTimerSettle, { EvArg.none with key := g.key, treg := n }⟩ ∈ t.agenda

/-! ### Counters and marks (R376 to R384) -/

/-- No armed monitor watches one of `n` bytes from `a` upward (R212). -/
def Unwatched (s : State) (a n : Nat) : Prop :=
  ∀ k, ∀ m ∈ (s.cc k).mons, m.armed = true → m.addr + m.size ≤ a ∨ a + n ≤ m.addr

/-- A counter after the gang's own issue clock has been counted (R377, R379). -/
def ticked (s : State) (g : Gang) (x : Counter) : Counter :=
  if x.counts (s.clock g.core) && x.selects 1 (g.slot?.map (·.1)) (some g.key.launch) then x.add (s.clock g.core) 1 else x

/-- The event codes that R377 assigns. -/
def assignedEvents : List Nat :=
  [0, 1, 2, 3, 4, 5, 6, 0x10, 0x11, 0x12, 0x13, 0x14, 0x20, 0x21, 0x22, 0x23, 0x30, 0x31, 0x32, 0x40, 0x41,
   0x51, 0x52, 0x53, 0x54, 0x55, 0x56, 0x57, 0x58, 0x60]

/-- The words that control a counter: the counter and the scalars read. -/
def counterWord : Instr → Option (EvReg × List SReg)
  | .ctrcSet _ d a b => some (d, [a, b])
  | .ctrcClr _ d => some (d, [])
  | .ctrcStop _ d => some (d, [])
  | .ctrcStart _ d => some (d, [])
  | _ => none

/-- What a counter becomes in clock `c` by a control word (R379, R381): `x` before the word, `y` after it. -/
def Controlled (r : SReg → DWord) (l : LaunchId) (c : Nat) (x y : Counter) : Instr → Prop
  | .ctrcSet _ _ a b => y.sel = (r a).extractLsb' 0 21 ∧ y.owner = l ∧ y.count = (r b).extractLsb' 0 48 ∧ y.ovf = false ∧
      y.run = true ∧ (∀ n, n ≤ c → y.counts n = false) ∧ ∀ n, c < n → y.counts n = true
  | .ctrcClr .. => y.count = 0 ∧ y.ovf = false ∧ y.run = x.run ∧ y.sel = x.sel ∧ y.owner = x.owner ∧
      (∀ n, n ≤ c → y.counts n = false) ∧ ∀ n, c < n → y.counts n = x.run
  | .ctrcStop .. => y.count = x.count ∧ y.ovf = x.ovf ∧ y.run = false ∧ y.sel = x.sel ∧ y.owner = x.owner ∧
      y.counts c = x.counts c ∧ ∀ n, c < n → x.till ≤ n → y.counts n = false
  | .ctrcStart .. => y.count = x.count ∧ y.ovf = x.ovf ∧ y.run = true ∧ y.sel = x.sel ∧ y.owner = x.owner ∧
      y.counts c = x.counts c ∧ ∀ n, c < n → y.counts n = (x.run == false || x.counts n)
  | _ => True

/-! ### Words on objects in scratchpad (R198, R206) -/

/-- The words on barriers and rings that wait at their probe for one pass of the lane port: the scalar that names their operand,
the registers read and written, the barrier slot. -/
def objectWord : Instr → Option (Option SReg × List RegRef × List RegRef × Option BReg)
  | .barInit _ d a _ => some (some a, [.s a], [], some d)
  | .barArrive _ d => some (none, [], [], some d)
  | .barThen _ d _ => some (none, [], [], some d)
  | .barBytes _ d a => some (some a, [.s a], [], some d)
  | .barPhase _ d a => some (none, [], [.s d], some a)
  | .ringInit _ d a _ _ _ => some (some a, [.s a], [.s d], none)
  | .ringFill _ a => some (some a, [.s a], [], none)
  | .ringAwait _ d a => some (some a, [.s a], [.s d], none)
  | .ringRelease _ a => some (some a, [.s a], [], none)
  | .ringState _ d a => some (some a, [.s a], [.s d], none)
  | _ => none

/-- Low word of an operand, as an offset. -/
def low (x : DWord) : Nat := (x.extractLsb' 0 32).toNat
/-- High word of an operand. -/
def high (x : DWord) : Nat := (x.extractLsb' 32 32).toNat

/-- What such a word checks before its pass (R195, R199, R202, R207). -/
def objectFits (o : DWord) (g : Gang) (cr : Crew) : Instr → Prop
  | .barInit .. => low o % 16 = 0 ∧ low o + 16 ≤ cr.partLen
  | .barThen _ d _ => g.front = [] ∧ cr.bind[d] + 16 ≤ cr.partLen
  | .barArrive _ d => cr.bind[d] + 16 ≤ cr.partLen
  | .barBytes _ d _ => cr.bind[d] + 16 ≤ cr.partLen
  | .barPhase _ _ a => cr.bind[a] + 16 ≤ cr.partLen
  | .ringInit _ _ _ n _ size => low o % 32 = 0 ∧ high o % 128 = 0 ∧ low o + 32 ≤ cr.partLen ∧
      high o + (n.val + 1) * (128 * size.toNat) ≤ cr.partLen
  | _ => True

/-- After its issue the word waits for its pass: the gang issues nothing, its operand is read, the lane port is booked, the pass is
on the agenda; nothing else has changed. -/
def AwaitsPass (s t : State) (g : Gang) (c : Clause) (i : Instr) (o : Option SReg) : Prop :=
  Untouched s (t.setCore g.core { t.core g.core with laneFree := (s.core g.core).laneFree }) g ∧
  (∃ y, t.gang? g.key = some y ∧ y.wait = true ∧ y.probing = some (i, c.next, false) ∧ SameRegs g y ∧ y.sel = g.sel ∧
    y.front = g.front ∧ y.t = g.t ∧ (∀ a, o = some a → y.opnd = rs s g a)) ∧
  ∃ d ∈ t.agenda, d.task = .ev .probePass ∧ d.arg.key = g.key ∧ s.now ≤ d.tick

/-- The gang `y` of crew `cr` attempts the probe of its word `i` at `pc`, the last to issue, once more: PROBE_PASS. -/
structure AtPass (u : State) (y : Gang) (e : Entry) (cl : Clause) (cr : Crew) (i : Instr) (pc : Pc) : Prop where
  gang  : u.gang? u.arg.key = some y
  key   : y.key = u.arg.key
  word  : y.probing = some (i, pc, false)
  entry : y.sel = some e
  lanes : e.mask ≠ 0
  cls   : y.clause = some cl
  here  : y.parked = false
  crew  : u.crew? y.crewKey = some cr

/-- The same once every earlier access of the gang is performed at scope crew (R198). -/
def InPass (u : State) (y : Gang) (e : Entry) (cl : Clause) (cr : Crew) (i : Instr) (pc : Pc) : Prop :=
  AtPass u y e cl cr i pc ∧ ∃ n, u.crewFloor y = some n ∧ n ≤ u.now

/-- A pass has worked on the object of `n` bytes at offset `o` of the crew's partition and on nothing else but crews. -/
def ObjectOnly (u v : State) (y : Gang) (cr : Crew) (o n : Nat) : Prop :=
  Untouched u ((v.setCore cr.core { v.core cr.core with spad := (u.core cr.core).spad }).setCrews u.crews) y false ∧
  ∀ a, (a < cr.partBase + o ∨ cr.partBase + o + n ≤ a) → memGet (v.core cr.core).spad a = memGet (u.core cr.core).spad a

/-- The gang goes on after its pass with its registers as they were. -/
def GoesOn (v : State) (y : Gang) : Prop :=
  ∃ z, v.gang? y.key = some z ∧ z.wait = false ∧ z.probing = none ∧ SameRegs y z ∧
    SameRest { y with wait := false, stall := 0, probing := none, marks := [] } z

/-- The gang goes on with the value `x` in scalar register `d`, and its other registers as they were. -/
def GoesOnWith (u v : State) (y : Gang) (d : SReg) (x : DWord) : Prop :=
  ∃ z, v.gang? y.key = some z ∧ z.wait = false ∧ z.probing = none ∧ SameRest { y with wait := false, stall := 0, probing := none, marks := [] } z ∧
    KeepsS y z (u.clock y.core) (fun n => n == d) ∧ z.v = y.v ∧ z.p = y.p ∧
    (¬ dueS y d (u.clock y.core) → ∀ f k, u.clock y.core ≤ k → z.readS f k d = x)

/-- The trap of a pass (R351): taken at the word, with nothing of the word done. -/
def PassTraps (u v : State) (y : Gang) (e : Entry) (cl : Clause) (pc : Pc) (cause : Byte) (info : Word) : Prop :=
  Untouched u v y false ∧ ∃ z, v.gang? y.key = some z ∧ z.trap = some ⟨pc, cl.hdr, cause, info, true⟩ ∧ z.hmask = e.mask ∧
    z.front = frontInsert { e with pc := u.handlerOf y } y.front ∧ z.sel = none ∧ z.clause = none ∧ z.wait = false ∧ SameRegs y z ∧
    z.t = y.t

/-- The record of a gang of the crew that waits on an object and argument (R197, R208). -/
def waitsOn (k : CrewKey) (wake : BitVec 4) (object : BitVec 16) (arg : Word) (x : Gang) : Prop :=
  x.crewKey = k ∧ x.parked = true ∧ x.wait = false ∧ x.hd.wake = wake ∧ x.hd.object = object ∧ x.hd.arg = arg ∧ x.hd.key = none ∧
    x.hd.kind ≠ 4

/-- Every such record is eligible with the present tick as its key. -/
def Woken (u v : State) (k : CrewKey) (wake : BitVec 4) (object : BitVec 16) (arg : Word) : Prop :=
  ∀ j x, u.gang? j = some x → waitsOn k wake object arg x →
    ∃ z, v.gang? j = some z ∧ z.hd.key = some (recordable (BitVec.ofNat 56 u.now))

/-- The completion of a phase (R197): the object goes on to the next phase, the records that wait for the old one become eligible,
each registered gang starts as a fresh spawn at its PC with 32 lanes and priority 31, and the registrations are gone. -/
def Completes (u v : State) (cr : Crew) (d : BReg) (b : Bar) (regs : List Registration) : Prop :=
  v.bar cr d = { b with phase := b.phase + 1, amask := 0, xbytes := 0, lbytes := 0 } ∧
  Woken u v cr.key 3 (BitVec.ofNat 16 d.val) b.phase ∧
  v.crew? cr.key = some { cr with regs := regs.filter fun r => r.slot != d } ∧
  ∀ l, u.slice? cr.key.launch = some l → (regs.Pairwise fun p q => p.gang ≠ q.gang) →
    ∀ r ∈ regs, r.slot = d → (∀ x ∈ u.gangs, x.crewKey = cr.key → x.key.gang = r.gang → False) →
    ∃ z, v.gang? ⟨cr.key.launch, cr.key.crew, r.gang⟩ = some z ∧ z.hd.kind = 2 ∧ z.hd.object = BitVec.ofNat 16 d.val ∧
      z.hd.arg = b.phase + 1 ∧ z.front = [⟨r.pc, 31, 0xFFFFFFFF⟩] ∧
      ((∀ (k : CoreId) (j : EvReg), ((u.cc k).ev[j]).readers = []) → z.s[(1 : SReg)] = BitVec.ofNat 64 r.gang.val ∧
        z.s[(8 : SReg)] = (b.phase + 1).zeroExtend 64)

/-- The effect of a barrier word in its pass (R199, R200, R202, R203). -/
def barrierEffect (u v : State) (y : Gang) (e : Entry) (cl : Clause) (cr : Crew) (pc : Pc) : Instr → Prop
  | .barInit _ d _ n =>
    let o := low y.opnd
    let b := if cr.bind[d] + 16 ≤ cr.partLen then u.bar cr d else ⟨0, 0, 0, 0, 0, 0⟩
    let idle := b.amask = 0 ∧ b.lbytes = 0 ∧ (∀ r ∈ cr.regs, r.slot ≠ d) ∧
      ∀ x ∈ u.gangs, x.crewKey = cr.key → x.parked = true → x.hd.wake = 3 → x.hd.object ≠ BitVec.ofNat 16 d.val
    let cr' := { cr with bind := cr.bind.set d o }
    (idle → v.crew? cr.key = some cr' ∧ v.bar cr' d = ⟨0, 0, n.val + 1, 0, 0, 0⟩ ∧ ObjectOnly u v y cr o 16 ∧ GoesOn v y) ∧
    (¬ idle → y.inHandler = false → u.handlerOf y ≠ 0 → PassTraps u v y e cl pc 0x0D (BitVec.ofNat 32 d.val))
  | .barArrive _ d =>
    let b := u.bar cr d
    let bit : Word := BitVec.ofNat 32 (2 ^ y.key.gang.val)
    let b' := { b with amask := b.amask ||| bit }
    let twice := b.amask &&& bit ≠ 0 ∨ popcount b.amask = u.expected cr b
    let full := popcount b'.amask = u.expected cr b ∧ b.xbytes ≤ b.lbytes
    (twice → y.inHandler = false → u.handlerOf y ≠ 0 → PassTraps u v y e cl pc 0x0D (BitVec.ofNat 32 d.val)) ∧
    (¬ twice → ¬ full → v.bar cr d = b' ∧ ObjectOnly u v y cr cr.bind[d] 16 ∧ v.crews = u.crews ∧ GoesOn v y) ∧
    (¬ twice → full → Completes u v cr d b' cr.regs ∧ GoesOn v y)
  | .barThen _ d off =>
    let b := u.bar cr d
    let bit : Word := BitVec.ofNat 32 (2 ^ y.key.gang.val)
    let b' := { b with amask := b.amask ||| bit }
    let twice := b.amask &&& bit ≠ 0 ∨ popcount b.amask = u.expected cr b
    let full := popcount b'.amask = u.expected cr b ∧ b.xbytes ≤ b.lbytes
    let regs := cr.regs ++ [⟨d, y.key.gang, pc + 4 * off.signExtend 48⟩]
    (twice → y.inHandler = false → u.handlerOf y ≠ 0 → PassTraps u v y e cl pc 0x0D (BitVec.ofNat 32 d.val)) ∧
    (¬ twice → ¬ full → v.bar cr d = b' ∧ v.crew? cr.key = some { cr with regs := regs } ∧ v.gang? y.key = none ∧
      (∀ a, memGet v.mem a = memGet u.mem a)) ∧
    (¬ twice → full → Completes (u.dropGang y.key) v cr d b' regs)
  | .barBytes _ d _ =>
    let b := u.bar cr d
    v.bar cr d = { b with xbytes := min (b.xbytes + low y.opnd) (2 ^ 28 - 1) } ∧ ObjectOnly u v y cr cr.bind[d] 16 ∧
      v.crews = u.crews ∧ GoesOn v y
  | .barPhase _ d a =>
    GoesOnWith u v y d ((u.bar cr a).phase.zeroExtend 64) ∧ v.crews = u.crews ∧ ObjectOnly u v y cr 0 0
  | _ => True

/-- The effect of a ring word in its pass (R207 to R211); `m` stands for the misuse of R206. -/
def ringEffect (u v : State) (y : Gang) (e : Entry) (cl : Clause) (cr : Crew) (pc : Pc) (i : Instr) : Prop :=
  let o := low y.opnd
  let traps := fun (cause : Byte) (info : Word) => y.inHandler = false → u.handlerOf y ≠ 0 → PassTraps u v y e cl pc cause info
  let same := ObjectOnly u v y cr o 32 ∧ v.crews = u.crews
  match i, u.ringAt cr o with
  | .ringInit _ d _ n strict size, some x =>
    let r := u.ring cr o
    let l := r.count * 2 ^ 24
    let ahead := (r.claims + l - r.fills) % l
    let busy := (1 ≤ ahead ∧ ahead ≤ r.count) ∨ ∃ k : CoreId, ∃ z ∈ (u.cc k).cmds, z.holdsFor cr.key o = true
    (busy → traps 0x0D (BitVec.ofNat 32 x.num.val)) ∧
    (¬ busy → v.ring cr o = ⟨128 * size.toNat, high y.opnd, 0, 0, 0, 0, n.val + 1, false, strict, x.num.val⟩ ∧ same ∧
      GoesOnWith u v y d (BitVec.ofNat 64 x.num.val))
  | .ringInit _ d _ n strict size, none =>
    (∀ m : Fin 64, (∀ x ∈ (u.cc y.core).rings, x.num ≠ m) → (∀ k : Fin 64, k < m → ∃ x ∈ (u.cc y.core).rings, x.num = k) →
      v.ring cr o = ⟨128 * size.toNat, high y.opnd, 0, 0, 0, 0, n.val + 1, false, strict, m.val⟩ ∧
      (v.cc y.core).rings = (u.cc y.core).rings ++ [⟨m, cr.key, o⟩] ∧ v.crews = u.crews ∧
      ObjectOnly u (v.setCc y.core { v.cc y.core with rings := (u.cc y.core).rings }) y cr o 32 ∧
      GoesOnWith u v y d (BitVec.ofNat 64 m.val)) ∧
    ((∀ m : Fin 64, ∃ x ∈ (u.cc y.core).rings, x.num = m) → ObjectOnly u v y cr 0 0 ∧ v.crews = u.crews ∧
      GoesOnWith u v y d (BitVec.allOnes 64))
  | .ringFill .., some x =>
    let r := u.ring cr o
    let k := r.fills % r.count
    (r.full.getLsbD k = true → (v.ring cr o = { r with ovr := true } ∧ (r.strict = false → same ∧ GoesOn v y)) ∧
      (r.strict = true → y.inHandler = false → u.handlerOf y ≠ 0 → ∃ z, v.gang? y.key = some z ∧
        z.trap = some ⟨pc, cl.hdr, 0x0D, BitVec.ofNat 32 x.num.val, true⟩)) ∧
    (r.full.getLsbD k = false →
      v.ring cr o = { r with full := r.full ||| BitVec.ofNat 64 (2 ^ k), fills := (r.fills + 1) % (r.count * 2 ^ 24) } ∧
      Woken u v cr.key 4 (BitVec.ofNat 16 r.num) (BitVec.ofNat 32 k) ∧ v.crews = u.crews ∧ (∀ a, memGet v.mem a = memGet u.mem a) ∧
      (∀ k a, (k ≠ cr.core ∨ a < cr.partBase + o ∨ cr.partBase + o + 32 ≤ a) → memGet (v.core k).spad a = memGet (u.core k).spad a) ∧
      GoesOn v y)
  | .ringAwait _ d _, some x =>
    let r := u.ring cr o
    let l := r.count * 2 ^ 24
    let k := r.claims % r.count
    let at_ : DWord := BitVec.ofNat 64 (r.base + k * r.size)
    ((r.claims + l - r.rels) % l = r.count → traps 0x0D (BitVec.ofNat 32 x.num.val)) ∧
    ((r.claims + l - r.rels) % l ≠ r.count →
      v.ring cr o = { r with claims := (r.claims + 1) % l } ∧
      (r.full.getLsbD k = true → same ∧ GoesOnWith u v y d at_) ∧
      (r.full.getLsbD k = false → ∃ z, v.gang? y.key = some z ∧ z.hd.kind = 1 ∧ z.hd.wake = 4 ∧ z.hd.object = BitVec.ofNat 16 r.num ∧
        z.hd.arg = BitVec.ofNat 32 k ∧ z.hd.wtick = 0 ∧ z.front = placeLanes e.mask cl.next e.prio y.front ∧ z.sel = none ∧
        (¬ dueS y d (u.clock y.core) → z.s[d] = at_)))
  | .ringRelease .., some x =>
    let r := u.ring cr o
    let k := r.rels % r.count
    let wrong := r.rels = r.claims ∨ r.full.getLsbD k = false
    (wrong → (v.ring cr o = { r with ovr := true } ∧ (r.strict = false → same ∧ GoesOn v y)) ∧
      (r.strict = true → y.inHandler = false → u.handlerOf y ≠ 0 → ∃ z, v.gang? y.key = some z ∧
        z.trap = some ⟨pc, cl.hdr, 0x0D, BitVec.ofNat 32 x.num.val, true⟩)) ∧
    (¬ wrong → v.ring cr o = { r with full := r.full &&& ~~~(BitVec.ofNat 64 (2 ^ k)), rels := (r.rels + 1) % (r.count * 2 ^ 24) } ∧
      same ∧ GoesOn v y)
  | .ringState _ d _, some _ =>
    let r := u.ring cr o
    same ∧ GoesOnWith u v y d (BitVec.ofNat 64 (popcount r.full + 256 * (r.fills % r.count) + 65536 * (r.claims % r.count) +
      16777216 * (r.rels % r.count) + (if r.ovr then 2 ^ 32 else 0) + (if r.strict then 2 ^ 33 else 0)))
  | .ringFill .., none => traps 0x04 (BitVec.ofNat 32 o)
  | .ringAwait .., none => traps 0x04 (BitVec.ofNat 32 o)
  | .ringRelease .., none => traps 0x04 (BitVec.ofNat 32 o)
  | .ringState .., none => traps 0x04 (BitVec.ofNat 32 o)
  | _, _ => True

/-! ### Queue words (R339 to R343) -/

/-- The queue words: the operand, the registers read and written, the time register, what the hub is asked for, whether the word
takes records. -/
def queueWord (v : VReg → Nat → Word) : Instr → Option (SReg × List RegRef × List RegRef × TReg × QueueOp × Bool)
  | .qbindPin _ a => some (a, [.s a], [], 0, .pin, false)
  | .qbind _ a => some (a, [.s a], [], 0, .unpin, false)
  | .qpush _ d a t => some (a, [.s a, .v d], [], t, .push (Vector.ofFn fun i => v d i.val), false)
  | .qpop _ d a t => some (a, [.s a], [.v d], t, .pop d, true)
  | .qpeek _ d a t => some (a, [.s a], [.v d], t, .peek d, true)
  | .qlen _ d a => some (a, [.s a], [.s d], 0, .len d, false)
  | _ => none

end Sys2Proof.Obl

section
open Sys2Proof Sys2Proof.Machine Sys2Proof.Obl

/-- The words that read device time, a time register, the report counts, the slice's budget, deadline and energy, or a special
register write the value of their issue clock, readable after 2 clocks (R71, R73, R77, R79, R108, R347, R380). -/
def Obligations.TimeReads : Prop :=
  (∀ (s : State) (g : Gang) (e : Entry) (c : Clause) (i : Instr) (d : SReg) (v : DWord), timeRead s g i = some (d, v) →
    Ready s g e c .free [] [.s d] → ∃ t, exec i s = .next t ∧ (e.mask ≠ 0 → ScalarResult s t g 2 d v)) ∧
  (∀ (s : State) (g : Gang) (e : Entry) (c : Clause) (n : Stall) (d : SReg) (a b : TReg), Ready s g e c .free [] [.s d] →
    ∃ (t : State) (ns : List Nat), exec (.tsort n d a b) s = .next t ∧
      ns.Perm ((List.range 16).filter fun k => a.val ≤ k && k ≤ b.val) ∧
      ns.Pairwise (fun j k => ranksLe (BitVec.ofNat 56 s.now) (vget g.t j).val (vget g.t k).val = true ∧
        (ranksLe (BitVec.ofNat 56 s.now) (vget g.t k).val (vget g.t j).val = true → j < k)) ∧
      (e.mask ≠ 0 → ScalarResult s t g 2 d (BitVec.ofNat 64 (ns.foldr (fun k x => k + 16 * x) 0))))

/-- The words that write time registers (R52, R74 to R76, R78); `tset` of a HELD value with a class outside 1 to 5 raises trap
0x01. -/
def Obligations.TimeWrites : Prop :=
  (∀ (s : State) (g : Gang) (e : Entry) (c : Clause) (i : Instr) (d : TReg) (as : List SReg) (v : DWord),
    timeWrite (BitVec.ofNat 56 s.now) (rs s g) (fun n => g.t[n].val) i = some (d, as, v) →
    Ready s g e c .free (as.map .s) [] → ∃ t, exec i s = .next t ∧ (e.mask ≠ 0 → TimeWritten s t g (fun n => n == d) v)) ∧
  (∀ (s : State) (g : Gang) (e : Entry) (c : Clause) (n : Stall) (d l : TReg), Ready s g e c .free [] [] →
    ∃ t, exec (.tclr n d l) s = .next t ∧ (e.mask ≠ 0 → TimeWritten s t g (fun n => d ≤ n && n ≤ l) 0)) ∧
  (∀ (s : State) (g : Gang) (e : Entry) (c : Clause) (n : Stall) (d : TReg) (a : SReg), Ready s g e c .free [.s a] [] →
    timeWrite (BitVec.ofNat 56 s.now) (rs s g) (fun n => g.t[n].val) (.tset n d a) = none → g.inHandler = false →
    s.handlerOf g ≠ 0 → ∃ t, exec (.tset n d a) s = .next t ∧ TookTrap s t g e c 0x01 0)

/-- Event counters (R379 to R381): `ctrr` reads what the counter held before the clock, with OVF where it wraps in the clock, and
changes no count; the control words act at the end of their clock, on one counter; a reserved selector raises trap 0x01.
The model's own choices in it: log entry 107. -/
def Obligations.Counters : Prop :=
  (∀ (s : State) (g : Gang) (e : Entry) (c : Clause) (n : Stall) (d : SReg) (k : EvReg), Ready s g e c .free [] [.s d] →
    let x := (s.cc g.core).ev[k]
    let o := x.open (s.clock g.core)
    let wraps := x.counts (s.clock g.core) && x.selects 1 (g.slot?.map (·.1)) (some g.key.launch) && decide (2 ^ 48 ≤ x.count.toNat + 1)
    ∃ t, exec (.ctrr n d k) s = .next t ∧ (e.mask ≠ 0 →
      ScalarResult s t g 2 d (BitVec.ofBool (o.ovf0 || o.wrapped || wraps) ++ BitVec.ofBool o.run0 ++ (0 : BitVec 14) ++ o.before) ∧
      ∀ j : EvReg, ((t.cc g.core).ev[j]).count = (ticked s g (s.cc g.core).ev[j]).count ∧
        ((t.cc g.core).ev[j]).ovf = (ticked s g (s.cc g.core).ev[j]).ovf)) ∧
  (∀ (s : State) (g : Gang) (e : Entry) (c : Clause) (i : Instr) (d : EvReg) (as : List SReg), counterWord i = some (d, as) →
    Ready s g e c .free (as.map .s) [] →
    let bad := ∃ n a b, i = .ctrcSet n d a b ∧
      ((rs s g a).extractLsb' 21 43 ≠ 0 ∨ ((rs s g a).extractLsb' 0 16).toNat ∉ assignedEvents)
    (¬ bad → ∃ t, exec i s = .next t ∧ (e.mask ≠ 0 → Untouched s t g ∧ (∃ y, t.gang? g.key = some y ∧ SameRest g y ∧ SameRegs g y) ∧
      Controlled (rs s g) g.key.launch (s.clock g.core) (ticked s g (s.cc g.core).ev[d]) ((t.cc g.core).ev[d]) i ∧
      ∀ j, j ≠ d → (t.cc g.core).ev[j] = ticked s g (s.cc g.core).ev[j])) ∧
    (bad → g.inHandler = false → s.handlerOf g ≠ 0 → ∃ t, exec i s = .next t ∧ TookTrap s t g e c 0x01 0))

/-- `smark` (R383, R384, R386): with the trace ring on, a mark record of 64 bytes is appended at the next position, or dropped and
counted when the ring is full; with it off nothing happens. Nothing else changes, unless a monitor watches the bytes written (R212). -/
def Obligations.Marks : Prop :=
  ∀ (s : State) (g : Gang) (e : Entry) (c : Clause) (n : Stall) (a : SReg) (x : Byte) (cr : Crew), MemoryOk s → Ready s g e c .free [.s a] [] →
    s.crew? g.crewKey = some cr →
    let tr := (s.cc g.core).trc
    let k := (tr.ctl.extractLsb' 43 5).toNat
    let at_ := (tr.base.extractLsb' 0 52).toNat + 64 * (tr.writes.toNat % 2 ^ k)
    let ds : List DWord := [(1 : Byte) ++ x ++ BitVec.ofNat 8 g.key.gang.val ++ cr.index.extractLsb' 0 16 ++ g.key.launch,
      c.next.zeroExtend 64, BitVec.ofNat 64 s.now, rs s g a, 0, 0, 0, 0]
    ∃ t, exec (.smark n a x) s = .next t ∧ (e.mask ≠ 0 →
      ((k ≠ 0 → (tr.writes - tr.read).toNat ≠ 2 ^ k → Unwatched s at_ 64) →
        Untouched s ((t.setMem s.mem).setCc g.core { t.cc g.core with trc := tr }) g) ∧
      (∃ y, t.gang? g.key = some y ∧ SameRest g y ∧ SameRegs g y) ∧
      (k = 0 → (∀ b, memGet t.mem b = memGet s.mem b) ∧ (t.cc g.core).trc = tr) ∧
      (k ≠ 0 → (tr.writes - tr.read).toNat = 2 ^ k → (∀ b, memGet t.mem b = memGet s.mem b) ∧
        (t.cc g.core).trc = { tr with drops := if tr.drops = 0xFFFFFFFF then tr.drops else tr.drops + 1 }) ∧
      (k ≠ 0 → (tr.writes - tr.read).toNat ≠ 2 ^ k → (t.cc g.core).trc = { tr with writes := tr.writes + 1 } ∧
        (∀ j, j < 8 → memDWord t.mem (at_ + 8 * j) = ds.getD j 0) ∧
        ∀ b, b < at_ ∨ at_ + 64 ≤ b → memGet t.mem b = memGet s.mem b))

/-- The barrier words but `bar.wait` (R198 to R200, R202, R203): the word waits for its pass of the lane port, in which it has its
effect, the completion test of R197 among it. `bar.wait` (R201): the gang deposits for the slot in its issue clock; in its pass the record takes the phase in which the gang has
arrived, or the phase before it and is then eligible at once.
The model's own choices in it: log entry 10. -/
def Obligations.BarrierWords : Prop :=
  (
  ∀ (s : State) (g : Gang) (e : Entry) (c : Clause) (i : Instr) (o : Option SReg) (rd wr : List RegRef) (d : BReg) (cr : Crew),
    objectWord i = some (o, rd, wr, some d) → Ready s g e c .free rd wr → s.crew? g.crewKey = some cr → d.val < cr.bars →
    objectFits (match o with | some a => rs s g a | none => 0) g cr i → (s.crewFloor g).isSome = true →
    ∃ t, exec i s = .next t ∧ (e.mask ≠ 0 → AwaitsPass s t g c i o) ∧
      ∀ (u : State) (y : Gang) (e' : Entry) (cl : Clause) (cr' : Crew) (pc : Pc), MemoryOk u → InPass u y e' cl cr' i pc →
        objectFits y.opnd y cr' i → ∃ v, exec .probePass u = .next v ∧ barrierEffect u v y e' cl cr' pc i) ∧
  (
  ∀ (s : State) (g : Gang) (e : Entry) (c : Clause) (n : Stall) (d : BReg) (cr : Crew), Ready s g e c .free [] [] →
    s.crew? g.crewKey = some cr → d.val < cr.bars → cr.bind[d] + 16 ≤ cr.partLen →
    (∃ t y, exec (.barWait n d) s = .next t ∧ t.gang? g.key = some y ∧ (e.mask ≠ 0 → y.hd.kind = 1 ∧ y.hd.wake = 3 ∧
      y.hd.object = BitVec.ofNat 16 d.val ∧ y.hd.wtick = 0 ∧ y.front = placeLanes e.mask (c.next + 4) e.prio g.front ∧
      y.sel = none ∧ y.clause = none ∧ y.wait = true ∧ y.probing = some (.barWait n d, c.next, false) ∧
      y.s = g.s ∧ y.v = g.v ∧ y.p = g.p ∧ y.t = g.t)) ∧
    ∀ (u : State) (y : Gang) (cr' : Crew) (pc : Pc), u.gang? u.arg.key = some y → y.key = u.arg.key →
      y.probing = some (.barWait n d, pc, false) → y.parked = true → y.front ≠ [] → y.hd.key = none → y.hd.kind = 1 → y.sel = none →
      y.clause = none → u.crew? y.crewKey = some cr' → cr'.bind[d] + 16 ≤ cr'.partLen →
      (∃ k, u.crewFloor y = some k ∧ k ≤ u.now) →
      let b := u.bar cr' d
      let arrived := b.amask &&& BitVec.ofNat 32 (2 ^ y.key.gang.val) ≠ 0
      ∃ v z, exec .probePass u = .next v ∧ v.gang? y.key = some z ∧ z.wait = false ∧
        (arrived → z.hd.arg = b.phase ∧ z.hd.key = none) ∧
        (¬ arrived → z.hd.arg = b.phase - 1 ∧ z.hd.key = some (recordable (BitVec.ofNat 56 u.now))))

/-- The ring words (R206 to R211): the word waits for its pass, in which it has its effect; an offset that names no ring of the crew
raises trap 0x04 with the offset (R204).
The model's own choices in it: log entry 10. -/
def Obligations.RingWords : Prop :=
  ∀ (s : State) (g : Gang) (e : Entry) (c : Clause) (i : Instr) (o : Option SReg) (rd wr : List RegRef) (cr : Crew),
    objectWord i = some (o, rd, wr, none) → wellFormed i = true → Ready s g e c .free rd wr → s.crew? g.crewKey = some cr →
    objectFits (match o with | some a => rs s g a | none => 0) g cr i → (s.crewFloor g).isSome = true →
    ∃ t, exec i s = .next t ∧ (e.mask ≠ 0 → AwaitsPass s t g c i o) ∧
      ∀ (u : State) (y : Gang) (e' : Entry) (cl : Clause) (cr' : Crew) (pc : Pc), MemoryOk u → InPass u y e' cl cr' i pc →
        objectFits y.opnd y cr' i → (∀ x, u.ringAt cr' (low y.opnd) = some x → 0 < (u.ring cr' (low y.opnd)).count) →
        ∃ v, exec .probePass u = .next v ∧ ringEffect u v y e' cl cr' pc i

/-- `mwait` (R214): a deposit on the gang's monitor, with a tick to time out at or 0; eligible at once if HIT is set; without a monitor
trap 0x0C with info 1. -/
def Obligations.MonitorWait : Prop :=
  ∀ (s : State) (g : Gang) (e : Entry) (c : Clause) (n : Stall) (k : BitVec 32), Ready s g e c .free [] [] →
    (∀ m, (s.cc g.core).mons.find? (fun m => m.gang = g.key) = some m →
      ∃ t, exec (.mwait n k) s = .next t ∧ (e.mask ≠ 0 →
        Deposited s t g (placeLanes e.mask (c.next + 8) e.prio g.front) 5 0 false false
          (recordable (if k = 0 then 0 else BitVec.ofNat 56 (s.now + k.toNat))) ∧
        ∃ y, t.gang? g.key = some y ∧ y.hd.object = BitVec.ofNat 16 m.num.val ∧
          (g.resident = true → y.hd.key = if m.hit then some (recordable (BitVec.ofNat 56 s.now)) else none))) ∧
    ((∀ m ∈ (s.cc g.core).mons, m.gang ≠ g.key) → g.inHandler = false → s.handlerOf g ≠ 0 →
      ∃ t, exec (.mwait n k) s = .next t ∧ TookTrap s t g e c 0x0C 1)

/-- The queue words (R332, R339 to R343): a request of the hub with the word's operation and handle is made, and the gang waits for the
reply; a push is ordered behind every earlier access of the gang, a pop is an acquire. A handle that the context may not use raises
trap 0x06, and a word that takes records from a dispatch queue trap 0x05, with the handle as info.
The model's own choices in it: log entry 47. -/
def Obligations.QueueWords : Prop :=
  ∀ (s : State) (g : Gang) (e : Entry) (c : Clause) (i : Instr) (a : SReg) (rd wr : List RegRef) (tr : TReg) (op : QueueOp)
    (takes : Bool) (x : Ctx), queueWord (fun d l => rv s g (.v d) l) i = some (a, rd, wr, tr, op, takes) →
    Ready s g e c .free rd wr → s.ctx? g.ctx = some x →
    let h : QHandle := (rs s g a).extractLsb' 0 16
    (∀ d, s.usableQueue x h = some d → (takes && d.dispatch) = false → s.promisesUsed g.core < 1024 →
      ∃ t y r, exec i s = .next t ∧ (e.mask ≠ 0 → t.gang? g.key = some y ∧ y.wait = true ∧ y.probing = some (i, c.next, false) ∧
        y.opnd = BitVec.ofNat 64 s.own.nextReq ∧ SameRegs g y ∧ y.sel = g.sel ∧ y.front = g.front ∧
        r ∈ t.reqs ∧ r.id = s.own.nextReq ∧ r.owner = g.key ∧ r.pc = c.next ∧ r.treg = tr ∧ r.effect = .queue op h ∧ r.replied = false ∧
        (∀ w, op = .push w → ∀ b ∈ s.reqs, b.of g.key = true → b.access = true → (b.id, Scope.dev) ∈ r.after) ∧
        (∀ w, op = .pop w → r.flush = true) ∧ ∀ b, memGet t.mem b = memGet s.mem b)) ∧
    (s.usableQueue x h = none → g.inHandler = false → s.handlerOf g ≠ 0 →
      ∃ t, exec i s = .next t ∧ TookTrap s t g e c 0x06 (h.zeroExtend 32)) ∧
    (∀ d, s.usableQueue x h = some d → (takes && d.dispatch) = true → g.inHandler = false → s.handlerOf g ≠ 0 →
      ∃ t, exec i s = .next t ∧ TookTrap s t g e c 0x05 (h.zeroExtend 32))

end
/-! ## Memory port, scratchpad, copies -/

namespace Sys2Proof.Obl

open Machine

/-! ### Device accesses (R276, R282 to R289) -/

/-- Whether lane `l` of an entry makes an access: every active lane, or the lowest one of a scalar form (R283). -/
def acts (d : DataReg) (m : Mask) (l : Nat) : Bool :=
  m.getLsbD l && (match d with | .v _ => true | .s _ => (List.range l).all fun j => !m.getLsbD j)
/-- The exact offset of a lane's access (R283). -/
def offsetOf (s : State) (g : Gang) (m : MemOp) (l : Nat) : Int :=
  (match m.off with | .v n => ((rv s g (.v n) l).toNat : Int) | .s n => ((rs s g n).toNat : Int)) + m.imm.toInt
/-- The accesses of a word, by ascending lane. -/
def accessesOf (s : State) (g : Gang) (m : MemOp) (e : Entry) : List Access :=
  ((List.range 32).filter fun l => acts m.data e.mask l).map fun l => ⟨l, offsetOf s g m l, m.w.size⟩
/-- The handle of a word (R271). -/
def handleOf (s : State) (g : Gang) (m : MemOp) : Nat := ((rs s g m.h).extractLsb' 0 20).toNat
/-- The bytes of a lane's data group `n` as read in clock `c`. -/
def dataOf (s : State) (g : Gang) (m : MemOp) (c n l : Nat) : List Byte := g.dataBytes s.freeNo c m.data m.w n l
/-- The request of an access: one for each line (R284, R285). -/
def unitOf (a : Access) : Nat := a.off.toNat / 128 * 128
/-- The entries of the promise table that accesses take: one for each line, or on the host and peer tiers one for each access
(R282). -/
def tableOf (b : Vector DWord 8) (as : List Access) : Nat :=
  if Buf.tier b < 2 then (as.map unitOf).eraseDups.length else as.length

/-- The loads, stores, atomics and reductions: the operand, the right needed, what a request does, the data groups read and
written. -/
def deviceWord : Instr → Option (MemOp × Need × Effect × List Nat × List Nat)
  | .ld _ m => some (m, .read, .load m.data m.w, [], [0])
  | .st _ m => some (m, .write, .store, [0], [])
  | .atomAdd _ m => some (m, .atomic, .atomic .add (some m.data) m.w, [1], [0])
  | .atomMin _ m => some (m, .atomic, .atomic .min (some m.data) m.w, [1], [0])
  | .atomMax _ m => some (m, .atomic, .atomic .max (some m.data) m.w, [1], [0])
  | .atomAnd _ m => some (m, .atomic, .atomic .and (some m.data) m.w, [1], [0])
  | .atomOr _ m => some (m, .atomic, .atomic .or (some m.data) m.w, [1], [0])
  | .atomXor _ m => some (m, .atomic, .atomic .xor (some m.data) m.w, [1], [0])
  | .atomXchg _ m => some (m, .atomic, .atomic .xchg (some m.data) m.w, [1], [0])
  | .atomCas _ m => some (m, .atomic, .atomic .cas (some m.data) m.w, [1, 2], [0])
  | .atomInc _ m => some (m, .atomic, .atomic .inc (some m.data) m.w, [1], [0])
  | .atomFadd _ m => some (m, .atomic, .atomic .fadd (some m.data) m.w, [1], [0])
  | .redAdd _ m => some (m, .atomic, .atomic .add none m.w, [0], [])
  | .redMin _ m => some (m, .atomic, .atomic .min none m.w, [0], [])
  | .redMax _ m => some (m, .atomic, .atomic .max none m.w, [0], [])
  | .redFadd _ m => some (m, .atomic, .atomic .fadd none m.w, [0], [])
  | _ => none

/-- The registers of the data groups `ns` of an operand. -/
def groupsOf (m : MemOp) (ns : List Nat) : List RegRef := ns.flatMap fun n => dataRefs m.data m.w n

/-- The accesses may be made by buffer record `b` (R273, R276), by a cached record and translations already in the core's TLB
(R279), with room in the promise table and, for a word that enters it, in the store queue (R282, R298). -/
structure Granted (s : State) (g : Gang) (x : Ctx) (h : Nat) (need : Need) (queues : Bool) (as : List Access) (b : Vector DWord 8) :
    Prop where
  record : s.usableRec x h = some b
  right  : Buf.allows b need = true
  bounds : ∀ a ∈ as, 0 ≤ a.off ∧ a.off + a.size ≤ Buf.length b
  align  : ∀ a ∈ as, a.off % a.size = 0
  pages  : ∀ a ∈ as, (s.translate g.core x (Buf.base b + a.off.toNat)).isSome = true
  lines  : ∀ a ∈ as, (s.coreTlb? g.core x.id (Buf.base b + unitOf a)).isSome = true
  near   : s.misses g.core x h (as.map fun a => Buf.base b + a.off.toNat) (need != .read) = ⟨false, [], [], []⟩
  room   : s.promisesUsed g.core + tableOf b as ≤ 1024
  queue  : queues = true → Buf.tier b < 2 → s.queueUsed g.core + (as.map unitOf).eraseDups.length ≤ 64

/-- Whether a request enters the store queue (R298). -/
def entersQueue (e : Effect) : Bool := match e with | .store => true | .atomic _ none _ => true | _ => false

/-- The gang has gone on after a probe that made requests for time register `n`: registers as they were; `n` follows its requests
(R50, R54), every other time register stays. -/
def Tracks (s t : State) (g : Gang) (n : TReg) : Prop :=
  ∃ y, t.gang? g.key = some y ∧ SameRegs g y ∧ SameRest { g with t := y.t, obsT := y.obsT, opnd := y.opnd, block := y.block, probeAt := y.probeAt } y ∧
    (∀ k : TReg, k ≠ n → y.t[k] = g.t[k]) ∧ y.t[n].soft = false ∧ y.t[n].state ≠ 0 ∧
    ((∀ r ∈ t.reqs, r.of g.key = true → r.treg = n → r.tracked = true → r.held = none) → (g.t[n].state = 0 ∨ g.t[n].breaks = 0) →
      ∃ r ∈ t.reqs, r.of g.key = true ∧ r.treg = n ∧ r.tracked = true ∧ (∀ q ∈ t.reqs, q.of g.key = true → q.treg = n →
        q.tracked = true → q.prom ≤ r.prom) ∧ y.t[n].val = (1 : BitVec 2) ++ (0 : BitVec 6) ++ BitVec.ofNat 56 r.prom)

/-- The request of a word at `c` for operand `m`. -/
def Asks (s : State) (g : Gang) (c : Clause) (m : MemOp) (eff : Effect) (r : Req) : Prop :=
  s.own.nextReq ≤ r.id ∧ r.of g.key = true ∧ r.core = g.core ∧ r.pc = c.next ∧ r.treg = m.t ∧ r.tracked = true ∧ r.effect = eff ∧
    r.scope = m.sc ∧ r.sem = m.sem ∧ r.probed = s.edgeTick g.core (s.clock g.core + 1)

/-- The accesses that a request follows (R319, R320, R327): those tracked by the register that `after` names, every earlier one for a
release, those before a fence. -/
def Follows (s : State) (g : Gang) (m : MemOp) (reads writes : Bool) (r : Req) : Prop :=
  ∀ q ∈ s.reqs, q.of g.key = true → q.id ≠ 0 →
    (m.after = true → g.t[m.afterT].soft = false → q.treg = m.afterT → q.tracked = true → (q.id, m.sc) ∈ r.after) ∧
    (writes = true → m.sem = .rel ∨ m.sem = .acqRel → q.access = true → (q.id, m.sc) ∈ r.after) ∧
    ∀ f ∈ g.fences, q.id < f.upTo →
      (f.kind ≠ .rel → q.reads = true → (q.id, f.scope) ∈ r.after) ∧
      (f.kind ≠ .acq → writes = true → q.access = true → (q.id, f.scope) ∈ r.after) ∧
      (f.kind = .full → reads = true → q.writes = true → (q.id, f.scope) ∈ r.after)

/-- A byte of memory that no eviction of a line from L2 can change (R302, R305): it lies in no dead range and in no clean line of a
tolerant buffer with written sectors. -/
def Settled (s : State) (a : Nat) : Prop :=
  (∀ x, x ≤ a → a < x + 128 → s.isDead x = false) ∧
  ∀ l ∈ s.hier.l2, l.addr ≤ a → a < l.addr + 128 → l.dirty ≠ 0 ∨ l.ctype = 0 ∨ l.fresh = 0

/-- The frame of a word that sends requests: no byte of memory or of a scratchpad changes, and nothing else but caches, bookings,
counters, monitors and requests does. -/
def SentFrame (s t : State) (g : Gang) : Prop :=
  (∀ a, Settled s a → memGet t.mem a = memGet s.mem a) ∧ (∀ k, (t.core k).spad = (s.core k).spad) ∧ t.time = s.time ∧
  t.crews = s.crews ∧ t.ctxs = s.ctxs ∧ t.queues = s.queues ∧ t.power = s.power ∧ t.sys = s.sys ∧ t.saved = s.saved ∧
  (∀ k, (t.cc k).lap = (s.cc k).lap ∧ (t.cc k).rings = (s.cc k).rings ∧ (t.cc k).cmds = (s.cc k).cmds) ∧
  ∀ k x, k ≠ g.key → s.gang? k = some x → ∃ y, t.gang? k = some y ∧ SameOther { x with fences := y.fences } y

/-- The registers and the operand of a device access hold what R33 and R276 ask for. -/
def DeviceReady (s : State) (g : Gang) (e : Entry) (c : Clause) (m : MemOp) (rd wr : List Nat) : Prop :=
  Ready s g e c .mem (.s m.h :: offRefs m.off ++ groupsOf m rd) (groupsOf m wr) ∧
  groupsFit m.data m.w (rd.length + wr.length) = true ∧ e.mask ≠ 0

/-! ### Lane-port words (R190, R191) -/

/-- The lane-port words: the operand, the effect, the data groups read and written. -/
def laneAccess (i : Instr) : Option (MemOp × Effect × List Nat × List Nat) :=
  match i with
  | .lds _ m => some (m, .lanes m.data m.w, [], [0])
  | .sts _ m => some (m, .store, [0], [])
  | .atomsAdd _ m => some (m, .atomic .add (some m.data) m.w, [1], [0])
  | .atomsCas _ m => some (m, .atomic .cas (some m.data) m.w, [1, 2], [0])
  | _ => none

/-- Bit `j` of the bytes from `a` upward. -/
def bitFrom (m : List Host.Cell) (a j : Nat) : Bool := (memGet m (a + j / 8)).getLsbD (j % 8)

end Sys2Proof.Obl

section
open Sys2Proof Sys2Proof.Machine Sys2Proof.Obl

/-- Loads, stores, atomics and reductions whose checks pass make one request for each line that their accesses touch, with every access and its data in it, and their time register follows the requests (R50, R54,
R282, R284, R285, R287, R289). Translations and the record are already cached here (R279). -/
def Obligations.DeviceAccess : Prop :=
  ∀ (s : State) (g : Gang) (e : Entry) (c : Clause) (i : Instr) (m : MemOp) (need : Need) (eff : Effect) (rd wr : List Nat) (x : Ctx)
    (b : Vector DWord 8), deviceWord i = some (m, need, eff, rd, wr) → DeviceReady s g e c m rd wr → s.ctx? g.ctx = some x →
    Granted s g x (handleOf s g m) need (entersQueue eff) (accessesOf s g m e) b →
    ∃ t, exec i s = .next t ∧ Tracks s t g m.t ∧
      t.reqs.length = s.reqs.length + ((accessesOf s g m e).map unitOf).eraseDups.length ∧
      ∀ a ∈ accessesOf s g m e, ∃ r ∈ t.reqs, Asks s g c m eff r ∧ r.handle = handleOf s g m ∧ r.offset = unitOf a ∧
        r.home = homeOf b (unitOf a) ∧ r.mask.getLsbD a.lane = true ∧
        (s.bufReady b = true → Follows s g m (need != .write && entersQueue eff == false) (need != .read) r ∧
          ∃ y, s.coreTlb? g.core x.id (Buf.base b + unitOf a) = some y ∧
            r.line = homeKey r.home (y.map (Buf.base b + unitOf a))) ∧
        (s.bufReady b = false → r.held = some (.page, 0)) ∧
        ∃ p ∈ r.pieces, p.lane = a.lane ∧ p.addr = a.off.toNat ∧ p.size = m.w.size ∧
          (∀ op d w, eff = .atomic op d w → p.data = dataOf s g m (s.clock g.core) (rd.getD 0 0) a.lane ∧
            ∀ n, rd[1]? = some n → p.data2 = dataOf s g m (s.clock g.core) n a.lane) ∧
          (eff = .store → p.data = g.dataBytes 0 (s.clock g.core + 64) m.data m.w 0 a.lane)

/-- The frame of a load, store, atomic or reduction: its own step sends requests and changes no byte of memory (R285, R287, R290). -/
def Obligations.DeviceFrame : Prop :=
  ∀ (s t : State) (g : Gang) (e : Entry) (c : Clause) (i : Instr) (m : MemOp) (need : Need) (eff : Effect) (rd wr : List Nat) (x : Ctx)
    (b : Vector DWord 8), deviceWord i = some (m, need, eff, rd, wr) → DeviceReady s g e c m rd wr → s.ctx? g.ctx = some x →
    Granted s g x (handleOf s g m) need (entersQueue eff) (accessesOf s g m e) b → exec i s = .next t → SentFrame s t g

/-- The checks of the memory port (R276, R277): owner 0x06, rights 0x05, bounds 0x04, alignment 0x08, translation 0x07, in this order
over all accesses, with the lowest lane that fails as the trap info.
The model's own choices in it: log entry 113. -/
def Obligations.AccessTraps : Prop :=
  ∀ (s : State) (g : Gang) (e : Entry) (c : Clause) (i : Instr) (m : MemOp) (need : Need) (eff : Effect) (rd wr : List Nat) (x : Ctx),
    deviceWord i = some (m, need, eff, rd, wr) → DeviceReady s g e c m rd wr → s.ctx? g.ctx = some x → g.inHandler = false →
    s.handlerOf g ≠ 0 →
    let as := accessesOf s g m e
    let traps := fun (cause : Byte) (l : Nat) => ∃ t, exec i s = .next t ∧ TookTrap s t g e c cause (BitVec.ofNat 32 l)
    let first := fun (bad : Access → Prop) (a : Access) => a ∈ as ∧ bad a ∧ ∀ a' ∈ as, bad a' → a.lane ≤ a'.lane
    ∀ a ∈ as, let out := fun (b : Vector DWord 8) (y : Access) => y.off < 0 ∨ (Buf.length b : Int) < y.off + m.w.size
    (s.usableRec x (handleOf s g m) = none → first (fun _ => True) a → traps 0x06 a.lane) ∧
    ∀ b, s.usableRec x (handleOf s g m) = some b →
      (Buf.allows b need = false → first (fun _ => True) a → traps 0x05 a.lane) ∧
      (Buf.allows b need = true → first (out b) a → traps 0x04 a.lane) ∧
      (Buf.allows b need = true → (∀ y ∈ as, ¬ out b y) → first (fun y => y.off % m.w.size ≠ 0) a → traps 0x08 a.lane) ∧
      (Buf.allows b need = true → (∀ y ∈ as, ¬ out b y) → (∀ y ∈ as, y.off % m.w.size = 0) → Buf.pageable b = false →
        first (fun y => s.translate g.core x (Buf.base b + y.off.toNat) = none) a → traps 0x07 a.lane)

/-- The lane-port words (R190, R191): one request on the crew's partition with every access and its data, read in the clock of the probe,
which the word's time register follows; bounds raise trap 0x04 and alignment 0x08, with the lowest lane that fails. -/
def Obligations.LanePort : Prop :=
  ∀ (s : State) (g : Gang) (e : Entry) (c : Clause) (i : Instr) (m : MemOp) (eff : Effect) (rd wr : List Nat) (cr : Crew),
    laneAccess i = some (m, eff, rd, wr) → Ready s g e c .mem (offRefs m.off ++ groupsOf m rd) (groupsOf m wr) →
    groupsFit m.data m.w (rd.length + wr.length) = true → e.mask ≠ 0 → s.crew? g.crewKey = some cr →
    let as := accessesOf s g m e
    let out := fun (y : Access) => y.off < 0 ∨ (cr.partLen : Int) < y.off + m.w.size
    let odd := fun (y : Access) => y.off % m.w.size ≠ 0
    ((∀ y ∈ as, ¬ out y ∧ ¬ odd y) → s.promisesUsed g.core < 1024 →
      ∃ t, exec i s = .next t ∧ Tracks s t g m.t ∧ SentFrame s t g ∧ t.mem = s.mem ∧ t.reqs.length = s.reqs.length + 1 ∧
        ∃ r ∈ t.reqs, Asks s g c m eff r ∧ r.home = .core ∧ r.line = cr.partBase ∧
          Follows s g m (eff != .store) (match eff with | .lanes .. => false | _ => true) r ∧
          r.pieces.map (fun p => (p.lane, p.addr, p.size)) = as.map (fun a => (a.lane, a.off.toNat, m.w.size)) ∧
          let data := fun (n l : Nat) => g.dataBytes 0 (s.clock g.core + 64) m.data m.w n l
          ∀ p ∈ r.pieces, (eff = .store → p.data = data 0 p.lane) ∧
            (∀ op d w, eff = .atomic op d w → p.data = data 1 p.lane ∧ (op = .cas → p.data2 = data 2 p.lane))) ∧
    (g.inHandler = false → s.handlerOf g ≠ 0 → ∀ a ∈ as,
      (out a → (∀ y ∈ as, out y → a.lane ≤ y.lane) →
        ∃ t, exec i s = .next t ∧ TookTrap s t g e c 0x04 (BitVec.ofNat 32 a.lane)) ∧
      ((∀ y ∈ as, ¬ out y) → odd a → (∀ y ∈ as, odd y → a.lane ≤ y.lane) →
        ∃ t, exec i s = .next t ∧ TookTrap s t g e c 0x08 (BitVec.ofNat 32 a.lane)))

/-- `plpack` and `plunpack` (R192, R185): the blocks are booked on the plane port, and their last write gives each element's bit `p`
the place of its plane, or back; the offsets must be multiples of 32 and both ranges lie in the partition. `l1cfg` (R189, R193): the conversion takes 512 clocks, one request, and then the count is in force; the count a core has or is going
to have makes no request; more than 4, or fewer than the partitions allow, raises trap 0x04.
The model's own choices in it: log entries 32, 37, 38. -/
def Obligations.PlaneWords : Prop :=
  (
  (∀ (s : State) (g : Gang) (e : Entry) (c : Clause) (n : Stall) (d a b : SReg) (w : PlaneWidth) (pack : Bool) (i : Instr) (cr : Crew),
    i = (if pack then .plpack n d a b w else .plunpack n d a b w) → Ready s g e c .mem [.s d, .s a, .s b] [] →
    s.crew? g.crewKey = some cr →
    let dst := (rs s g d).toNat
    let src := (rs s g a).toNat
    let k := (rs s g b).toNat
    let size := 32 * (w.val + 2) * k
    let odd := dst % 32 ≠ 0 ∨ src % 32 ≠ 0
    let out := 64 < k ∨ (size ≠ 0 ∧ (cr.partLen < dst + size ∨ cr.partLen < src + size))
    (¬ odd → ¬ out → ∃ t, exec i s = .next t ∧ (e.mask ≠ 0 →
      (∀ j, (t.core j).spad = (s.core j).spad) ∧ (∀ j, memGet t.mem j = memGet s.mem j) ∧
      (∃ y, t.gang? g.key = some y ∧ SameRest g y ∧ SameRegs g y) ∧
      (k ≠ 0 → ∃ z ∈ t.agenda, z.task = .ev .plpackLastWrite ∧ z.arg.core = g.core ∧ z.arg.key = g.key ∧ z.arg.n = k ∧
        z.arg.m = w.val + 2 ∧ z.arg.flag = pack ∧ z.arg.pairs = [(src, dst)] ∧
        z.arg.clk = some (g.core, s.clock g.core + (6 + 2 * k * ((w.val + 9) / 8))) ∧
        z.tick = s.edgeTick g.core (s.clock g.core + (6 + 2 * k * ((w.val + 9) / 8)))))) ∧
    (g.inHandler = false → s.handlerOf g ≠ 0 →
      (odd → ∃ t, exec i s = .next t ∧ TookTrap s t g e c 0x08 0) ∧
      (¬ odd → out → ∃ t, exec i s = .next t ∧ TookTrap s t g e c 0x04 0))) ∧
  ∀ (s : State) (cr : Crew) (src dst : Nat), MemoryOk s → s.crew? (crewKeyOf s.arg.key) = some cr → s.arg.pairs = [(src, dst)] → 0 < s.arg.m →
    let w := s.arg.m
    let size := 32 * w
    let n := s.arg.n
    src = dst ∨ src + size * n ≤ dst ∨ dst + size * n ≤ src →
    ∃ t, exec .plpackLastWrite s = .next t ∧
      (∀ j, j < n → ∀ b p, b < 256 → p < w →
        let x := fun (st : State) (at_ : Nat) => bitFrom (st.core cr.core).spad (cr.partBase + at_ + size * j)
        if s.arg.flag then x t dst (256 * p + b) = x s src (w * b + p) else x t dst (w * b + p) = x s src (256 * p + b)) ∧
      ∀ a, a < cr.partBase + dst ∨ cr.partBase + dst + size * n ≤ a →
        memGet (t.core cr.core).spad a = memGet (s.core cr.core).spad a) ∧
  (
  (∀ (s : State) (g : Gang) (e : Entry) (c : Clause) (n : Stall) (a : SReg) (tr : TReg), Ready s g e c .mem [.s a] [] → e.mask ≠ 0 →
    let v := (rs s g a).toNat
    let cur := (s.convTarget g.core).1
    (v ≤ 4 → (v < cur → s.leastConv g.core ≤ v) → v ≠ cur → s.promisesUsed g.core < 1024 →
      ∃ t, exec (.l1cfg n a tr) s = .next t ∧ Tracks s t g tr ∧ (∀ j, (t.core j).spad = (s.core j).spad) ∧
        (∀ j, memGet t.mem j = memGet s.mem j) ∧ (t.cc g.core).conv = (s.cc g.core).conv ∧
        ∃ r ∈ t.reqs, r.owner = g.key ∧ r.pc = c.next ∧ r.treg = tr ∧ r.effect = .l1cfg v ∧
          s.edgeTick g.core (s.clock g.core + 1) + s.ticksOf g.core 512 ≤ r.prom) ∧
    (v ≤ 4 → v = cur → ∃ t y, exec (.l1cfg n a tr) s = .next t ∧ t.reqs.map bare = s.reqs.map bare ∧ t.gang? g.key = some y ∧
      SameRegs g y ∧ (g.t[tr].state = 0 → y.t[tr].val = (BitVec.ofNat 56 (s.edgeTick g.core (s.clock g.core + 1))).zeroExtend 64) ∧
      (g.t[tr].state ≠ 0 → y.t = g.t)) ∧
    (g.inHandler = false → s.handlerOf g ≠ 0 →
      (4 < v → ∃ t, exec (.l1cfg n a tr) s = .next t ∧ TookTrap s t g e c 0x04 0) ∧
      (v < cur → v < s.leastConv g.core → v ≤ 4 →
        ∃ t, exec (.l1cfg n a tr) s = .next t ∧ TookTrap s t g e c 0x04 (BitVec.ofNat 32 (s.leastConv g.core))))) ∧
  ∀ (s : State) (r : Req) (v : Nat), s.req? s.arg.req = some r → r.effect = .l1cfg v → r.arrive ≤ s.now →
    ∃ t, exec .l1cfgComplete s = .next t ∧ (t.cc r.core).conv = v ∧
      ∀ a, a < 2 ^ 20 + v * 2 ^ 16 → memGet (t.core r.core).spad a = memGet (s.core r.core).spad a)

/-- `bchk` and `bmeta` (R292, R293): one request whose scalar result lands 8 clocks after the probe: the checks that a load would meet,
or a doubleword of the record; they raise no trap. A missing page is found in the pass after its walk. `pf` has no effect but on timing (R291). `watch` arms the gang's monitor, or the lowest free one, by a request to the home slice of the address, and clears HIT (R212, R213);
the host and peer tiers raise trap 0x05, and having no monitor trap 0x0C with info 2.
The model's own choices in it: log entry 105. -/
def Obligations.RecordWords : Prop :=
  (
  (∀ (s : State) (g : Gang) (e : Entry) (c : Clause) (n : Stall) (m : MemOp) (d : SReg) (x : Ctx), m.data = .s d → e.mask ≠ 0 →
    s.ctx? g.ctx = some x → s.promisesUsed g.core < 1024 →
    let h := handleOf s g m
    let made := fun (t : State) (v : DWord) => Tracks s t g m.t ∧ SentFrame s t g ∧ (∀ a, memGet t.mem a = memGet s.mem a) ∧
      ∃ r ∈ t.reqs, r.owner = g.key ∧ r.pc = c.next ∧ r.treg = m.t ∧ r.effect = .scalar d v ∧
        r.prom = s.edgeTick g.core (s.clock g.core + 1) + s.ticksOf g.core 8
    (Ready s g e c .mem (.s m.h :: offRefs m.off) [.s d] → ∀ a, (accessesOf s g m e).head? = some a →
      s.misses g.core x h (match s.usableRec x h with | some b => [Buf.base b + a.off.toNat] | none => []) false = ⟨false, [], [], []⟩ →
      ∃ t v, exec (.bchk n m) s = .next t ∧ made t v ∧ v.extractLsb' 13 51 = 0 ∧
        (s.usableRec x h = none → v = 6) ∧
        ∀ b, s.usableRec x h = some b →
          v.getLsbD 10 = Buf.r b ∧ v.getLsbD 11 = Buf.w b ∧ v.getLsbD 12 = Buf.a b ∧
          let out := a.off < 0 ∨ (Buf.length b : Int) < a.off + m.w.size
          let gone := s.translate g.core x (Buf.base b + a.off.toNat) = none
          (Buf.r b = false → v.extractLsb' 0 8 = 5) ∧ (Buf.r b = true → out → v.extractLsb' 0 8 = 4) ∧
          (Buf.r b = true → ¬ out → a.off % m.w.size ≠ 0 → v.extractLsb' 0 8 = 8) ∧
          (Buf.r b = true → ¬ out → a.off % m.w.size = 0 → ¬ gone → v.extractLsb' 0 9 = 0)) ∧
    (Ready s g e c .mem [.s m.h] [.s d] → m.imm.toNat < 8 → (s.core g.core).recs.any (fun r => r.ctx = x.id && r.handle = h) = true →
      ∃ t, exec (.bmeta n m) s = .next t ∧
        made t (if h < 2 ^ x.btj ∧ (memDWord s.mem (x.btBase + 64 * h + 16)).extractLsb' 52 12 = x.id
          then memDWord s.mem (x.btBase + 64 * h + 8 * m.imm.toNat) else 0))) ∧
  (∀ (u : State) (y : Gang) (e : Entry) (cl : Clause) (cr : Crew) (n : Stall) (m : MemOp) (d : SReg) (pc : Pc) (x : Ctx) (b : Vector DWord 8)
    (a : Access), AtPass u y e cl cr (.bchk n m) pc → m.data = .s d → u.ctx? y.ctx = some x → u.promisesUsed y.core < 1024 →
    (accessesOf u y m e).head? = some a → u.usableRec x (handleOf u y m) = some b → Buf.r b = true → 0 ≤ a.off →
    a.off + m.w.size ≤ (Buf.length b : Int) → a.off % m.w.size = 0 → u.translate y.core x (Buf.base b + a.off.toNat) = none →
    ∃ t r v, exec .probePass u = .next t ∧ r ∈ t.reqs ∧ r.owner = y.key ∧ r.pc = pc ∧ r.treg = m.t ∧ r.effect = .scalar d v ∧
      v.extractLsb' 0 9 = (if Buf.pageable b then 0x100 else 7)) ∧
  ∀ (s : State) (g : Gang) (e : Entry) (c : Clause) (n : Stall) (m : MemOp), Ready s g e c .mem (.s m.h :: offRefs m.off) [] →
    ∃ t, exec (.pf n m) s = .next t ∧ (e.mask ≠ 0 → SentFrame s t g ∧ t.reqs.map bare = s.reqs.map bare ∧
      ∃ y, t.gang? g.key = some y ∧ SameRest g y ∧ SameRegs g y)) ∧
  (
  ∀ (s : State) (g : Gang) (e : Entry) (c : Clause) (n : Stall) (m : MemOp) (x : Ctx) (b : Vector DWord 8) (a : Access),
    Ready s g e c .mem (.s m.h :: offRefs m.off) [] → e.mask ≠ 0 → s.ctx? g.ctx = some x →
    (∀ l, l < a.lane → e.mask.getLsbD l = false) → e.mask.getLsbD a.lane = true → a = ⟨a.lane, offsetOf s g m a.lane, m.w.size⟩ →
    Granted s g x (handleOf s g m) .read false [a] b →
    let mine := (s.cc g.core).mons.find? fun z => z.gang = g.key
    let free := fun (k : Fin 64) => ∀ z ∈ (s.cc g.core).mons, z.num ≠ k
    (Buf.tier b < 2 → ∀ k, (mine.map (·.num) = some k ∨ mine = none ∧ free k ∧ ∀ j, free j → k ≤ j) →
      ∃ t, exec (.watch n m) s = .next t ∧ SentFrame s t g ∧
        (∃ y, t.gang? g.key = some y ∧ SameRest g y ∧ SameRegs g y) ∧
        (∃ z ∈ (t.cc g.core).mons, z.gang = g.key ∧ z.num = k ∧ z.hit = false ∧ z.armed = false ∧ z.size = m.w.size) ∧
        ∃ r ∈ t.reqs, r.owner = g.key ∧ r.pc = c.next ∧ r.effect = .arm ∧ r.tracked = false ∧
          ∃ p ∈ r.pieces, p.addr = a.off.toNat ∧ p.size = m.w.size) ∧
    (g.inHandler = false → s.handlerOf g ≠ 0 →
      (2 ≤ Buf.tier b → ∃ t, exec (.watch n m) s = .next t ∧ TookTrap s t g e c 0x05 (BitVec.ofNat 32 a.lane)) ∧
      (Buf.tier b < 2 → mine = none → (∀ k, ¬ free k) → ∃ t, exec (.watch n m) s = .next t ∧ TookTrap s t g e c 0x0C 2)))

/-- `fence` leaves an order for the accesses after it and takes one issue clock; an acquire at span or wider whose earlier reads are all
performed empties L1 at once (R327). -/
def Obligations.FenceOrders : Prop :=
  ∀ (s : State) (g : Gang) (e : Entry) (c : Clause) (n : Stall) (sc : Scope) (k : FenceKind), Ready s g e c .fence [] [] →
    ∃ t, exec (.fence n sc k) s = .next t ∧ (e.mask ≠ 0 →
      (∀ a, memGet t.mem a = memGet s.mem a) ∧ (∀ j, (t.core j).spad = (s.core j).spad) ∧ t.hier = s.hier ∧
      (∃ y f, t.gang? g.key = some y ∧ SameRegs g y ∧ y.t = g.t ∧ y.readyAt = s.clock g.core + 1 + n.val ∧
        f ∈ y.fences ∧ f.kind = k ∧ f.scope = sc ∧ f.upTo = s.own.nextReq ∧
        (k ≠ .rel → 2 ≤ sc.code → (∀ r ∈ s.reqs, r.of g.key = true → r.reads = true → s.readDone r = true) →
          g.obs ≤ s.now → (∀ j : TReg, g.obsT[j] ≤ s.now) →
          f.flush = false ∧ ∀ l ∈ (t.core g.core).l1, l.hold ≠ 0 ∧ l.kill = true)))

/-- `copy` (R219 to R221): a slice joins the gathering command of its group, or opens one that takes an entry of the FIFO; one request
joins the set of the time register. Both ranges are checked and translated already. A FIFO that is full makes the gang deposit at the header
of the clause, with wake kind 7; a failed check raises its trap. `cwp` reads the bytes of its group's command that have landed, with bit 63 once every row has, and 0 for a group that holds no command
(R225).
The model's own choices in it: log entry 38. -/
def Obligations.CopyJoins : Prop :=
  (
  ∀ (s : State) (g : Gang) (e : Entry) (c : Clause) (n : Stall) (a : SReg) (tr : TReg) (sc : Scope) (rel : Bool) (cr : Crew) (x : Ctx),
    Ready s g e c .copy [.s a] [] → e.mask ≠ 0 → s.crew? g.crewKey = some cr → s.ctx? g.ctx = some x →
    let at_ := low (rs s g a)
    (∀ p, s.copyCheck g cr x at_ = .ok p → s.promisesUsed g.core < 1024 →
      (p.desc.skind = 0 → s.misses g.core x p.desc.sh
        ((pageAccesses (Buf.base p.sRec) p.desc.soff p.desc.len).map fun z => Buf.base p.sRec + z.off.toNat) false = ⟨false, [], [], []⟩) →
      (p.desc.dkind = 0 → s.misses g.core x p.desc.dh
        ((pageAccesses (Buf.base p.dRec) p.desc.doff p.desc.len).map fun z => Buf.base p.dRec + z.off.toNat) true = ⟨false, [], [], []⟩) →
      (∀ k : CoreId, k ≠ g.core → ∀ z ∈ (s.cc k).cmds, z.crew = cr.key → z.group.val ≠ p.desc.group) →
      let old := s.cmd? g.core cr.key p.desc.group
      let joins := ∃ z, old = some z ∧ z.gathering = true ∧ ∀ w ∈ z.parts, w.index ≠ p.desc.slice
      let opens := ∀ z, old = some z → z.gathering = false ∧ z.done = true
      (joins ∨ opens ∧ s.fifoUsed g.core < 32 →
        ∃ t z w r, exec (.copy n a tr sc rel) s = .next t ∧ Tracks s t g tr ∧ (∀ j, (t.core j).spad = (s.core j).spad) ∧
          t.cmd? g.core cr.key p.desc.group = some z ∧ z.done = false ∧ w ∈ z.parts ∧ w.index = p.desc.slice ∧
          w.gang = g.key ∧ w.soff = p.desc.soff ∧ w.doff = p.desc.doff ∧ w.len = p.desc.len ∧ w.skind = p.desc.skind ∧
          (joins → ∀ y, old = some y → ∀ v ∈ y.parts, v ∈ z.parts) ∧ (opens → z.entry = true ∧ z.parts = [w]) ∧
          (p.desc.slice = 0 → z.slices = p.desc.slices ∧ z.dkind = p.desc.dkind ∧ z.bv = p.desc.bv ∧ z.scope = sc) ∧
          r ∈ t.reqs ∧ r.id = w.req ∧ r.owner = g.key ∧ r.pc = c.next ∧ r.treg = tr ∧
          r.prom = (s.edgeTick g.core (s.clock g.core + 1) + 2 ^ 55 - 1)) ∧
      (opens → 32 ≤ s.fifoUsed g.core → ∃ t, exec (.copy n a tr sc rel) s = .next t ∧
        Deposited s t g (frontInsert e g.front) 7 0 false false 0) ∧
      (g.inHandler = false → s.handlerOf g ≠ 0 →
        (∀ z w, old = some z → z.gathering = true → w ∈ z.parts → w.index = p.desc.slice →
          ∃ t, exec (.copy n a tr sc rel) s = .next t ∧ TookTrap s t g e c 0x0D (BitVec.ofNat 32 (0x100 + p.desc.group))) ∧
        (∀ z, old = some z → z.gathering = false → z.done = false →
          ∃ t, exec (.copy n a tr sc rel) s = .next t ∧ TookTrap s t g e c 0x0D (BitVec.ofNat 32 (0x200 + p.desc.group))))) ∧
    (g.inHandler = false → s.handlerOf g ≠ 0 →
      (at_ % 64 ≠ 0 → ∃ t, exec (.copy n a tr sc rel) s = .next t ∧ TookTrap s t g e c 0x08 0) ∧
      (at_ % 64 = 0 → cr.partLen < at_ + 64 → ∃ t, exec (.copy n a tr sc rel) s = .next t ∧ TookTrap s t g e c 0x04 0) ∧
      ∀ k, s.copyCheck g cr x at_ = .error k → ∃ t, exec (.copy n a tr sc rel) s = .next t ∧ TookTrap s t g e c k.cause k.info)) ∧
  (
  ∀ (s : State) (g : Gang) (e : Entry) (c : Clause) (n : Stall) (d a : SReg), Ready s g e c .copy [.s a] [.s d] → e.mask ≠ 0 →
    let k := ((rs s g a).extractLsb' 0 5).toNat
    ((∀ (j : CoreId), ∀ z ∈ (s.cc j).cmds, z.crew = g.crewKey → z.group.val ≠ k) →
      ∃ t, exec (.cwp n d a) s = .next t ∧ ScalarResult s t g 2 d 0) ∧
    ∀ z, (s.cc g.core).cmds.find? (fun z => z.crew = g.crewKey && z.group.val = k) = some z →
      ∃ t, exec (.cwp n d a) s = .next t ∧
        ScalarResult s t g 2 d (BitVec.ofBool z.done ++ (0 : BitVec 15) ++ BitVec.ofNat 48 z.landed))

end
/-! ## Class MTX and the lapidary (R233 to R267) -/

namespace Sys2Proof.Obl

open Machine

/-- The lapidary holds fewer than 64 operations, stops and reloads none, and no other context's image stands in it (R234, R248, R249). -/
def takes (s : State) (k : CoreId) : Prop :=
  (s.lap k).ops.length < 64 ∧ (∀ o, (s.lap k).ops.head? = some o → o.finish ≠ 0) ∧ s.promisesUsed k < 1024 ∧
    (s.lap k).loading = false ∧ (s.core k).lapHeld = none

/-- The lapidary of core `k` has accepted an operation of a gang: it is the last of its operations, with one request that the time
register tracks; it starts 8 clocks after the probe or when the operation before it completes, whichever is later; what is staged and
accumulated is as it was (R234, R251, R252). -/
def Accepted (s t : State) (k : CoreId) (g : GangKey) (pc : Pc) (tr : TReg) (kd : LapKind) (more : LapOp → Prop) : Prop :=
  ∃ o r, (t.lap k).ops = (s.lap k).ops ++ [o] ∧ o.gang = g ∧ o.kind = kd ∧ o.probe + 8 ≤ o.begin ∧
    (∀ x, (s.lap k).ops.getLast? = some x → x.finish ≤ o.begin) ∧ more o ∧
    (t.lap k).acc = (s.lap k).acc ∧ (t.lap k).term = (s.lap k).term ∧ (t.lap k).plane = (s.lap k).plane ∧
    (t.lap k).slots = (s.lap k).slots ∧ (t.lap k).counters = (s.lap k).counters ∧
    r ∈ t.reqs ∧ r.id = o.req ∧ r.owner = g ∧ r.pc = pc ∧ r.treg = tr ∧ r.tracked = true ∧ r.effect = .engine o.id ∧
    (∀ j, (t.core j).spad = (s.core j).spad) ∧ ∀ j, memGet t.mem j = memGet s.mem j

/-- A gang has gone on after its pass with its registers as they were, and time register `n` follows its requests. -/
def WentOn (v : State) (y : Gang) (n : TReg) : Prop :=
  ∃ z, v.gang? y.key = some z ∧ z.wait = false ∧ z.probing = none ∧ SameRegs y z ∧ z.t[n].state ≠ 0 ∧ z.t[n].soft = false ∧
    ∀ k : TReg, k ≠ n → z.t[k] = y.t[k]

/-- The staging words: the scalar, the time register, layout and format slots, what is staged. -/
def stageWord : Instr → Option (SReg × TReg × Fin 4 × Fin 8 × (DWord → LapKind))
  | .mldA _ a t l f => some (a, t, l, f, fun v => .mldA (v.extractLsb' 16 16).toNat (v.extractLsb' 0 16).toNat)
  | .mldB _ a t l f sm => some (a, t, l, f, fun v => .mldB (v.extractLsb' 0 16).toNat (v.extractLsb' 16 16).toNat sm)
  | _ => none

/-- Doubleword `i` of the record at offset `o` of a crew's partition. -/
def recordDw (s : State) (cr : Crew) (o i : Nat) : DWord := memDWord (s.core cr.core).spad (cr.partBase + o + 8 * i)

/-- The words that read a record: the scalar, the record's alignment and size. -/
def recordWord : Instr → Option (SReg × Nat × Nat)
  | .mma _ a _ => some (a, 64, 64)
  | .mdrain _ a _ _ => some (a, 16, 16)
  | .lrec _ a _ => some (a, 32, 32)
  | _ => none

/-- A parameter block as R256 lays it out: M, N, K, RESUME, ACC, the slots and SPN. -/
structure MmaBlock where
  m : Nat
  n : Nat
  k : Nat
  r : Nat
  acc : Bool
  fa : Nat
  fb : Nat
  spn : Nat

def MmaBlock.of (d : Nat → DWord) : MmaBlock :=
  ⟨((d 0).extractLsb' 0 16).toNat, ((d 0).extractLsb' 16 16).toNat, ((d 0).extractLsb' 32 16).toNat, ((d 1).extractLsb' 0 16).toNat,
   (d 1).getLsbD 48, ((d 1).extractLsb' 32 3).toNat, ((d 1).extractLsb' 36 3).toNat, ((d 1).extractLsb' 40 4).toNat⟩

/-- The limits of R256. -/
def MmaBlock.ok (d : Nat → DWord) : Prop :=
  let b := MmaBlock.of d
  (d 0).extractLsb' 48 16 = 0 ∧ (d 1).extractLsb' 49 15 = 0 ∧ (d 1).extractLsb' 44 4 = 0 ∧ (d 1).getLsbD 39 = false ∧
    (d 1).getLsbD 35 = false ∧ (d 1).extractLsb' 16 16 = 0 ∧ (∀ i, 2 ≤ i → i < 8 → d i = 0) ∧
    1 ≤ b.m ∧ b.m ≤ 256 ∧ 1 ≤ b.n ∧ b.n ≤ 256 ∧ b.k % 32 = 0 ∧ 32 ≤ b.k ∧ b.k ≤ 4096 ∧ b.r % 32 = 0 ∧ b.r < b.k

/-- The effect of such a word in its pass (R257, R259, R261). -/
def recordEffect (u v : State) (y : Gang) (e : Entry) (cl : Clause) (cr : Crew) (pc : Pc) (i : Instr) : Prop :=
  let o := low y.opnd
  let d := recordDw u cr o
  let traps := fun (cause : Byte) => y.inHandler = false → u.handlerOf y ≠ 0 → PassTraps u v y e cl pc cause 0
  match i with
  | .mma _ _ tr =>
    let b := MmaBlock.of d
    let lap := u.lap y.core
    (¬ MmaBlock.ok d → traps 0x01) ∧
    (MmaBlock.ok d → (∀ x ∈ lap.ops, ∀ p q z, x.kind ≠ .mldB p q z) →
      (lap.agrees ((List.range 8).map d) = false → traps 0x01) ∧
      (lap.agrees ((List.range 8).map d) = true → takes u y.core → ∀ t, lap.term = some t →
        WentOn v y tr ∧ Accepted u v y.core y.key pc tr (.mma b.m b.n b.k b.r b.acc) fun x =>
          x.finish = x.begin + t.longest (t.steps b.r) (t.steps b.k) + 40))
  | .mdrain _ _ tr f =>
    let n := ((d 1).extractLsb' 16 16).toNat
    let m := ((d 1).extractLsb' 0 16).toNat
    (∀ t, drainCheck (u.fmtSlot y f) ((List.range 2).map d) cr.partLen = some t → y.inHandler = false → u.handlerOf y ≠ 0 →
      PassTraps u v y e cl pc t.cause t.info) ∧
    (drainCheck (u.fmtSlot y f) ((List.range 2).map d) cr.partLen = none → takes u y.core →
      WentOn v y tr ∧ Accepted u v y.core y.key pc tr
        (.mdrain m n ((d 0).extractLsb' 0 32).toNat ((d 0).extractLsb' 32 32).toNat) fun x => x.fslot = u.fmtSlot y f)
  | .lrec _ _ l =>
    let ext := fun (i : Nat) => (d 3).extractLsb' (16 * i) 16
    let bad := (d 2).extractLsb' 34 30 ≠ 0 ∨ ∃ i, i < 4 ∧ ext i = 0
    let odd := ((d 0).extractLsb' 0 32).toNat % 32 ≠ 0 ∨ ((d 0).extractLsb' 32 32).toInt % 32 ≠ 0 ∨
      ((d 1).extractLsb' 0 32).toInt % 32 ≠ 0 ∨ ((d 1).extractLsb' 32 32).toInt % 32 ≠ 0 ∨ ((d 2).extractLsb' 0 32).toInt % 32 ≠ 0
    (bad → traps 0x01) ∧ (¬ bad → odd → traps 0x08) ∧
    (¬ bad → ¬ odd → (u.core y.core).lapHeld = none → (∃ z, v.gang? y.key = some z ∧ z.wait = false ∧ SameRegs y z ∧ z.t = y.t) ∧
      { v.lap y.core with slots := (u.lap y.core).slots } = u.lap y.core ∧
      (∀ k, k ≠ l → (v.lap y.core).slots[k] = (u.lap y.core).slots[k]) ∧
      ∀ j : Fin 4, ((v.lap y.core).slots[l])[j] = d j.val)
  | _ => True

/-- The scalar words of class MTX: the destination and the value (R246, R188, R237, R262). -/
def lapRead (s : State) (g : Gang) : Instr → Option (SReg × DWord)
  | .mstat _ d n => some (d, (s.lap g.core).counters[n])
  | .lconf _ d => some (d, ((s.cc g.core).conflicts (s.clock g.core)).zeroExtend 64)
  | .lconfClr _ d => some (d, ((s.cc g.core).conflicts (s.clock g.core)).zeroExtend 64)
  | .fslot _ d f h => some (d, if h then (s.fmtSlot g f)[1] else (s.fmtSlot g f)[0])
  | _ => none

/-- The f32 values of the active lanes of a source. -/
def laneFloats (s : State) (g : Gang) (m : Mask) (a : VSrc) : List FVal :=
  ((List.range 32).filter fun l => m.getLsbD l).map fun l => Fmt.f32.decode (rv s g a l).toNat

/-- The lane conversions with one result: destination, latency, registers read, format slot, the value of a lane (R264 to R267). -/
def convertWord (s : State) (g : Gang) (m : Mask) : Instr → Option (VReg × Nat × List RegRef × Option (Fin 8) × (Nat → Word))
  | .qnt _ d a b f => some (d, 4, srcRefs a ++ srcRefs b, some f, fun l =>
      let c := (FmtSlot.read (s.fmtSlot g f)).typ
      BitVec.ofNat 32 (laneElem c (elemOf c (rv s g b l).toNat (Fmt.f32.decode (rv s g a l).toNat))))
  | .dqnt _ d a b f => some (d, 4, srcRefs a ++ srcRefs b, some f, fun l =>
      BitVec.ofNat 32 (dequant (FmtSlot.read (s.fmtSlot g f)).typ (rv s g b l).toNat (rv s g a l).toNat))
  | .bscale _ d a f => some (d, 6, srcRefs a, some f, fun _ =>
      let c := (FmtSlot.read (s.fmtSlot g f)).typ
      BitVec.ofNat 32 (laneScale c (chooseScale c (laneFloats s g m a))))
  | .tcount _ d a w => some (d, 2, srcRefs a, none, fun l =>
      BitVec.ofNat 32 (terms (((rv s g a l).extractLsb' 0 (w.val + 2)).toInt)))
  | _ => none

end Sys2Proof.Obl

section
open Sys2Proof Sys2Proof.Machine Sys2Proof.Obl

/-- The engine words (R252, R255, R257, R259 to R261): `mld.a`, `mld.b` and `mzero` are accepted at their probe, unless the layout slot
is loaded in that clock or another gang's record word, probed before, has still to read its record; `mma`, `mdrain` and `lrec`
read their record in a pass of the lane port, check it and are accepted, or write the layout slot. The immediate words read the lapidary's counters, its conflict counter, which `lconf.clr` clears, and a format slot (R262); the lane
conversions give each active lane its element, value, scale or term count (R264 to R267); a format slot of another type raises trap 0x01
(R263).
The model's own choices in it: log entries 9, 10, 39, 126, 127. -/
def Obligations.EngineWords : Prop :=
  (
  (∀ (s : State) (g : Gang) (e : Entry) (c : Clause) (i : Instr) (a : SReg) (tr : TReg) (l : Fin 4) (f : Fin 8) (kd : DWord → LapKind)
    (cr : Crew), stageWord i = some (a, tr, l, f, kd) → Ready s g e c .mtx [.s a] [] → e.mask ≠ 0 → s.crew? g.crewKey = some cr →
    let raw := s.fmtSlot g f
    let lay := (s.lap g.core).slots[l]
    let k := kd (rs s g a)
    s.slotLoads g.core l = false →
    (stageLegal raw lay k = true → stagePlace raw lay k cr.partLen = none → takes s g.core →
      s.recordsAhead g (s.clock g.core + 1) = false →
      ∃ t, exec i s = .next t ∧ Tracks s t g tr ∧
        Accepted s t g.core g.key c.next tr k fun o => o.fslot = raw ∧ o.slotNo = f ∧ o.walk = lay ∧ (s.core g.core).laneFree ≤ o.begin) ∧
    (g.inHandler = false → s.handlerOf g ≠ 0 →
      (stageLegal raw lay k = false → ∃ t, exec i s = .next t ∧ TookTrap s t g e c 0x01 0) ∧
      ∀ x, stageLegal raw lay k = true → stagePlace raw lay k cr.partLen = some x →
        ∃ t, exec i s = .next t ∧ TookTrap s t g e c x.cause x.info)) ∧
  (∀ (s : State) (g : Gang) (e : Entry) (c : Clause) (n : Stall) (tr : TReg), Ready s g e c .mtx [] [] → e.mask ≠ 0 → takes s g.core →
    s.recordsAhead g (s.clock g.core + 1) = false → ∃ t, exec (.mzero n tr) s = .next t ∧ Tracks s t g tr ∧
      Accepted s t g.core g.key c.next tr .mzero fun o => o.finish = o.begin + 32) ∧
  ∀ (s : State) (g : Gang) (e : Entry) (c : Clause) (i : Instr) (a : SReg) (al n : Nat) (cr : Crew), recordWord i = some (a, al, n) →
    Ready s g e c .mtx [.s a] [] → e.mask ≠ 0 → s.crew? g.crewKey = some cr →
    let o := low (rs s g a)
    (o % al = 0 → o + n ≤ cr.partLen → ∃ t, exec i s = .next t ∧ AwaitsPass s t g c i (some a)) ∧
    (g.inHandler = false → s.handlerOf g ≠ 0 →
      (o % al ≠ 0 → ∃ t, exec i s = .next t ∧ TookTrap s t g e c 0x08 0) ∧
      (o % al = 0 → cr.partLen < o + n → ∃ t, exec i s = .next t ∧ TookTrap s t g e c 0x04 0)) ∧
    ∀ (u : State) (y : Gang) (e' : Entry) (cl : Clause) (cr' : Crew) (pc : Pc), AtPass u y e' cl cr' i pc → y.block = [] →
      low y.opnd % al = 0 → low y.opnd + n ≤ cr'.partLen →
      ∃ v, exec .probePass u = .next v ∧ recordEffect u v y e' cl cr' pc i) ∧
  (
  (∀ (s : State) (g : Gang) (e : Entry) (c : Clause) (i : Instr) (d : SReg) (x : DWord), lapRead s g i = some (d, x) →
    Ready s g e c .mtx [] [.s d] → e.mask ≠ 0 → ∃ t, exec i s = .next t ∧
      ScalarResult s (t.setCc g.core { t.cc g.core with conflict := (s.cc g.core).conflict, confNew := (s.cc g.core).confNew }) g 2 d x ∧
      ((∃ n, i = .lconfClr n d) → (t.cc g.core).conflict = 0 ∧
        ∀ z ∈ (t.cc g.core).confNew, s.clock g.core < z.1) ∧
      ((∀ n, i ≠ .lconfClr n d) → (t.cc g.core).conflict = (s.cc g.core).conflict ∧ (t.cc g.core).confNew = (s.cc g.core).confNew)) ∧
  (∀ (s : State) (g : Gang) (e : Entry) (c : Clause) (i : Instr) (d : VReg) (lat : Nat) (rd : List RegRef) (f : Option (Fin 8))
    (v : Nat → Word), convertWord s g e.mask i = some (d, lat, rd, f, v) → Ready s g e c .mtx rd [.v d] →
    ((∀ k, f = some k → fmtSlotOk (s.fmtSlot g k) isBlockType = true) →
      ∃ t, exec i s = .next t ∧ (e.mask ≠ 0 → VectorResult s t g lat d e.mask v)) ∧
    (∀ k, f = some k → fmtSlotOk (s.fmtSlot g k) isBlockType = false → g.inHandler = false → s.handlerOf g ≠ 0 →
      ∃ t, exec i s = .next t ∧ TookTrap s t g e c 0x01 0)) ∧
  ∀ (s : State) (g : Gang) (e : Entry) (c : Clause) (n : Stall) (d x : VReg) (a : VSrc) (f : Fin 8),
    Ready s g e c .mtx (srcRefs a) [.v d, .v x] → d ≠ x → fmtSlotOk (s.fmtSlot g f) isBlockType = true →
    let ty := (FmtSlot.read (s.fmtSlot g f)).typ
    let sc := chooseScale ty (laneFloats s g e.mask a)
    let zero := (laneFloats s g e.mask a).all FVal.isZero
    ∃ t, exec (.qntScale n d a x f) s = .next t ∧ (e.mask ≠ 0 → Untouched s t g ∧ ∃ y, t.gang? g.key = some y ∧ SameRest g y ∧
      KeepsS g y (s.clock g.core) noneS ∧ KeepsP g y (s.clock g.core) noneP ∧
      KeepsV g y (s.clock g.core) (fun k l => (k == d || k == x) && e.mask.getLsbD l) ∧
      ∀ l, l < 32 → e.mask.getLsbD l = true → ∀ z k, s.clock g.core + 8 ≤ k →
        (¬ dueV g x l (s.clock g.core + 8) → y.readV z k x l = BitVec.ofNat 32 (laneScale ty sc)) ∧
        (¬ dueV g d l (s.clock g.core + 8) → y.readV z k d l = BitVec.ofNat 32 (laneElem ty
          (if zero then 0 else elemOf ty sc (Fmt.f32.decode (rv s g a l).toNat))))))

/-- The engine's steps: an operation starts; at its completion it has its effect and its request settles (R234, R238, R242, R244, R246,
R255, R259, R260).
The model's own choices in it: log entries 33, 44. -/
def Obligations.EngineSteps : Prop :=
  (∀ (s : State) (o : LapOp), s.lapOp? s.arg.core s.arg.n = some o → o.begin = s.arg.m →
    ∃ t, exec .lapidaryOpStart s = .next t ∧ t.lapOp? s.arg.core s.arg.n = some { o with started := true }) ∧
  (∀ (s : State) (o : LapOp), s.lapOp? s.arg.core s.arg.n = some o → o.finish = s.arg.m →
    let k := s.arg.core
    let x := s.lap k
    let f := FmtSlot.read o.fslot
    ∃ t, exec .lapidaryOpComplete s = .next t ∧ (t.lap k).ops = (x.ops.filter (fun p => p.id != o.id)).map o.waited ∧
      (∀ r ∈ t.reqs, r.id ≠ o.req) ∧
      match o.kind with
      | .mldA m n => { t.lap k with ops := x.ops } = { x with plane := some (planeOf o.slotNo f m n o.got) }
      | .mldB n c sm => { t.lap k with ops := x.ops } = { x with term := some (termOf o.slotNo f n c sm o.got) }
      | .mzero => { t.lap k with ops := x.ops } = { x with acc := [] }
      | .mma m n hi r acc => ∀ a b, x.plane = some a → x.term = some b →
        (t.lap k).acc = multiply x.acc a b m n (r / 32) (hi / 32) acc ∧ (t.lap k).plane = some a ∧ (t.lap k).term = some b
      | .mdrain m n dest stride => { t.lap k with ops := x.ops } = x ∧ ∀ cr, s.crew? (crewKeyOf o.gang) = some cr →
        (t.core cr.core).spad = drainTo (s.core cr.core).spad cr.partBase f x.acc m n dest stride) ∧
  ∀ (acc : List (Nat × Word)) (a : PlaneOp) (b : TermOp) (m n lo hi : Nat) (keep : Bool), acc.Pairwise (fun x y => x.1 < y.1) →
    n ≤ 256 → ∀ i j, j < 256 → accGet (multiply acc a b m n lo hi keep) (256 * i + j) =
      if i < m ∧ j < n then cellRun a b i j lo hi (if keep then accGet acc (256 * i + j) else 0) else accGet acc (256 * i + j)

end
/-! ## Clause headers, records, requests -/

namespace Sys2Proof.Obl

open Machine

/-! ### The clause header (R19, R20, R27, R29, R30) -/

/-- The gang after the second boundary step: a rotation round without the entries that are gone, a new round where one is pending at a
rotation point (R29, R30, R94). -/
def atBoundary (s : State) (g : Gang) : Gang :=
  let x := g.trimRound
  if x.inHandler = false ∧ x.rotPend = true ∧ s.atRotation x = true then x.startRound else x

/-- The frontier without the entry that issues. -/
def without (e : Entry) (es : List Entry) : List Entry := es.filter fun x => x.pc != e.pc || x.mask != e.mask

/-- The word `i` places after the header. -/
def wordAfter (s : State) (g : Gang) (pc : Pc) (i : Nat) : Nat :=
  match s.fetched g.core g.ctx (pc + BitVec.ofNat 48 (4 * (i + 1))) with | some w => w.toNat | none => 0

/-- The issuing gang stands at a clause boundary: its crew runs, and it selects an entry whose header is `h`. -/
structure AtHeader (s : State) (g : Gang) (e : Entry) (h : Nat) : Prop where
  gang   : s.gang? s.own.cur = some g
  none_  : g.sel = none ∧ g.clause = none
  runs   : ∀ c, s.crew? g.crewKey = some c → c.killed = false
  stays  : g.inHandler = true ∨ s.migrating g = false
  select : (atBoundary s g).select = some e
  header : h = (s.headerAt g e.pc).getD 0

/-- A launch whose budget is exhausted (R346). -/
def exhausted (s : State) (g : Gang) : Bool := match s.slice? g.key.launch with | some l => l.spent | none => false

/-- The boundary trap of cause and info: at the header, with no effect but its own (R30, R351). -/
def BoundaryTrap (s : State) (g : Gang) (e : Entry) (cause : Byte) (info : Word) : Prop :=
  s.handlerOf g ≠ 0 → ∃ t, exec .clauseHeader s = .next t ∧
    TookTrap s t { g with front := without e g.front } e ⟨e.pc, e.pc, 0, .ctl⟩ cause info

/-- The gang has issued its header. -/
def Issued (s t : State) (g : Gang) (e : Entry) (h : Nat) (c : Cls) : Prop :=
  Untouched s t g ∧ ∃ y, t.gang? g.key = some y ∧ SameRegs g y ∧ y.t = g.t ∧ y.hd = g.hd ∧ y.trap = g.trap ∧ y.place = g.place ∧
    y.live = g.live ∧ y.sel = some e ∧ y.clause = some ⟨e.pc, e.pc + 4, h / 2 ^ 28, c⟩ ∧ y.front = without e g.front ∧
    y.readyAt = s.clock g.core + 1 + h / 2 ^ 12 % 16

/-! ### Records (R111 to R119) -/

/-- Everything but the gang's record is as it was in every other gang, in memory and in the requests. -/
def OtherwiseSame (s t : State) (k : GangKey) : Prop :=
  (∀ j, j ≠ k → t.gang? j = s.gang? j) ∧ t.mem = s.mem ∧ t.reqs = s.reqs ∧ t.time = s.time ∧ t.ctxs = s.ctxs ∧ t.sys = s.sys

/-- The registers of a launch, in units of 16. -/
def regsOf (s : State) (g : Gang) : Nat := match s.slice? g.key.launch with | some l => l.regs | none => 12

/-- The gang has entered its slot (R119). -/
def Entered (s : State) (g y : Gang) (q : Fin 4) (n : Fin 16) : Prop :=
  y.place = .slot q n ∧ y.s = g.s ∧ y.p = g.p ∧ y.t = g.t ∧ y.front = g.front ∧ y.trap = g.trap ∧ y.strict = g.strict ∧
    y.hd.key = none ∧ y.hd.kind = 1 ∧ y.hd.wake = 8 ∧ y.rotPend = g.hd.rot ∧ y.rotPoint = true ∧
    y.readyAt = s.clock g.core + 1 ∧
    (g.hd.kind ≠ 2 → y.live = g.live ∧ ∀ k : VReg, y.v[k] = if k.val < 16 * g.live then g.v[k] else Vector.replicate 32 0) ∧
    (g.hd.kind = 2 → y.live = regsOf s g ∧ y.v = g.v)

/-- A relaunch of a core is on the agenda. -/
def Relaunches (t : State) (k : CoreId) : Prop := ∃ d ∈ t.agenda, d.task = .ev .relaunch ∧ d.arg.core = k ∧ d.tick = t.now

/-- The order key that a record gets by its own wake condition (R117), where it has one now. -/
def wakes (s : State) (g : Gang) : Option Tick :=
  let ts := g.masked g.hd.tmask
  let cond := if g.hd.wake = 1 then ts.all TimeReg.isSettled || ts.any TimeReg.isHeld3
    else ts.any fun t => t.isSettled || t.isHeld3
  let w := if ts.any TimeReg.isHeld3 then tickOf (s.heldTick g) else wakeTick g.hd.wake ts
  let come := s.reached g.hd.wtick
  if g.hd.wake = 0 then (if come then some g.hd.wtick else none)
  else if g.hd.wake = 8 then some (tickOf s.now)
  else if g.hd.wake = 1 ∨ g.hd.wake = 2 then
    (if g.hd.bound = false then (if cond then some w else none)
     else if g.hd.floor then (if cond && come then some (maxTick w g.hd.wtick) else none)
     else if cond then some (minTick w g.hd.wtick)
     else if come then some (minTick (wakeTick g.hd.wake ts) g.hd.wtick) else none)
  else none

/-! ### Requests (R50, R56, R61 to R68, R285, R287, R290, R299) -/

/-- The byte that a store writes at an address: that of the highest lane (R285). -/
def storedByte (r : Req) (a : Nat) : Option Byte :=
  (r.pieces.reverse.find? fun p => r.at p ≤ a && a < r.at p + p.data.length).map fun p => p.data.getD (a - r.at p) 0

/-- The value that an atomic leaves in a word of `n` bits which holds `old` (R287): operand `v`, for `cas` also `x`. -/
def atomValue {n : Nat} (op : AtomOp) (old v x : BitVec n) : BitVec n :=
  match op with
  | .add => old + v
  | .min => if v.toInt < old.toInt then v else old
  | .max => if old.toInt < v.toInt then v else old
  | .and => old &&& v
  | .or => old ||| v
  | .xor => old ^^^ v
  | .xchg => v
  | .cas => if old = v then x else old
  | .inc => if v.toNat ≤ old.toNat then 0 else old + 1
  | .fadd => BitVec.ofNat n (Fmt.f32.add old.toNat v.toNat)

/-- One lane of an atomic on a memory. -/
def atomLane (op : AtomOp) (r : Req) (m : List Host.Cell) (p : Piece) : List Host.Cell :=
  let w := fun (bs : List Byte) => BitVec.ofNat (8 * p.size) (leNat bs)
  memWrite m (r.at p) (natLe p.size (atomValue op (w (memBytes m (r.at p) p.size)) (w p.data) (w p.data2)).toNat)

/-- The memory in which a request acts: the scratchpad of its core, or memory outside the cores. -/
def memoryOf (s : State) (r : Req) : List Host.Cell := match r.home with | .core => (s.core r.core).spad | _ => s.mem
/-- The memory that an atomic reads: in scratchpad its words stand as they were before the clock's writes by the plane port (R184). -/
def atomicOn (s : State) (r : Req) : List Host.Cell :=
  match r.home with | .core => r.got.foldl (fun m x => memWrite m x.1 x.2) (s.core r.core).spad | _ => s.mem
/-- The memory in which it does not act stays. -/
def OtherMemory (s t : State) (r : Req) : Prop :=
  (∀ k, (r.home ≠ .core ∨ k ≠ r.core) → (t.core k).spad = (s.core k).spad) ∧ (r.home = .core → t.mem = s.mem)

/-- A request waits to be performed. -/
def Due_ (s : State) (r : Req) : Prop := s.req? s.arg.req = some r ∧ r.perfDone = false ∧ r.held = none ∧ r.perf ≤ s.now

/-- A request has been performed; no gang's registers changed. -/
def Performed (s t : State) (r : Req) : Prop :=
  (∃ x, t.req? r.id = some x ∧ x.perfDone = true) ∧ t.time = s.time ∧ t.ctxs = s.ctxs ∧ t.crews = s.crews ∧ t.sys = s.sys ∧
    ∀ k g, s.gang? k = some g → ∃ y, t.gang? k = some y ∧ SameRegs g y ∧ y.t = g.t ∧ y.front = g.front ∧ y.place = g.place

/-- Monitors are hit by a write to their watched bytes, whatever its value, and the line goes from the writer's L1 (R212, R290). -/
def Seen (s t : State) (r : Req) : Prop :=
  (r.home ≠ .core → ∀ k, ∀ m ∈ (s.cc k).mons, m.armed = true →
    (∃ p ∈ r.pieces, m.addr < r.at p + p.data.length ∧ r.at p < m.addr + m.size) → { m with hit := true } ∈ (t.cc k).mons) ∧
  (r.cached = true → ∀ l ∈ (t.core r.core).l1, l.addr = r.line → l.kill = true ∧ l.hold ≠ 0)

/-- The bytes of a request's result for a piece, low byte first, as a number. -/
def resultOf (r : Req) (p : Piece) : Nat := leNat (r.result p)

/-- A request that has landed: it is in no set any more; its time register, where it was the last, is SETTLED in this tick. The request
of a gang that has exited reaches no gang (R99); a trace record that is written then can wake a gang on a monitor. -/
def Landed (s t : State) (r : Req) : Prop :=
  (∀ x, x ∈ t.reqs → x.id ≠ r.id) ∧ t.time = s.time ∧ t.crews = s.crews ∧ (∀ k, (t.core k).spad = (s.core k).spad) ∧
  (r.sample = none → ∀ k, k ≠ r.owner ∨ r.orphan = true → t.gang? k = s.gang? k) ∧
  ∀ g, s.gangOf r = some g → ∃ y, t.gang? r.owner = some y ∧ y.front = g.front ∧ y.p = g.p ∧ y.place = g.place ∧
    (∀ k, k ≠ r.treg → y.t[k] = g.t[k]) ∧
    (r.tracked = true → g.t[r.treg].soft = false →
      (∀ x ∈ s.reqs, x.of r.owner = true → x.treg = r.treg → x.tracked = true → x.id = r.id) →
      y.t[r.treg].val = BitVec.ofNat 64 (s.now % 2 ^ 56))

end Sys2Proof.Obl

section
open Sys2Proof Sys2Proof.Machine Sys2Proof.Obl

/-- The clause header (R30): the boundary steps in their order. A gang of a killed crew is gone; a gang whose crew migrates becomes a
record of kind 0x05 and its reads are held with class 5; an exhausted budget, a strict break, a watch timeout, a header that does
not decode and a register of SETTLE that is HELD with class 3 trap; a register of SETTLE that is not settled makes a record that
waits for all of them; else the clause begins, its first word ENTRY clocks after the header.
An `mwait` that timed out traps in a handler too, and escalates (R214, R351).
The model's own choices in it: log entries 15, 124. -/
def Obligations.ClauseHeaders : Prop :=
  (∀ (s : State) (g : Gang) (c : Crew), s.gang? s.own.cur = some g → s.crew? g.crewKey = some c → c.killed = true →
    ∃ t, exec .clauseHeader s = .next t ∧ t.gang? g.key = none ∧ t.mem = s.mem ∧
      ∀ r ∈ t.reqs, r.owner = g.key → r.orphan = true) ∧
  (∀ (s : State) (g : Gang) (c : Crew) (m : Migration), s.gang? s.own.cur = some g → g.sel = none → s.crew? g.crewKey = some c →
    c.killed = false → c.mig = some m → m.stage = .stopping → g.inHandler = false →
    ∃ t, exec .clauseHeader s = .next t ∧ (∃ y, t.gang? g.key = some y ∧ y.hd.kind = 5 ∧ y.hd.wake = 8 ∧ y.front = g.front ∧
        y.s = g.s ∧ y.v = g.v ∧ y.p = g.p) ∧
      ∀ r ∈ t.reqs, r.of g.key = true → (∃ d w, r.effect = .load d w) → r.home ≠ .core → r.held.isSome = true) ∧
  ∀ (s : State) (g : Gang) (e : Entry) (h : Nat), AtHeader s g e h →
    let b := atBoundary s g
    let regs := (List.range 8).filter fun i => h / 2 ^ (16 + i) % 2 = 1
    let quiet := g.timedOut = false ∧ (g.inHandler = true ∨ ((exhausted s g = false ∨ g.budgeted = true) ∧ g.strict = none))
    (g.inHandler = false → exhausted s g = true → g.budgeted = false → BoundaryTrap s b e 0x0B 0) ∧
    (g.inHandler = false → exhausted s g = false ∨ g.budgeted = true →
      (∀ r c, g.strict = some (r, c) → BoundaryTrap s b e 0x0A (BitVec.ofNat 32 (r.val + 16 * c.toNat))) ∧
      (g.strict = none → g.timedOut = true → BoundaryTrap s b e 0x0C 0)) ∧
    (g.inHandler = true → g.timedOut = true → ∃ t, exec .clauseHeader s = .next t ∧
      Halted t { b with front := without e b.front } e e.pc ⟨e.pc, e.pc, 0x0C, 0, true⟩) ∧
    (quiet → headerOk h (wordAfter s g e.pc) = none → g.inHandler = false → BoundaryTrap s b e 0x01 0x100) ∧
    ∀ c, quiet → headerOk h (wordAfter s g e.pc) = some c →
      (∀ i, i ∈ regs → (vget g.t i).isHeld3 = true → (∀ j, j ∈ regs → j < i → (vget g.t j).isHeld3 = false) → g.inHandler = false →
        BoundaryTrap s b e 0x09 (BitVec.ofNat 32 i)) ∧
      ((∀ i ∈ regs, (vget g.t i).isHeld3 = false) → (∃ i ∈ regs, (vget g.t i).isSettled = false) →
        ∃ t, exec .clauseHeader s = .next t ∧ Deposited s t g g.front 1 (BitVec.ofNat 16 (h / 2 ^ 16 % 256)) false false
          (wakeTick 1 (g.masked (BitVec.ofNat 16 (h / 2 ^ 16 % 256))))) ∧
      ((∀ i ∈ regs, (vget g.t i).isSettled = true) → ∃ t, exec .clauseHeader s = .next t ∧ Issued s t b e h c)

/-- The steps of gangs and records: a rotation falls due (R94); a record is written (R111), relaunched (R118, R119), or refused where
it is malformed (R116); wakes by its condition (R117), by a timeout (R214); a register that software wrote settles (R52); a slice
is exhausted (R346).
The model's own choices in it: log entries 65, 119. -/
def Obligations.RecordSteps : Prop :=
  (∀ (s : State) (g : Gang), s.gang? s.arg.key = some g →
    (2 ≤ g.entries → ∃ t, exec .fairnessTimerExpiry s = .next t ∧ t.gang? g.key = some { g with rotPend := true } ∧ OtherwiseSame s t g.key) ∧
    (∀ q n r, g.place = .leaving q n r → ∃ t, exec .recordWriteDone s = .next t ∧
      t.gang? g.key = some { g with place := match r with | some x => .ring x.1 x.2 | none => .store } ∧
      OtherwiseSame s t g.key ∧ Relaunches t g.core) ∧
    (g.t[s.arg.treg].soft = true → g.t[s.arg.treg].isOpen = true → s.dist g.t[s.arg.treg].tick ≤ 0 → g.ringAt = none →
      (∀ a, g.place ≠ .saved a) → ∃ t, exec .detachedTimerSettle s = .next t ∧ OtherwiseSame s t g.key ∧ ∃ y, t.gang? g.key = some y ∧ SameRegs g y ∧
        y.t[s.arg.treg].val = g.t[s.arg.treg].val &&& 0x00FFFFFFFFFFFFFF ∧ ∀ k, k ≠ s.arg.treg → y.t[k] = g.t[k]) ∧
    (g.parked = true → g.hd.key = none → g.hd.kind ≠ 4 →
      (∃ t, exec .wakeTimeReached s = .next t ∧ OtherwiseSame s t g.key ∧ ∃ y, t.gang? g.key = some y ∧
        { y with hd := { y.hd with key := none, wtick := g.hd.wtick } } = g ∧ y.hd.key = (wakes s g).map recordable ∧
        ((wakes s g).isSome = true → Relaunches t g.core)) ∧
      (g.hd.wake = 5 → s.reached g.hd.wtick = true → ∃ t, exec .mwaitTimeout s = .next t ∧ OtherwiseSame s t g.key ∧
        Relaunches t g.core ∧ t.gang? g.key = some { g with timedOut := true, hd := { g.hd with key := some (recordable g.hd.wtick) } }))) ∧
  (∀ (s : State) (l : Slice), s.slice? s.arg.launch = some l → ∃ t, exec .budgetExhausted s = .next t ∧
    t.slice? l.id = some { l with spent := l.limited && decide (l.budget.toNat ≤ l.count) } ∧ t.gangs = s.gangs ∧ t.mem = s.mem) ∧
  (∀ (s : State) (g : Gang) (q : Fin 4) (n : Fin 16), let k := s.arg.core
    (s.core k).stopped = false → s.firstEligible k = some g → s.chooseSlot k (s.alloc g) = some (q, n) → g.place = .store →
    ∃ t, exec .relaunch s = .next t ∧ (∃ y, t.gang? g.key = some y ∧ SameOther { g with place := .entering q n none } y) ∧ t.mem = s.mem ∧
      ∃ d ∈ t.agenda, d.task = .ev .relaunchComplete ∧ d.arg.key = g.key ∧
        d.tick = s.edgeTick k (max (s.core k).storeFree (s.clock k + 1) + ceilDiv (64 * g.blocks) 256 - 1)) ∧
  (∀ (s : State) (g : Gang) (q : Fin 4) (n : Fin 16) (p l : Nat), let k := s.arg.core
    (s.core k).stopped = false → s.firstEligible k = some g → s.chooseSlot k (s.alloc g) = some (q, n) → g.place = .ring p l →
    ∃ t, exec .relaunch s = .next t ∧ (∃ y, t.gang? g.key = some y ∧ SameOther { g with place := .entering q n (some (p, l)) } y) ∧
      ∃ d ∈ t.agenda, d.task = .ev .relaunchComplete ∧ d.arg.key = g.key ∧ max s.now (g.hd.written.getD 0) ≤ d.tick) ∧
  ∀ (s : State) (g : Gang) (q : Fin 4) (n : Fin 16) (x : Option (Nat × Nat)), s.gang? s.arg.key = some g → g.place = .entering q n x →
    (g.hd.bad = false → g.live ≤ regsOf s g → (∀ r ∈ s.reqs, r.of g.key = true → r.withdrawn = false) →
      ∃ t, exec .relaunchComplete s = .next t ∧ OtherwiseSame s t g.key ∧ (∃ y, t.gang? g.key = some y ∧ Entered s g y q n) ∧
        (g.hd.wake = 5 → ∀ m ∈ (t.cc g.core).mons, m.gang ≠ g.key)) ∧
    (g.hd.bad = true ∨ regsOf s g < g.live → ∃ t, exec .relaunchComplete s = .next t ∧ ∃ y, t.gang? g.key = some y ∧ y.hd.kind = 4 ∧
      y.s = g.s ∧ y.v = g.v ∧ y.front = g.front)

/-- The steps of requests: a landing brings its result (R56, R32); a store and an atomic are performed (R285, R287, R290, R299); a
break books the rest of the path again, and counts in the register where the promise moves (R62, R63); a held request is probed
again when its condition ends, once the walk that it takes has landed (R279, R280), or is held with class 3 where it cannot (R68); a
page that is there for the first time is zero before (R405).
The model's own choices in it: log entries 133, 143, 144. -/
def Obligations.RequestSteps : Prop :=
  (∀ (s : State) (r : Req), s.req? s.arg.req = some r → r.held = none → r.arrive ≤ s.now → r.replied = true → r.perfDone = true →
    ((∃ d w, r.effect = .load d w ∨ r.effect = .lanes d w) ∨ r.effect = .store ∨ r.effect = .arm ∨ (∃ op d w, r.effect = .atomic op d w) ∨
      ∃ d v, r.effect = .scalar d v) →
    ∃ t, exec .requestLanding s = .next t ∧ Landed s t r ∧ (r.mixed = [] → ∀ g, s.gangOf r = some g →
      ∃ y, t.gang? r.owner = some y ∧
      (∀ d v, r.effect = .scalar d v → y.s[d] = v ∧ y.v = g.v) ∧
      (r.effect = .store ∨ r.effect = .arm → y.s = g.s ∧ y.v = g.v) ∧
      (∀ d : VReg, (g.parked = false ∨ d.val < 16 * g.live) → (r.effect = .load (.v d) .b32 ∨ r.effect = .lanes (.v d) .b32 ∨
          ∃ op, r.effect = .atomic op (some (.v d)) .b32) → r.pieces.Pairwise (fun x y => x.lane ≠ y.lane) →
        y.s = g.s ∧ (∀ k : VReg, k ≠ d → y.v[k] = g.v[k]) ∧ ∀ l : Fin 32,
          (∀ p ∈ r.pieces, p.lane = l.val → y.v[d][l] = BitVec.ofNat 32 (resultOf r p)) ∧
          ((∀ p ∈ r.pieces, p.lane ≠ l.val) → y.v[d][l] = g.v[d][l])))) ∧
  (∀ (s : State) (r : Req), Due_ s r → r.effect = .store → MemoryOk s →
    ∃ t, exec .storePerformed s = .next t ∧ Performed s t r ∧ Seen s t r ∧ OtherMemory s t r ∧
      ∀ a, memGet (memoryOf t r) a = (storedByte r a).getD (memGet (memoryOf s r) a)) ∧
  (∀ (s : State) (r : Req) (op : AtomOp) (d : Option DataReg) (w : Width), Due_ s r → r.effect = .atomic op d w → MemoryOk s →
    s.failed r = none → (∀ p ∈ r.pieces, (p.size = 4 ∨ p.size = 8 ∧ op ≠ .fadd) ∧ p.data.length = p.size ∧ (op = .cas → p.data2.length = p.size)) →
    ∃ t, exec .atomicPerformed s = .next t ∧ Performed s t r ∧ OtherMemory s t r ∧ (r.home ≠ .core → Seen s t r) ∧
      (∀ a, memGet (memoryOf t r) a = memGet (r.pieces.foldl (atomLane op r) (atomicOn s r)) a) ∧
      ∃ x, t.req? r.id = some x ∧ ∀ as p bs, r.pieces = as ++ p :: bs →
        (p.lane, memBytes (as.foldl (atomLane op r) (atomicOn s r)) (r.at p) p.size) ∈ x.got) ∧
  (∀ (s : State) (r : Req) (x : Slot) (y : Stage), let a := s.arg
    s.req? a.req = some r → r.held = none → (∀ g, r.effect ≠ .copy g) → r.slots[a.n]? = some x → r.path[a.n]? = some y → s.now ≤ x.tick →
    x.tick < a.m → (∀ q ∈ s.reqs, ∀ d ∈ q.after, d.1 ≠ r.id) →
    ∃ t z, exec .requestBreak s = .next t ∧ t.req? r.id = some z ∧ z.slots.take a.n = r.slots.take a.n ∧
      (∃ w, z.slots[a.n]? = some w ∧ w.res = y.res ∧ a.m ≤ w.tick) ∧
      (r.prom < z.prom → vget (t.cc r.core).brkc (causeCode a.cause - 1) = satInc (vget (s.cc r.core).brkc (causeCode a.cause - 1))) ∧
      (r.prom < z.prom → r.tracked = true → ∀ g, s.gangOf r = some g → ∃ u, t.gang? r.owner = some u ∧ u.v = g.v ∧
        u.t[r.treg].breaks = g.t[r.treg].breaks + 1 ∧
        (g.t[r.treg].soft = false → (∀ q ∈ s.reqs, q.held = none) → u.t[r.treg].state = 2) ∧
        ∀ l, s.slice? r.owner.launch = some l → l.strict = true → g.strict = none →
          u.strict = some (r.treg, BitVec.ofNat 4 (causeCode a.cause)))) ∧
  (∀ (s : State) (r : Req) (c : Ctx) (b : Vector DWord 8) (e : TlbEntry) (cls : HeldClass) (k : Word),
    s.arg.cls = cls → s.arg.ticket = k → cls ≠ .error →
    let u := if cls = .page ∧ s.arg.flag = false then s.zeroPages k else s
    u.heldWith cls k = [r] → u.req? r.id = some r → r.withdrawn = false → u.savesNow r.core = false →
    (∃ d w, r.effect = .load d w) ∨ r.effect = .store → (∀ d ∈ r.after, ∀ x, u.req? d.1 = some x → x.held = none) →
    r.device = true → u.ctx? r.ctx = some c → u.bufRec c r.handle = some b → u.bufReady b = true → Buf.tier b < 2 →
    let m := { u.misses r.core c r.handle [Buf.base b + r.offset] r.writes with recMiss := false }
    (m.blank = true → u.translate r.core c (Buf.base b + r.offset) = some e →
      ∃ t z, exec .heldResolution s = .next t ∧ t.req? r.id = some z ∧ z.held = none ∧ z.probed = s.now ∧
        z.line = homeKey (homeOf b r.offset) (e.map (Buf.base b + r.offset))) ∧
    (m.blank = false → ∃ t z, exec .heldResolution s = .next t ∧ t.req? r.id = some z ∧ z.held = r.held ∧
      ∃ d ∈ t.agenda, d.task = .reprobe ∧ d.arg.req = r.id ∧ s.now ≤ d.tick)) ∧
  ∀ (s : State) (r : Req), s.arg.cls = .page ∨ s.arg.cls = .peer → s.heldWith s.arg.cls s.arg.ticket = [r] → s.req? r.id = some r →
    s.ownHold r s.arg.cls = true →
    ∃ t z, exec .heldConvertClass3 s = .next t ∧ t.req? r.id = some z ∧ z.held = some (.error, BitVec.ofNat 32 s.sys.errWr.toNat)

end
/-! ## The hierarchy beyond the cores (R300 to R312) -/

namespace Sys2Proof.Obl

open Machine

/-- The place of entry `n` in the error log (R394), where there is a ring in HBM5. -/
def errorEntry (s : State) : Option Nat :=
  let k := (s.sys.errLog.extractLsb' 52 5).toNat
  let base := (s.sys.errLog.extractLsb' 0 52).toNat
  if 4 ≤ k ∧ k ≤ 16 ∧ s.inHbm base = true then some (base + 32 * (s.sys.errWr.toNat % 2 ^ k)) else none

/-- An entry has been appended to the error log (R394), and nothing else in memory changed; without a ring it is dropped. -/
def ErrorLogged (s t : State) (src unit kind addr : Nat) : Prop :=
  match errorEntry s with
  | none => t.mem = s.mem ∧ t.sys.errWr = s.sys.errWr
  | some a => t.sys.errWr = s.sys.errWr + 1 ∧
    memDWord t.mem a = BitVec.ofNat 64 (src * 2 ^ 56 + unit * 2 ^ 48 + kind * 2 ^ 40) ∧
    memDWord t.mem (a + 8) = BitVec.ofNat 64 addr ∧ memDWord t.mem (a + 16) = BitVec.ofNat 64 s.now ∧
    memDWord t.mem (a + 24) = BitVec.ofNat 64 s.sys.errWr.toNat ∧ ∀ x, x < a ∨ a + 32 ≤ x → memGet t.mem x = memGet s.mem x

/-- The counters of corrected soft errors (R378). -/
def eccCounts (s : State) : EccPlace → Word
  | .dieSram d => s.sys.errcDie[d]
  | .l1 c => s.sys.errcDie[dieOf c]
  | .l2 l => s.sys.errcDie[dieOfSlice l]
  | .hubSram => s.sys.errcHub
  | .hbm k => s.sys.errcHbm[k]
  | .sector k => s.sys.errcHbm[k]
  | .cap q => s.sys.errcCap[q]

/-- The places outside the SRAMs, whose failing reads are made again (R312). -/
def deepPlace : EccPlace → Bool | .hbm _ => true | .cap _ => true | .sector _ => true | _ => false

/-- What a step of the hierarchy leaves: gangs, requests, contexts and crews, system registers and time. -/
def HierOnly (s t : State) : Prop :=
  t.gangs = s.gangs ∧ t.reqs = s.reqs ∧ t.ctxs = s.ctxs ∧ t.crews = s.crews ∧ t.sys = s.sys ∧ t.time = s.time ∧ t.cores = s.cores

end Sys2Proof.Obl

section
open Sys2Proof Sys2Proof.Machine Sys2Proof.Obl

/-- The steps of L2 and the memory-side cache: a victim leaves its buffer in its slot, the written sectors of a tolerant line
truncated (R300, R302); before the first write to a dead range its clear is booked, and the range is live (R305); a sector's last
fill write sets V, D = 0 and TAG (R308); a write-through finds its sector or fills it, and its line write sets D and ends the
slice's hold (R310, R408).
The model's own choices in it: log entries 20, 54. -/
def Obligations.CacheSteps : Prop :=
  (∀ (s : State) (v : Victim), s.hier.victims.find? (fun x => x.slot = s.arg.n && x.line.slice.val = s.arg.m) = some v →
    ∃ t, exec .l2VictimWriteback s = .next t ∧ HierOnly s t ∧
      (s.isDead v.line.addr = false → v ∉ t.hier.victims ∧ (∀ x, x ≠ v → (x ∈ t.hier.victims ↔ x ∈ s.hier.victims)) ∧
        (v.line.ctype = 0 ∨ v.line.fresh = 0 → t.mem = s.mem) ∧
        (Memory.wf s.mem = true → v.line.ctype ≠ 0 → v.line.fresh ≠ 0 → s.hier.line? v.line.addr = none →
          memBytes t.mem v.line.addr 128 = truncSectors v.line.ctype v.line.fresh (memBytes s.mem v.line.addr 128) ∧
          ∀ x, x < v.line.addr ∨ v.line.addr + 128 ≤ x → memGet t.mem x = memGet s.mem x)) ∧
      (s.isDead v.line.addr = true → t.isDead v.line.addr = false ∧ ∃ w ∈ t.hier.victims, w.line = v.line ∧
        ∃ d ∈ t.agenda, d.task = .ev .l2VictimWriteback ∧ d.tick = w.slot ∧ d.arg.n = w.slot ∧ d.arg.m = s.arg.m)) ∧
  (∀ (s : State), ∃ t, exec .mscSectorFill s = .next t ∧ HierOnly s t ∧ t.mem = s.mem ∧
    t.hier.sector s.arg.n = { s.hier.sector s.arg.n with valid := true, dirty := false, tag := BitVec.ofNat 4 s.arg.m } ∧
    ∀ i, i ≠ s.arg.n → t.hier.sector i = s.hier.sector i) ∧
  (∀ (s : State) (l : L2Line) (ch : Fin 32), s.hier.line? s.arg.n = some l → l.cap = some ch →
    ∃ t, exec .writeThroughPerform s = .next t ∧ HierOnly s t ∧ ((s.hier.ways l.slice s.arg.n).length ≤ 16 → t.mem = s.mem ∧
      (s.csize = 0 → t.hier.line? s.arg.n = some { l with hold := l.hold - 1 }) ∧
      (s.csize ≠ 0 → let u := sectorNo ch (s.arg.n % 2 ^ 36)
        let i := u % sectors s.csize
        let x := s.hier.sector i
        let hit := x.valid && x.tag == BitVec.ofNat 4 (u / sectors s.csize)
        (s.arg.flag = true → t.hier.sector i = { x with valid := true, dirty := true } ∧
          t.hier.line? s.arg.n = some { l with hold := l.hold - 1 }) ∧
        (s.arg.flag = false → t.hier = s.hier ∧ ∃ d ∈ t.agenda, d.task = .ev .writeThroughPerform ∧ d.arg.flag = true ∧ d.arg.n = s.arg.n) ∧
        (s.arg.flag = false → hit = true → t.agenda.length = s.agenda.length + 1) ∧
        (s.arg.flag = false → hit = false → ∃ d ∈ t.agenda, d.task = .ev .mscSectorFill ∧ d.arg.n = i ∧ d.arg.m = u / sectors s.csize))))

/-- The steps of the stacks: refresh and scrubbing leave all data as it is (R304, R312); a stack that crosses 85 °C upward or 83 °C
downward changes its window (R304); a corrected error is counted and logged, one that cannot be corrected is logged, marks the
bytes, and holds with class 3 every request that waits on them (R312, R378, R394); a range is marked dead, a write of zero to
every byte of it, and shown (R305, R315).
The model's own choices in it: log entries 34, 55, 102. -/
def Obligations.StackSteps : Prop :=
  (∀ s : State, exec .hbmRefresh s = .next s ∧ exec .scrub s = .next s) ∧
  (∀ (s : State) (k : Fin 16), s.arg.n = k.val → ∃ t, exec .stackTempCrossing s = .next t ∧
    (∀ q : Fin 16, (t.hier.stks[q]).hot = if q = k then s.arg.flag else (s.hier.stks[q]).hot) ∧
    (s.arg.flag = false ∨ (s.hier.stks[k]).hot = true → HierOnly s t ∧ t.mem = s.mem)) ∧
  (∀ (s : State), MemoryOk s → s.arg.kind = .corrected → ∃ t, exec .eccError s = .next t ∧
    (∀ p, eccCounts t p = if eccSource p = eccSource s.arg.place then satInc (eccCounts s p) else eccCounts s p) ∧
    (deepPlace s.arg.place = false → t.reqs = s.reqs ∧ ((∀ a, errorEntry s = some a → Unwatched s a 32) → t.gangs = s.gangs) ∧
      ErrorLogged s t (eccSource s.arg.place).1 (eccSource s.arg.place).2 1 s.arg.n)) ∧
  (∀ (s : State), s.arg.kind = .retried → ∃ t, exec .eccError s = .next t ∧ t.sys = s.sys ∧
    (deepPlace s.arg.place = false → t = s)) ∧
  (∀ (s : State), s.arg.kind = .uncorrectable → ∃ t, exec .eccError s = .next t ∧
    (∀ p, eccCounts t p = eccCounts s p) ∧ t.sys.errWr = (if (errorEntry s).isSome then s.sys.errWr + 1 else s.sys.errWr) ∧
    (deepPlace s.arg.place = true ∨ (∃ l x, s.arg.place = .l2 l ∧ s.hier.line? (s.arg.n / 128 * 128) = some x ∧
        x.dirty.getLsbD (s.arg.n % 128 / 32) = true) →
      (s.arg.n / 32 * 32, 32, BitVec.ofNat 32 s.sys.errWr.toNat) ∈ t.hier.fails ∧
      ∀ r ∈ s.reqs, r.cached = true → r.line = s.arg.n / 128 * 128 → r.perfDone = false → r.held = none → r.fromL1 = false →
        (∃ d w, r.effect = .load d w) → (s.arg.n ∈ r.bytes) →
        ∃ z ∈ t.reqs, z.id = r.id ∧ z.held = some (.error, BitVec.ofNat 32 s.sys.errWr.toNat))) ∧
  (∀ (s : State) (k : Fin 16), s.arg.n = k.val → Memory.wf s.mem = true → (s.arg.m + 1) * 2 ^ 21 ≤ stackBytes s.csize →
    ∃ t, exec .hbmDeadMark s = .next t ∧ HierOnly s t ∧ s.arg.m ∈ (t.hier.stks[k]).dead ∧
      (∀ a, memGet t.mem a = if k.val * 2 ^ 37 + s.arg.m * 2 ^ 21 ≤ a ∧ a < k.val * 2 ^ 37 + (s.arg.m + 1) * 2 ^ 21
        then 0 else memGet s.mem a) ∧
      ∀ q n, (q ≠ k ∨ n ≠ s.arg.m) → (n ∈ (t.hier.stks[q]).dead ↔ n ∈ (s.hier.stks[q]).dead)) ∧
  ∀ (s : State) (k : Fin 16), s.arg.n = k.val → (s.arg.m + 1) * 2 ^ 21 ≤ stackBytes s.csize →
    ∃ t, exec .hbmDeadLoad s = .next t ∧ HierOnly s t ∧ t.mem = s.mem ∧ (∀ q : Fin 16, (t.hier.stks[q]).dead = (s.hier.stks[q]).dead) ∧
      (t.hier.stks[k]).deadReg.getLsbD 16 = (s.hier.stks[k]).dead.contains s.arg.m ∧
      (t.hier.stks[k]).deadReg.extractLsb' 0 16 = BitVec.ofNat 16 s.arg.m ∧ (t.hier.stks[k]).deadReg.extractLsb' 62 2 = 2

end
/-! ## Copies on their channels, launches, queues -/

namespace Sys2Proof.Obl

open Machine

/-! ### Channels (R217 to R224) -/

/-- A command that the channels of core `k` may take now: complete before this clock, on no channel. -/
def takable (s : State) (k : CoreId) (x : CopyCmd) : Prop :=
  x.chan = none ∧ x.done = false ∧ ∃ u, x.complete = some u ∧ (u.1 < s.now ∨ u.2 < s.clock k)

/-- A row: its number, slice, place and length. -/
def rowPlace (r : CopyRow) : Nat × Nat × Nat × Nat := (r.no, r.slice, r.off, r.len)

/-- The first row of a command on a channel lands in this step (R224). -/
structure RowLands (s : State) (x : CopyCmd) (r : CopyRow) (rest : List CopyRow) (p : CopySlice) : Prop where
  cmd   : s.cmd? s.arg.core (crewKeyOf s.arg.key) s.arg.n = some x
  rows  : x.rows = r :: rest
  only  : ∀ y ∈ rest, y.no ≠ r.no
  mine  : s.arg.flag = true ∨ s.arg.m = r.no ∧ s.arg.req = x.first ∧ s.arg.v = BitVec.ofNat 64 r.turn
  due   : x.chan ≠ none ∧ r.landAt ≠ 0 ∧ r.landAt ≤ s.now ∧ ∀ c, s.cmdDest x = some c → r.landClk ≤ s.clock c.core
  full  : r.filled = true
  free  : ∀ p ∈ x.parts, ∀ q, s.req? p.req = some q → q.held = none
  part  : x.parts.find? (fun p => p.index = r.slice) = some p

/-- After a landing of a row to memory or to a partition: the bytes count, the next row is first; after the last one the command is done
and its requests have settled. -/
def RowDone (s t : State) (x : CopyCmd) (r : CopyRow) (rest : List CopyRow) : Prop :=
  ∃ z, t.cmd? s.arg.core x.crew x.group.val = some z ∧ z.landed = x.landed + r.len ∧
    (rest ≠ [] → z.rows = rest ∧ z.done = x.done ∧ z.chan = x.chan) ∧
    (rest = [] → z.done = true ∧ z.chan = none ∧ ∀ p ∈ x.parts, ∀ q ∈ t.reqs, q.id ≠ p.req)

/-! ### Launches (R81 to R90, R101, R334, R345, R355) -/

/-- An event has been appended to the ring of a context (R355), or counted as dropped where the ring is full. -/
def EventAppended (s t : State) (cid : CtxId) (code reason core gang info crew addr : Nat) : Prop :=
  ∀ c, s.ctx? cid = some c → ∃ d, t.ctx? cid = some d ∧
    let a := c.evBase + 32 * (c.evWrite.toNat % 2 ^ c.evk)
    ((c.evWrite - c.evRead).toNat = 2 ^ c.evk → d.evWrite = c.evWrite ∧ d.dropped = min (c.dropped + 1) (2 ^ 32 - 1)) ∧
    ((c.evWrite - c.evRead).toNat ≠ 2 ^ c.evk → d.evWrite = c.evWrite + 1 ∧
      (Memory.wf s.mem = true → a + 32 ≤ c.addr ∨ c.addr + 128 ≤ a →
        memDWord t.mem a = BitVec.ofNat 8 code ++ BitVec.ofNat 8 reason ++ BitVec.ofNat 8 core ++ BitVec.ofNat 8 gang ++ BitVec.ofNat 32 info ∧
        memDWord t.mem (a + 8) = BitVec.ofNat 16 crew ++ BitVec.ofNat 48 addr ∧ memDWord t.mem (a + 16) = BitVec.ofNat 64 s.now ∧
        memDWord t.mem (a + 24) = 0))

/-- A gang in its starting state (R90). -/
structure Starts (l : Slice) (index : Word) (i : Nat) (y : Gang) : Prop where
  front : y.front = [⟨l.entry, 31, 0xFFFFFFFF⟩] ∧ y.sel = none ∧ y.trap = none
  s     : y.s[(0 : SReg)] = index.zeroExtend 64 ∧ y.s[(1 : SReg)] = BitVec.ofNat 64 i ∧ y.s[(2 : SReg)] = BitVec.ofNat 64 l.crewSize ∧
    y.s[(3 : SReg)] = BitVec.ofNat 64 l.crews ∧ y.s[(4 : SReg)] = l.argsHandle ∧ y.s[(5 : SReg)] = (l.args[(0 : Fin 3)]).zeroExtend 64 ∧
    y.s[(6 : SReg)] = (l.args[(1 : Fin 3)]).zeroExtend 64 ∧ y.s[(7 : SReg)] = (l.args[(2 : Fin 3)]).zeroExtend 64 ∧
    ∀ n : SReg, 8 ≤ n.val → y.s[n] = 0
  v     : ∀ (n : VReg) (k : Fin 32), y.v[n][k] = if n = 0 then BitVec.ofNat 32 (32 * i + k.val) else 0
  p     : ∀ n : PReg, y.p[n] = if n = 0 then 0xFFFFFFFF else 0
  t     : ∀ n : TReg, y.t[n] = ⟨0, false, 0⟩

/-- The cores that a slice's next crew tries in a clock, in order (R85, R86): the four of its target span, or all of them from the one
after the last. -/
def tries (l : Slice) (i : Nat) : CoreId :=
  let n := l.nextCrew
  let h := (l.c0 * (n % l.gx) + l.c1 * (n / l.gx % l.gy) + l.c2 * (n / (l.gx * l.gy))) % 2 ^ 64
  coreNo ((if l.fallback then l.rr.val else 4 * (h / 2 ^ l.shift % 64)) + i)

/-- The one slice with crews to place is `l`, whose next crew's number is free; no crew is saved or asked to migrate (R345, R101), and no counter has been read under that number. -/
structure Placing (s : State) (l : Slice) : Prop where
  clock : s.own.placing ≤ s.now
  crews : ∀ c ∈ s.crews, c.resident = true ∧ c.mig = none ∧ c.key ≠ ⟨l.id, BitVec.ofNat 16 l.nextCrew⟩
  one   : s.slices.filter (fun x => x.nextCrew < x.crews) = [l]
  here  : s.slice? l.id = some l
  gangs : ∀ g ∈ s.gangs, g.crewKey ≠ ⟨l.id, BitVec.ofNat 16 l.nextCrew⟩
  size  : l.crewSize ≤ 32
  quiet : ∀ (k : CoreId) (n : EvReg), ∀ x ∈ ((s.cc k).ev[n]).readers, crewKeyOf x.1 ≠ ⟨l.id, BitVec.ofNat 16 l.nextCrew⟩

/-- A launch has become the last slice (R90, R345). -/
def SliceBegun (s t : State) (l : Slice) : Prop :=
  t.slices = s.slices ++ [{ l with id := s.own.launch, fallback := !l.aff }] ∧ t.own.launch = s.own.launch + 1 ∧
    ∃ d ∈ t.agenda, d.task = .ev .crewPlacement ∧ d.tick = s.now + 1

/-! ### The queue unit (R335 to R344) -/

/-- A queue request is in its slot of the queue unit. -/
structure InSlot (s : State) (r : Req) (op : QueueOp) (h : QHandle) (d : QDesc) : Prop where
  event : s.arg.write = false ∧ s.arg.flag = false
  req   : s.req? s.arg.req = some r
  eff   : r.effect = .queue op h
  open_ : r.held = none ∧ r.perfDone = false ∧ r.site = false ∧ r.perf = s.now
  desc  : ∃ c, s.ctx? r.ctx = some c ∧ s.qdesc c h = some d

/-- No earlier push of the gang to the queue is still to be appended (R341). -/
def firstPush (s : State) (r : Req) (h : QHandle) : Prop :=
  ∀ x ∈ s.reqs, x.id < r.id → x.owner = r.owner → x.orphan = r.orphan → x.onQueue r.ctx h = true → x.pushes = true → x.perfDone = true ∨ x.refused ≠ none

/-- A request after its slot. -/
def After (s t : State) (r : Req) (f : Req → Prop) : Prop :=
  exec .queueUnitRequest s = .next t ∧ ∃ x, t.req? r.id = some x ∧ f x

/-- The resident queue after a slot. -/
def QueueAfter (t : State) (c : CtxId) (h : QHandle) (f : Queue → Prop) : Prop := ∃ q, t.readyQueue? c h = some q ∧ f q

end Sys2Proof.Obl

section
open Sys2Proof Sys2Proof.Machine Sys2Proof.Obl

/-- The steps of the copy channels: the lowest free channel takes a complete command and cuts it into rows, or ends an empty one (R222,
R223); a clock later its FIFO entry is free, and the records that wait for one are eligible (R221); a row lands, in a partition by its
bytes (R224), and a full ring slot holds it (R224, R227).
The model's own choices in it: log entries 31, 42, 128. -/
def Obligations.CopySteps : Prop :=
  (∀ (s : State) (x : CopyCmd), s.arg.flag = true → s.cmd? s.arg.core (crewKeyOf s.arg.key) s.arg.n = some x →
    s.arg.req = x.first → ∃ t, exec .channelTakeCommand s = .next t ∧ t.cmd? s.arg.core x.crew x.group.val = some { x with entry := false } ∧ t.mem = s.mem ∧
      ∀ j g, s.gang? j = some g → g.core = s.arg.core → g.parked = true → g.hd.wake = 7 → g.hd.key = none → g.hd.kind ≠ 4 →
        ∃ y, t.gang? j = some y ∧ y.hd.key = some (recordable (tickOf s.now))) ∧
  (∀ (s : State) (x : CopyCmd) (ch : Fin 8), let k := s.arg.core
    s.arg.flag = false → (s.core k).stopped = false → x ∈ (s.cc k).cmds → s.cmd? k x.crew x.group.val = some x → takable s k x →
    (∀ y ∈ (s.cc k).cmds, y ≠ x → ¬ takable s k y) → x.dkind = 0 → x.resume = false →
    (∀ y ∈ (s.cc k).cmds, y.chan ≠ some ch) → (∀ c, c < ch → ∃ y ∈ (s.cc k).cmds, y.chan = some c) →
    ∃ t z, exec .channelTakeCommand s = .next t ∧ t.cmd? k x.crew x.group.val = some z ∧
      (x.cut ≠ [] → z.chan = some ch ∧ z.done = false ∧ z.rows.map rowPlace = x.cut.map rowPlace) ∧
      (x.cut = [] → z.done = true ∧ z.chan = none ∧ ∀ p ∈ x.parts, ∀ q ∈ t.reqs, q.id ≠ p.req)) ∧
  (∀ (s : State) (x : CopyCmd) (r : CopyRow) (rest : List CopyRow) (p : CopySlice), RowLands s x r rest p → x.dkind = 0 →
    ∃ t, exec .copyRowLanding s = .next t ∧ RowDone s t x r rest) ∧
  (∀ (s : State) (x : CopyCmd) (r : CopyRow) (rest : List CopyRow) (p : CopySlice) (c : Crew), RowLands s x r rest p → x.dkind = 1 →
    s.crew? ⟨x.crew.launch, x.dcrew⟩ = some c → MemoryOk s → x.bv = false →
    ∃ t, exec .copyRowLanding s = .next t ∧ RowDone s t x r rest ∧ (∀ k, k ≠ c.core → (t.core k).spad = (s.core k).spad) ∧
      let a := c.partBase + p.doff + r.off
      (p.doff + r.off + r.len ≤ c.partLen → ∀ i, i < r.len → memGet (t.core c.core).spad (a + i) = (r.bytes i 1).headD 0) ∧
      (c.partLen < p.doff + r.off + r.len → (t.core c.core).spad = (s.core c.core).spad) ∧
      ∀ j, j < a ∨ a + r.len ≤ j → memGet (t.core c.core).spad j = memGet (s.core c.core).spad j) ∧
  ∀ (s : State) (x : CopyCmd) (r : CopyRow) (rest : List CopyRow) (p : CopySlice) (c : Crew), RowLands s x r rest p → x.dkind = 2 →
    s.crew? ⟨x.crew.launch, x.dcrew⟩ = some c → x.bv = false → 0 < r.len →
    let ri := s.ring c x.ring
    let i := ri.fills % ri.count
    (ri.slotFull i = true → ∃ t z, exec .copyRowLanding s = .next t ∧ t.cmd? s.arg.core x.crew x.group.val = some z ∧
      z.landed = x.landed ∧ z.holding = true ∧ z.done = x.done ∧ ∀ k, (t.core k).spad = (s.core k).spad) ∧
    (ri.slotFull i = false → MemoryOk s → x.fillDone + r.len < ri.size → rest = [] →
      ∃ t, exec .copyRowLanding s = .next t ∧ RowDone s t x r rest ∧
        let a := c.partBase + ri.base + i * ri.size + x.fillDone
        (∀ n, n < r.len → memGet (t.core c.core).spad (a + n) = (r.bytes n 1).headD 0) ∧
        ∀ j, j < a ∨ a + r.len ≤ j → memGet (t.core c.core).spad j = memGet (s.core c.core).spad j)

/-- The steps of launches: the steward's launch is accepted or rejected with its reason (R82), a dispatched record forms one (R334,
R345); the next crew of a slice is placed on the first core that passes, its gangs in their starting state (R85 to R90, R101), or
falls back (R85); a crew retires, its run is zeroed (R100, R178).
The steward's loader has placed its data before (R405, R407); from the fall-back clock on the crew is placed by fall-back only.
The model's own choices in it: log entries 56, 58, 59, 125, 143. -/
def Obligations.PlacementSteps : Prop :=
  (∀ (s : State), s.slices.length < 1024 →
    let u := match s.ctx? s.arg.ctx with | some c => s.loadData c s.arg.pairs s.arg.bytes | none => s
    let l := Slice.ofRecord s.arg.ctx (recordOfBytes (memBytes u.mem s.arg.n 256))
    ∃ t, exec .stewardLaunchSubmit s = .next t ∧ t.crews = s.crews ∧
      (l.reason = 0 → SliceBegun u t l ∧ t.mem = u.mem ∧ t.gangs = u.gangs) ∧
      (l.reason ≠ 0 → t.slices = s.slices ∧ t.own.launch = s.own.launch ∧ EventAppended u t s.arg.ctx 1 l.reason 0 0 0 0 s.arg.n)) ∧
  (∀ (s : State) (q : Queue) (w : Vector Word 8) (c : Ctx) (d : QDesc), s.slices.length < 1024 → s.own.taking ≤ s.now →
    firstBy headBefore s.dispatchHeads = some (q, w) → s.ctx? q.ctx = some c → s.usableQueue c q.handle = some d →
    let u := (s.setOwn { s.own with taking := s.now + 1 }).takeHead d { q with used := s.now } s.now
    ∃ t, exec .dispatchTake s = .next t ∧ t.own.taking = s.now + 1 ∧
      (∀ l pa, u.formLaunch c d w = (l, 0, pa) → l.reason = 0 → t.slices = s.slices ++ [{ l with id := s.own.launch, fallback := !l.aff }] ∧
        l.args = #v[w[5], w[6], w[7]] ∧ l.deadline = w[3] ++ w[2] ∧ l.budget = w[4].zeroExtend 64 ∧ l.limited = (w[4] != 0)) ∧
      (∀ l why pa, u.formLaunch c d w = (l, why, pa) → why ≠ 0 ∨ l.reason ≠ 0 → t.slices = s.slices) ∧
      ((w[0].extractLsb' 0 8 ≠ 1 ∧ w[0].extractLsb' 0 8 ≠ 2) ∨ w[0].extractLsb' 8 24 ≠ 0 → ∃ l, u.formLaunch c d w = (l, 13, 0))) ∧
  (∀ (s : State) (l : Slice) (i : Nat), Placing s l → (l.fallback = true ∨ l.tries < 64) → i < (if l.fallback then 256 else 4) → s.passes l (tries l i) = true →
    (∀ j, j < i → s.passes l (tries l j) = false) →
    let k := tries l i
    let key : CrewKey := ⟨l.id, BitVec.ofNat 16 l.nextCrew⟩
    ∃ t, exec .crewPlacement s = .next t ∧
      t.slice? l.id = some { l with nextCrew := l.nextCrew + 1, tries := 0, fallback := !l.aff
                                    rr := if l.fallback then coreNo (k.val + 1) else l.rr } ∧
      (∃ c, t.crew? key = some c ∧ c.core = k ∧ c.ctx = l.ctx ∧ c.index = BitVec.ofNat 32 l.nextCrew ∧ c.partLen = l.scratch ∧
        c.bars = l.bars ∧ (∀ n : BReg, c.bind[n] = 16 * n.val) ∧ c.regs = [] ∧ (0 < l.scratch → s.freeRun k l.scratch = some c.partBase)) ∧
      ∀ n : Fin 32, n.val < l.crewSize → ∃ y, t.gang? ⟨l.id, BitVec.ofNat 16 l.nextCrew, n⟩ = some y ∧ y.core = k ∧ y.ctx = l.ctx ∧
        y.role = l.role n.val ∧ Starts l (BitVec.ofNat 32 l.nextCrew) n.val y ∧ (y.resident = true ∨ y.hd.kind = 2 ∧ y.parked = true)) ∧
  (∀ (s : State) (l : Slice), Placing s l → (∀ i, i < (if l.fallback then 256 else 4) → s.passes l (tries l i) = false) →
    ∃ t, exec .crewPlacement s = .next t ∧ t.crews = s.crews ∧ t.gangs = s.gangs ∧
      t.slice? l.id = some { l with tries := if l.fallback ∨ 64 ≤ l.tries then l.tries else l.tries + 1 } ∧
      (l.fallback = false → l.tries = 63 → ∃ d ∈ t.agenda, d.task = .ev .affinityFallback ∧ d.arg.launch = l.id ∧ d.arg.n = l.nextCrew ∧
        d.tick = s.now + 1)) ∧
  (∀ (s : State) (l : Slice), s.slice? s.arg.launch = some l → l.nextCrew = s.arg.n → l.aff = true → l.fallback = false →
    ∃ t, exec .affinityFallback s = .next t ∧
      (s.own.placing ≤ s.now → t.slice? l.id = some { l with fallback := true } ∧ t.crews = s.crews ∧ t.gangs = s.gangs) ∧
      ∃ d ∈ t.agenda, d.task = .ev .crewPlacement ∧ d.tick = s.now) ∧
  (∀ (s : State) (c : Crew), s.crew? (crewKeyOf s.arg.key) = some c → s.crewIdle c.key = true →
    ∃ t, exec .crewRetire s = .next t ∧ t.crew? c.key = none ∧ (∀ j, j ≠ c.key → t.crew? j = s.crew? j) ∧
      ((s.core c.core).active = some c.ctx → ∀ e ∈ (t.cc c.core).rings, e.crew ≠ c.key) ∧
      (c.resident = true → 0 < c.partLen → (c.partBase, runBytes c.partLen) ∈ (t.core c.core).zeroing) ∧
      ((∀ j ∈ s.crews, j.key ≠ c.key → j.key.launch ≠ c.key.launch) → ∀ l, s.slice? c.key.launch = some l → l.crews ≤ l.nextCrew →
        t.slice? c.key.launch = none)) ∧
  ∀ (s : State), MemoryOk s → (s.arg.n, s.arg.m) ∈ (s.core s.arg.core).zeroing →
    ∃ t, exec .partitionZeroDone s = .next t ∧ (s.arg.n, s.arg.m) ∉ (t.core s.arg.core).zeroing ∧ t.mem = s.mem ∧
      (∀ k, k ≠ s.arg.core → t.core k = s.core k) ∧
      ∀ a, memGet (t.core s.arg.core).spad a =
        if s.arg.n ≤ a ∧ a < s.arg.n + s.arg.m then 0 else memGet (s.core s.arg.core).spad a

/-- The steps of the queue unit (R335 to R344): pushes, pops, peeks, lengths and pins in their slots; pushes of the host; a refill
lands; a queue takes a resident slot and is read in; the reply reaches the core.
The model's own choices in it: log entries 47 to 53. -/
def Obligations.QueueSteps : Prop :=
  (∀ (s : State) (r : Req) (w : Vector Word 8) (h : QHandle) (d : QDesc) (q : Queue), InSlot s r (.push w) h d →
    s.readyQueue? r.ctx h = some q → firstPush s r h →
    (q.count < 2 ^ d.rk → q.waiters = [] → ∃ t, After s t r (fun x => x.perfDone = true ∧ x.held = none) ∧
      (q.head = q.tail → q.recs.length ≠ 32 → After s t r (fun x => x.prom = s.now + 4) ∧
        QueueAfter t r.ctx h fun z => { z with used := q.used } = { q with recs := q.recs ++ [⟨w, 0⟩] }) ∧
      (q.head ≠ q.tail ∨ q.recs.length = 32 →
        QueueAfter t r.ctx h (fun z => { z with used := q.used } = { q with tail := q.tail + 1 }) ∧
        ∃ e ∈ t.agenda, e.task = .hubWrite ∧ e.arg.n = d.at q.tail ∧ e.arg.bytes = recordBytes w)) ∧
    (∀ i rest p, q.count < 2 ^ d.rk → q.waiters = i :: rest → i ≠ r.id → s.req? i = some p → ∃ t,
      After s t r (fun x => x.perfDone = true ∧ x.prom = s.now + 4) ∧
      QueueAfter t r.ctx h (fun z => { z with used := q.used } = { q with waiters := rest }) ∧
      ∃ x, t.req? i = some x ∧ x.perfDone = true ∧ x.got = recordLanes w) ∧
    (2 ^ d.rk ≤ q.count → ∃ t, After s t r fun x =>
      if r.replied then x.held = some (.queue, h.zeroExtend 32) else x.refused = some (0x0D, h.zeroExtend 32))) ∧
  (∀ (s : State) (r : Req) (op : QueueOp) (h : QHandle) (d : QDesc), InSlot s r op h d → s.readyQueue? r.ctx h = none →
    (∃ w, op = .push w) ∨ (∃ v, op = .pop v) ∨ (∃ v, op = .peek v) → ∃ t, After s t r (fun x => x.held = some (.queue, h.zeroExtend 32)) ∧
      ((∀ q, s.queue? r.ctx h = some q → q.phase = .leaving) → (r.ctx, h) ∈ t.queues.wanted)) ∧
  (∀ (s : State) (r : Req) (op : QueueOp) (v : VReg) (h : QHandle) (d : QDesc) (q : Queue), InSlot s r op h d →
    s.readyQueue? r.ctx h = some q → op = .pop v ∨ op = .peek v →
    (∀ x rest, q.recs = x :: rest → x.due ≤ s.now → ∃ t, After s t r (fun y => y.perfDone = true ∧ y.got = recordLanes x.words) ∧
      (op = .peek v → QueueAfter t r.ctx h fun z => { z with used := q.used } = q) ∧
      (op = .pop v → q.head = q.tail → (∀ y ∈ s.reqs, y.onQueue r.ctx h = true → y.pushes = true → y.held = none) →
        QueueAfter t r.ctx h fun z => { z with used := q.used } = { q with recs := rest })) ∧
    (q.recs = [] → op = .peek v → ∃ t, After s t r fun y => y.perfDone = true ∧ y.got = recordLanes #v[0xFF, 0, 0, 0, 0, 0, 0, 0]) ∧
    (q.recs = [] → op = .pop v → s.queues.resident.foldl (fun n z => n + z.waiters.length) 0 < 4096 →
      ∃ t, After s t r (fun y => y.site = true ∧ y.prom = s.now + 2 ^ 55 - 1) ∧
        QueueAfter t r.ctx h fun z => { z with used := q.used } = { q with waiters := q.waiters ++ [r.id] })) ∧
  (∀ (s : State) (r : Req) (op : QueueOp) (h : QHandle) (d : QDesc), InSlot s r op h d →
    (∀ v, op = .len v → ∃ t, After s t r (fun y => y.perfDone = true ∧ ∀ q, s.readyQueue? r.ctx h = some q → q.count < 2 ^ 32 →
      y.got = [(0, natLe 8 (q.count + 2 ^ 32 + if s.pinned r.ctx h then 2 ^ 33 else 0))])) ∧
    (op = .pin → s.queues.pins.length < 448 ∨ s.pinned r.ctx h = true → ∃ t, After s t r (fun y => y.perfDone = true ∧ y.refused = r.refused) ∧
      (r.ctx, h) ∈ t.queues.pins) ∧
    (op = .pin → 448 ≤ s.queues.pins.length → s.pinned r.ctx h = false → ∃ t, After s t r (fun y => y.refused = some (0x0D, h.zeroExtend 32)) ∧
      t.queues.pins = s.queues.pins) ∧
    (op = .unpin → ∃ t, After s t r (fun y => y.perfDone = true) ∧ (r.ctx, h) ∉ t.queues.pins ∧
      ∀ z, z ≠ (r.ctx, h) → (z ∈ t.queues.pins ↔ z ∈ s.queues.pins))) ∧
  (∀ (s : State) (c : Ctx) (d : QDesc), let h := s.arg.handle
    s.ctx? s.arg.ctx = some c → s.usableQueue c h = some d →
    (d.hostw = true → ∃ t, exec .hostQueuePush s = .next t ∧ t.sys = s.sys ∧ t.queues = s.queues ∧ ∃ e ∈ t.agenda, e.task = .ev .queueUnitRequest ∧
      e.arg = { s.arg with write := true } ∧ s.now ≤ e.tick ∧ s.sys.hostPerf ≤ e.tick) ∧
    (d.hostw = false → exec .hostQueuePush s = .next (s.setSys { s.sys with pushLog := s.sys.pushLog + 1 })) ∧
    (s.arg.write = true → (∀ x ∈ s.queues.hostWait, x.1 ≠ c.id ∨ x.2.1 ≠ h) →
      (s.readyQueue? c.id h = none → ∃ t, exec .queueUnitRequest s = .next t ∧ t.queues.hostWait = s.queues.hostWait ++ [(c.id, h, s.arg.words)] ∧
        t.mem = s.mem) ∧
      ∀ q, s.readyQueue? c.id h = some q →
        (q.count < 2 ^ d.rk → q.waiters = [] → q.head = q.tail → q.recs.length ≠ 32 → ∃ t, exec .queueUnitRequest s = .next t ∧
          QueueAfter t c.id h fun z => { z with used := q.used } = { q with recs := q.recs ++ [⟨s.arg.words, 0⟩] }) ∧
        (2 ^ d.rk ≤ q.count → Memory.wf s.mem = true → ∃ t, exec .queueUnitRequest s = .next t ∧ t.queues = s.queues ∧
          memWord t.mem (d.addr + 28) = (if d.drops = 0xFFFFFFFF then d.drops else d.drops + 1) ∧
          ∀ a, a < d.addr + 24 ∨ d.addr + 32 ≤ a → memGet t.mem a = memGet s.mem a))) ∧
  (∀ (s : State) (q : Queue) (x : QRec) (as bs : List QRec), s.queue? s.arg.ctx s.arg.handle = some q → q.recs = as ++ x :: bs →
    x.due = s.arg.m → (∀ y ∈ as, y.due ≠ s.arg.m) → ∃ t z, exec .queueRefillLanding s = .next t ∧ t.queue? s.arg.ctx s.arg.handle = some z ∧
      z = { q with recs := as ++ ⟨recordWords s.mem s.arg.n, 0⟩ :: bs }) ∧
  (∀ (s : State) (c : CtxId) (h : QHandle) (x : Ctx) (d : QDesc), s.sys.ready.getLsbD 38 = true → s.arg.flag = false →
    s.queues.wanted = [(c, h)] → s.queue? c h = none → s.queues.resident.length < 512 → s.ctx? c = some x → s.qdesc x h = some d →
    ∃ t q, exec .queueSwapIn s = .next t ∧ t.queues.wanted = [] ∧ t.queues.resident = s.queues.resident ++ [q] ∧ q.ctx = c ∧ q.handle = h ∧
      q.phase = .reading ∧ q.recs = [] ∧ ∃ e ∈ t.agenda, e.task = .ev .queueSwapInDone ∧ e.arg.ctx = c ∧ e.arg.handle = h) ∧
  (∀ (s : State) (c : Ctx) (q : Queue) (d : QDesc), s.queue? s.arg.ctx s.arg.handle = some q → s.ctx? s.arg.ctx = some c →
    s.qdesc c s.arg.handle = some d → ∃ t, exec .queueSwapInDone s = .next t ∧
      QueueAfter t s.arg.ctx s.arg.handle (fun z => z.tail = d.tail ∧ (d.head = d.tail → z.head = d.head ∧ z.recs = q.recs)) ∧
      (∀ r, s.req? r.id = some r → r.onQueue s.arg.ctx s.arg.handle = true → r.withdrawn = false → ∃ x, t.req? r.id = some x ∧ x.held = none) ∧
      ∀ x ∈ t.queues.hostWait, x.1 ≠ s.arg.ctx ∨ x.2.1 ≠ s.arg.handle) ∧
  ∀ (u : State) (y : Gang) (e : Entry) (cl : Clause) (cr : Crew) (i : Instr) (pc : Pc) (x : SReg × List RegRef × List RegRef × TReg × QueueOp × Bool)
    (v : VReg → Nat → Word) (r : Req) (op : QueueOp) (h : QHandle) (c : Ctx), AtPass u y e cl cr i pc → queueWord v i = some x →
    u.ctx? y.ctx = some c → u.req? y.opnd.toNat = some r → r.reply ≤ u.now → r.effect = .queue op h →
    ∃ t, exec .probePass u = .next t ∧
      (∀ info, r.refused = some (0x0D, info) → y.inHandler = false → u.handlerOf y ≠ 0 → (∀ b ∈ t.reqs, b.id ≠ r.id) ∧
        ∃ z, t.gang? y.key = some z ∧ z.trap = some ⟨pc, cl.hdr, 0x0D, info, true⟩ ∧ z.wait = false ∧ SameRegs y z) ∧
      (r.refused = none →
        (∀ d n, op = .len d → n < 2 ^ 64 → r.got = [(0, natLe 8 n)] → (∀ b ∈ t.reqs, b.id ≠ r.id) ∧
          ∃ z, t.gang? y.key = some z ∧ z.wait = false ∧ z.probing = none ∧ z.s[d] = BitVec.ofNat 64 n ∧ (∀ k, k ≠ d → z.s[k] = y.s[k]) ∧
            z.v = y.v ∧ z.p = y.p ∧ z.t = y.t) ∧
        (op = .pin ∨ op = .unpin → (∀ b ∈ t.reqs, b.id ≠ r.id) ∧ GoesOn t y) ∧
        ((∃ w, op = .push w) ∨ ((∃ d, op = .pop d ∨ op = .peek d) ∧ r.site = false) →
          (∃ z, t.gang? y.key = some z ∧ z.wait = false ∧ z.probing = none ∧ SameRegs y z ∧ ∀ k, k ≠ r.treg → z.t[k] = y.t[k]) ∧
          (r.perfDone = false → ∃ b, t.req? r.id = some b ∧ b.tracked = true ∧ b.replied = true)) ∧
        (∀ d, op = .pop d → r.site = true → ∃ z, t.gang? y.key = some z ∧ z.hd.kind = 1 ∧ z.hd.wake = 6 ∧ z.hd.object = h ∧
          z.sel = none ∧ z.clause = none ∧ z.s = y.s ∧ z.v = y.v ∧ z.p = y.p))

end
/-! ## Contexts and migration (R347 to R363, R409, R410, R416) -/

namespace Sys2Proof.Obl

open Machine

/-- A command of CTX_CMD has completed with a status (R356): GO reads 0, STATUS as given, the other fields as written; nothing else of
the system registers changed. -/
def Answered (s t : State) (n : BitVec 7) : Prop :=
  { t.sys with ctxCmd := s.sys.ctxCmd } = s.sys ∧ t.sys.ctxCmd = (0 : BitVec 1) ++ n ++ s.sys.ctxCmd.extractLsb' 0 56

/-- An event is on the agenda at a tick. -/
def Comes (t : State) (i : Instr) (tick : Nat) (p : EvArg → Prop) : Prop := ∃ d ∈ t.agenda, d.task = .ev i ∧ d.tick = tick ∧ p d.arg

/-- Every gang keeps its registers, its place and its frontier. -/
def GangsKept (s t : State) : Prop :=
  ∀ j g, s.gang? j = some g → ∃ y, t.gang? j = some y ∧ SameRegs g y ∧ y.place = g.place ∧ y.front = g.front

/-- What an exchange of banks finds: once the gangs have stopped the lapidary starts nothing more, and each channel goes on with the
row in progress only (R229, R248). -/
def halting (s : State) (k : CoreId) : State := (if s.gangsStopped k then s.haltLapidary k .engine else s).haltCopies k

/-- The first address of the save area of a context on core `k` (R358). -/
def saveArea (s : State) (c : CtxId) (k : CoreId) : Nat := (match s.ctx? c with | some x => x.saveBase | none => 0) + k.val * 2 ^ 22

/-- The context record that a switch in reads (R349). -/
def incoming (s : State) : Vector DWord 16 := readCtx s.mem (match s.ctx? s.arg.ctx with | some c => c.addr | none => s.arg.n)

/-- A context record that a switch in takes: its id, STATE 1 to 3, its context not being killed (R349, R356). -/
def wanted (s : State) : Prop :=
  let r := incoming s
  (1 ≤ bits r[0] 63 60 ∧ bits r[0] 63 60 ≤ 3) ∧ bits r[0] 59 48 = s.arg.ctx.toNat ∧ ∀ c, s.ctx? s.arg.ctx = some c → c.killing = false

end Sys2Proof.Obl

section
open Sys2Proof Sys2Proof.Machine Sys2Proof.Obl

/-- A switch of contexts (R357 to R360): the incoming record is checked and preloaded; the quarters stop; the banks exchange once the
core is quiet, and the outgoing context is saved, its gangs as pre-empted records; the spill puts them into the save area;
partitions in the way go to their image; the lapidary reloads; a hung context is switched out, a spill without progress loses its
context.
The model's own choices in it: log entries 61 to 64, 67, 68, 73, 121, 123, 127, 142. -/
def Obligations.ContextSwitches : Prop :=
  (∀ s : State, let k := s.arg.core
    (¬ wanted s → s.arg.flag = false → exec .ctxSwitchIn s = .next (s.answer 2)) ∧
    (wanted s → s.ctxValid (incoming s) = true → (s.core k).active ≠ some s.arg.ctx → (s.core k).swap = none → (s.core k).spill = none →
      ∃ t, exec .ctxSwitchIn s = .next t ∧ t.mem = s.mem ∧ t.gangs = s.gangs ∧ t.sys = s.sys ∧
        t.core k = { s.core k with swap := some ⟨some s.arg.ctx, !s.arg.flag⟩, shadow := some s.arg.ctx } ∧
        (∃ c, t.ctx? s.arg.ctx = some c ∧ c.record = (Ctx.refresh { c with record := incoming s } s.mem).record) ∧
        ∃ n, s.now ≤ n ∧ Comes t .preloadDone n fun a => a.core = k) ∧
    (wanted s → s.ctxValid (incoming s) = true → s.arg.flag = false →
      ((s.core k).active = some s.arg.ctx → ∃ t, exec .ctxSwitchIn s = .next t ∧ Answered s t 0) ∧
      ((s.core k).active ≠ some s.arg.ctx → (s.core k).swap ≠ none ∨ (s.core k).spill ≠ none →
        ∃ t, exec .ctxSwitchIn s = .next t ∧ Answered s t 2)) ∧
    (wanted s → s.ctxValid (incoming s) = false → s.arg.flag = false → ∃ t, exec .ctxSwitchIn s = .next t ∧ Answered s t 2 ∧ t.cores = s.cores)) ∧
  (∀ s : State, let k := s.arg.core
    s.arg.flag = false →
    ((s.core k).active ≠ none → (s.core k).swap = none → (s.core k).spill = none → ∃ t, exec .ctxSwitchOut s = .next t ∧
      t.core k = { s.core k with swap := some ⟨none, true⟩ } ∧ t.sys = s.sys ∧ Comes t .preloadDone s.now fun a => a.core = k) ∧
    ((s.core k).active = none ∨ (s.core k).swap ≠ none ∨ (s.core k).spill ≠ none → exec .ctxSwitchOut s = .next (s.answer 2))) ∧
  (∀ s : State, let k := s.arg.core
    (s.core k).swap ≠ none → (s.core k).stopped = false → ∃ t, exec .preloadDone s = .next t ∧ (t.core k).stopped = true ∧
      t.gangs = s.gangs ∧ t.mem = s.mem ∧ Comes t .contextBankExchange (s.edgeTick k (s.clock k + 64)) fun a => a.core = k) ∧
  (∀ (s : State) (w : Switch), let k := s.arg.core
    (s.core k).swap = some w →
    ((halting s k).quiet k = false → ∃ t, exec .contextBankExchange s = .next t ∧ GangsKept s t ∧
      (t.core k).swap = some w ∧ (t.core k).active = (s.core k).active ∧
      Comes t .contextBankExchange (s.edgeTick k (s.clock k + 1)) fun a => a = { s.arg with clk := some (k, s.clock k + 1) }) ∧
    ((halting s k).quiet k = true → ∀ x, (s.core k).active = some x → w.incoming = none →
      ∃ t, exec .contextBankExchange s = .next t ∧ (t.core k).active = none ∧ (t.core k).swap = none ∧ (t.core k).stopped = false ∧
        (∃ n, (t.core k).spill = some ⟨x, n, w.cmd⟩ ∧ s.now ≤ n ∧ Comes t .spillDone n fun a => a.core = k) ∧
        (∃ cc, (x, k, cc) ∈ t.saved) ∧ (∀ c ∈ t.crews, c.core = k → c.ctx = x → c.resident = false) ∧
        (∀ j g, s.gang? j = some g → (∀ z ∈ s.gangs, z.key = j → z = g) → g.core = k → g.ctx = x → g.resident = true → ∃ y, t.gang? j = some y ∧ y.place = .saved 0 ∧
          y.hd.kind = 3 ∧ y.hd.wake = 8 ∧ y.front = g.front ∧ y.v = g.v ∧ y.p = g.p ∧ y.trap = g.trap) ∧
        ((∀ j, j ≠ k → (s.core j).active ≠ some x) → ∀ c, s.ctx? x = some c → ∃ d, t.ctx? x = some d ∧ d.state = 3)) ∧
    ((halting s k).quiet k = true → ∀ y, w.incoming = some y → ∃ t, exec .contextBankExchange s = .next t ∧ (t.core k).active = some y ∧
        (t.core k).swap = none ∧ (t.core k).stopped = false ∧ (t.core k).shadow = none ∧ (t.core k).icache = [] ∧
        (w.cmd = true → t.sys.ctxCmd = (0 : BitVec 8) ++ s.sys.ctxCmd.extractLsb' 0 56) ∧
        ∀ c, s.ctx? y = some c → ∃ d, t.ctx? y = some d ∧ d.state = 2)) ∧
  (∀ (s : State) (p : Spill), let k := s.arg.core
    (s.core k).spill = some p → p.last ≤ s.now → (∀ c, s.ctx? p.ctx = some c → c.killing = false) →
    ((∃ g ∈ s.gangs, g.core = k ∧ g.ctx = p.ctx ∧ g.place = .saved 0 ∧ s.awaited g.key = true) →
      exec .spillDone s = .next (s.schedule (s.now + 1) .spillDone s.arg)) ∧
    ((∀ g ∈ s.gangs, g.core = k → g.ctx = p.ctx → g.place = .saved 0 → s.awaited g.key = false) →
      ∃ t, exec .spillDone s = .next t ∧ (t.core k).spill = none ∧ (p.cmd = true → Answered s t 0) ∧
        (∀ j g, s.gang? j = some g → g.core = k → g.ctx = p.ctx → g.place = .saved 0 → (∀ x ∈ s.gangs, x.key = j → x = g) →
          ∃ y a, t.gang? j = some y ∧ y = { g with place := .saved a } ∧ saveArea s p.ctx k + 0x240000 ≤ a) ∧
        (Memory.wf s.mem = true → ∃ b, memDWord t.mem (saveArea s p.ctx k) =
          BitVec.ofNat 64 ((s.gangs.filter fun g => g.core = k && g.ctx = p.ctx && g.place = .saved 0).length * 2 ^ 32 + 64 * b)))) ∧
  (∀ (s : State) (c : Crew), let k := s.arg.core
    MemoryOk s → s.freeRun k s.arg.n = none → s.crews.filter (fun c => c.core = k && c.held) = [c] → 0 < c.partLen →
    ∃ t, exec .scratchpadSpill s = .next t ∧ t.crew? c.key = some { c with held := false } ∧
      (c.partBase, runBytes c.partLen) ∈ (t.core k).zeroing ∧
      let a := saveArea s c.ctx k
      (∀ i, i < runBytes c.partLen → memGet t.mem (a + 0x100000 + c.partBase + i) = memGet (s.core k).spad (c.partBase + i)) ∧
      (memDWord t.mem (a + 8)).getLsbD 0 = true) ∧
  (∀ (s : State) (o : LapOp), let k := s.arg.core
    (s.lap k).ops = [o] → o.finish = 0 → ∃ t p, exec .lapidaryRestore s = .next t ∧ (t.lap k).loading = false ∧ (t.lap k).ops = [p] ∧ p.id = o.id ∧ p.kind = o.kind ∧
      p.gang = o.gang ∧ p.begin = s.clock k + 1 ∧ p.started = false ∧ (o.kind = .mzero → p.finish = s.clock k + 33) ∧
      (∃ n, Comes t .lapidaryOpStart n fun a => a.core = k ∧ a.n = o.id ∧ a.m = p.begin) ∧
      ∀ r, s.req? o.req = some r → ∃ z, t.req? o.req = some z ∧ z.core = k ∧ z.prom = s.tickAt k p.finish) ∧
  (∀ (s : State) (c : Ctx), let k := s.arg.core
    (s.core k).active = some s.arg.ctx → s.ctx? s.arg.ctx = some c → c.hangLimit ≠ 0 →
    (s.now < (s.core k).hangMark + c.hangLimit → ∃ t n, exec .hangWatchdogExpiry s = .next t ∧ t.mem = s.mem ∧
      Comes t .hangWatchdogExpiry n fun a => a = s.arg) ∧
    ((s.core k).hangMark + c.hangLimit ≤ s.now → (∃ g ∈ s.gangs, g.core = k ∧ g.ctx = c.id ∧ ∀ a, g.place ≠ .saved a) →
      ∃ t, exec .hangWatchdogExpiry s = .next t ∧ GangsKept s t ∧ EventAppended s t s.arg.ctx 6 0 k.val 0 0 0 0 ∧
        Comes t .ctxSwitchOut s.now fun a => a.core = k ∧ a.ctx = s.arg.ctx ∧ a.flag = true)) ∧
  ∀ (s : State) (p : Spill) (c : Ctx), let k := s.arg.core
    (s.core k).spill = some p → s.ctx? p.ctx = some c →
    (s.now < p.last + c.spillLimit → exec .spillWatchdogExpiry s = .next (s.schedule (p.last + c.spillLimit) .spillWatchdogExpiry s.arg)) ∧
    (p.last + c.spillLimit ≤ s.now → ∃ t, exec .spillWatchdogExpiry s = .next t ∧ (t.core k).spill = none ∧ (t.core k).active = none ∧
      (t.core k).spad = [] ∧ (t.core k).l1 = [] ∧ (t.core k).cc = CoreCtx.reset ∧
      (∀ g ∈ t.gangs, g.core = k → g.ctx ≠ p.ctx ∧ (s.core k).active ≠ some g.ctx) ∧
      ∃ d, t.ctx? p.ctx = some d ∧ (d.killing = true ∨ d.state = 4))

/-- The steward's commands on contexts, crews, gangs, budgets and records (R356): each has its effect and its answer, or answers 1 for
an operand that names nothing, 2 where it is refused.
The model's own choices in it: log entries 60, 63, 70. -/
def Obligations.ContextCommands : Prop :=
  (∀ s : State, let x := s.arg.ctx
    (s.ctx? x = none → exec .ctxKill s = .next (s.answer 1)) ∧
    ∀ c, s.ctx? x = some c →
      (c.state = 0 ∨ c.state = 4 ∨ c.killing = true → exec .ctxKill s = .next (s.answer 2)) ∧
      (c.state ≠ 0 → c.state ≠ 4 → c.killing = false → ∃ t, exec .ctxKill s = .next t ∧
        (s.ctxAnywhere x = false → (∀ g ∈ t.gangs, g.ctx ≠ x) ∧ (∀ g ∈ t.crews, g.ctx ≠ x) ∧ (∀ l ∈ t.slices, l.ctx ≠ x) ∧
          (∀ r ∈ t.reqs, r.ctx = x → r.tracked = false) ∧ ∃ d, t.ctx? x = some d ∧ d.state = 4 ∧ d.killing = false) ∧
        (s.ctxAnywhere x = true → t.gangs = s.gangs ∧ (∃ d, t.ctx? x = some d ∧ d.killing = true) ∧
          ∀ k, (s.core k).active = some x → Comes t .ctxSwitchOut s.now fun a => a.core = k ∧ a.ctx = x ∧ a.flag = true))) ∧
  (∀ s : State, let k := crewKeyOf s.arg.key
    (s.crew? k = none → exec .ctxKillCrew s = .next (s.answer 1)) ∧
    ∀ c, s.crew? k = some c →
      (c.ctx ≠ s.arg.ctx → exec .ctxKillCrew s = .next (s.answer 1)) ∧
      (c.ctx = s.arg.ctx → ∃ t, exec .ctxKillCrew s = .next t ∧ Answered s t 0 ∧ t.crew? k = some { c with killed := true, regs := [] } ∧
        (∀ g ∈ t.gangs, g.crewKey = k → g.parked = false ∨ ∃ q n r, g.place = .leaving q n r) ∧
        ∀ j g, j.crew ≠ k.crew ∨ j.launch ≠ k.launch → s.gang? j = some g → ∃ y, t.gang? j = some y ∧ SameRegs g y ∧ y.front = g.front)) ∧
  (∀ (s : State) (g : Gang), s.gang? s.arg.key = some g → (∀ a, g.place ≠ .saved a) →
    (g.ctx ≠ s.arg.ctx → exec .ctxResumeGang s = .next (s.answer 1)) ∧
    (g.ctx = s.arg.ctx → g.hd.kind ≠ 4 ∨ g.hd.bad = true ∨ g.parked = false → exec .ctxResumeGang s = .next (s.answer 2)) ∧
    (g.ctx = s.arg.ctx → g.hd.kind = 4 → g.hd.bad = false → g.parked = true → ∃ t, exec .ctxResumeGang s = .next t ∧ Answered s t 0 ∧
      ∃ y, t.gang? g.key = some y ∧ y.trap = none ∧ y.hd.kind = 1 ∧ y.hd.wake = 8 ∧ y.hd.key = some (recordable (tickOf s.now)) ∧
        y.s = g.s ∧ y.v = g.v ∧ y.p = g.p ∧ y.t = g.t ∧ y.front = g.front)) ∧
  (∀ (s : State) (l : Slice), s.slice? s.arg.launch = some l → l.limited = true →
    let b : DWord := BitVec.ofNat 64 (min (l.budget.toNat + s.arg.v.toNat) (2 ^ 64 - 1))
    ∃ t, exec .ctxRaiseBudget s = .next t ∧ Answered s t 0 ∧ t.slice? l.id = some { l with budget := b, spent := decide (b.toNat ≤ l.count) } ∧
      (l.spent = true → l.count < b.toNat → ∀ g ∈ t.gangs, g.key.launch = l.id → g.budgeted = false) ∧
      (l.spent = false ∨ b.toNat ≤ l.count → t.gangs = s.gangs)) ∧
  (∀ (s : State) (c : Ctx), s.ctx? s.arg.ctx = some c →
    (s.arg.flag = false → ∃ t u, exec .ctxRevokeRecord s = .next t ∧ t.ctxs = s.ctxs ∧
      Comes t .ctxRevokeRecord s.now (fun a => a = { s.arg with flag := true }) ∧
      exec .ctxReinstateRecord s = .next u ∧ u.ctxs = s.ctxs ∧ Comes u .ctxReinstateRecord s.now fun a => a = { s.arg with flag := true }) ∧
    (s.arg.flag = true → ∃ t u, exec .ctxRevokeRecord s = .next t ∧ (∃ d, t.ctx? s.arg.ctx = some d ∧ s.arg.n ∈ d.revoked ∧
        ∀ h, h ≠ s.arg.n → (h ∈ d.revoked ↔ h ∈ c.revoked)) ∧ Comes t .revokeDone (s.now + 1) (fun a => a = s.arg) ∧
      exec .ctxReinstateRecord s = .next u ∧ Answered s u 0 ∧ (∃ d, u.ctx? s.arg.ctx = some d ∧ s.arg.n ∉ d.revoked ∧
        ∀ h, h ≠ s.arg.n → (h ∈ d.revoked ↔ h ∈ c.revoked)) ∧
      ∀ k, (∀ e ∈ (u.core k).tlb, e.ctx ≠ s.arg.ctx) ∧ ∀ e ∈ (u.core k).recs, e.ctx ≠ s.arg.ctx)) ∧
  (∀ s : State, (s.onHandle s.arg.ctx s.arg.n = true → exec .revokeDone s = .next (s.schedule (s.now + 1) .revokeDone s.arg)) ∧
    (s.onHandle s.arg.ctx s.arg.n = false → ∃ t, exec .revokeDone s = .next t ∧ Answered s t 0)) ∧
  ∀ s : State, (s.crew? (crewKeyOf s.arg.key) = none → exec .ctxMigrateCrew s = .next (s.answer 1)) ∧
    ∀ c, s.crew? (crewKeyOf s.arg.key) = some c →
      (c.ctx ≠ s.arg.ctx ∨ s.arg.core = c.core → exec .ctxMigrateCrew s = .next (s.answer 1)) ∧
      (c.ctx = s.arg.ctx → s.arg.core ≠ c.core →
        (c.mig ≠ none ∨ c.resident = false ∨ c.killed = true → exec .ctxMigrateCrew s = .next (s.answer 2)) ∧
        (c.mig = none → c.resident = true → c.killed = false → ∃ t, exec .ctxMigrateCrew s = .next t ∧ Answered s t 0 ∧
          t.own.migSeq = s.own.migSeq + 1 ∧ (∃ d m, t.crew? c.key = some d ∧ d.mig = some m ∧ m.target = s.arg.core ∧ m.seq = s.own.migSeq ∧
            m.since = s.now ∧ m.stage ≠ .moving ∧ d.core = c.core) ∧
          Comes t .migrationRefused (s.now + 2 ^ 20) fun a => a.ticket = s.own.migSeq ∧ crewKeyOf a.key = c.key))

/-- Migration (R361, R362, R409, R410): a core that grows too hot asks for its crews to move; a request is refused after 2^20 ticks; the
stopped crew moves once nothing holds it, and stands on its target at the remap, the logical map exchanged.
The model's own choices in it: log entries 71, 72, 74, 117. -/
def Obligations.MigrationSteps : Prop :=
  (∀ s : State, let k := s.arg.core
    s.arg.pairs = [] → s.arg.n < 256 →
    let u := s.setCore k { s.core k with temp := BitVec.ofNat 8 s.arg.n, armed := false }
    ((s.core k).armed = true → (s.core k).limit.toNat ≤ s.arg.n → ∃ t, exec .thermalThresholdCrossing s = .next t ∧ t.core k = u.core k ∧
      t.gangs = s.gangs ∧ t.mem = s.mem ∧
      ∀ x c b d, (s.core k).active = some x → s.ctx? x = some c → c.noMig = false → u.crewsOn k = [b] → b.mig = none → b.killed = false →
        u.crew? b.key = some b → u.thermalTarget b = some d → ∃ z m, t.crew? b.key = some z ∧ z.mig = some m ∧ m.target = d ∧
          m.seq = s.own.migSeq ∧ Comes t .migrationRefused (s.now + 2 ^ 20) fun a => a.ticket = s.own.migSeq) ∧
    ((s.core k).armed = false ∨ s.arg.n < (s.core k).limit.toNat → exec .thermalThresholdCrossing s =
      .next (s.setCore k { s.core k with temp := BitVec.ofNat 8 s.arg.n })) ∧
    ∃ t, exec .sensorReadsBelowTherm s = .next t ∧ t.core k = { s.core k with
        temp := BitVec.ofNat 8 s.arg.n, armed := (s.core k).armed || decide (s.arg.n < (s.core k).limit.toNat) } ∧ t.crews = s.crews) ∧
  (∀ (s : State) (c : Crew) (m : Migration), s.crew? (crewKeyOf s.arg.key) = some c → c.mig = some m →
    (m.stage = .asked → m.seq = s.arg.ticket → ∃ t, exec .migrationRefused s = .next t ∧ t.crew? c.key = some { c with mig := none } ∧
      EventAppended s t c.ctx 8 0 c.core.val 0 m.seq.toNat c.key.crew.toNat m.target.val) ∧
    (m.stage = .stopping → c.resident = true →
      let u := if (s.lap c.core).last = some c.key && s.crewStopped c then s.haltLapidary c.core .migration else s
      (u.mayMove c m.target = false → exec .migrationMoveBegin s = .next (u.inClocks c.core 1 .migrationMoveBegin s.arg)) ∧
      (u.mayMove c m.target = true → ∃ t n, exec .migrationMoveBegin s = .next t ∧ s.now ≤ n ∧
        t.crew? c.key = some { c with mig := some { m with stage := .moving } } ∧
        (∀ g ∈ t.gangs, g.crewKey = c.key → g.place = .moving) ∧
        Comes t .migrationRemap n fun a => a.core = m.target ∧ a.m = runBytes c.partLen ∧ a.key = s.arg.key)) ∧
    (m.stage = .moving → m.target = s.arg.core → c.core ≠ s.arg.core → MemoryOk s → s.arg.m = runBytes c.partLen →
      (∀ i, i < s.arg.m → memGet (s.core s.arg.core).spad (s.arg.n + i) = 0) → ∃ t, exec .migrationRemap s = .next t ∧
        (∃ d, t.crew? c.key = some d ∧ d = { c with core := s.arg.core, partBase := s.arg.n, mig := none }) ∧
        (∀ g ∈ t.gangs, g.crewKey = c.key → g.core = s.arg.core) ∧
        (∀ i, i < s.arg.m → memGet (t.core s.arg.core).spad (s.arg.n + i) = memGet (s.core c.core).spad (c.partBase + i)) ∧
        (∀ x, s.ctx? c.ctx = some x → ∃ y, t.ctx? c.ctx = some y ∧ ∀ j : Fin 256, y.map[j] =
          if x.map[j] = c.core then s.arg.core else if x.map[j] = s.arg.core then c.core else x.map[j])))

end
/-! ## Power, clocks, start-up, ports, registers (R11, R22, R46, R47, R58, R124, R364 to R404) -/

namespace Sys2Proof.Obl

open Machine

/-- The place of entry `n` of 32 bytes in the ring that a ring register names (R394). -/
def ringPlaceOf (s : State) (reg : DWord) (n : Nat) : Option Nat :=
  let k := (reg.extractLsb' 52 5).toNat
  let base := (reg.extractLsb' 0 52).toNat
  if 4 ≤ k ∧ k ≤ 16 ∧ s.inHbm base = true then some (base + 32 * (n % 2 ^ k)) else none

/-- Four doublewords have been written as entry `n` of that ring, and nothing else in memory changed; without a ring nothing did. -/
def EntryWritten (s t : State) (reg : DWord) (n : Nat) (d0 d1 d2 d3 : DWord) : Prop :=
  match ringPlaceOf s reg n with
  | none => t.mem = s.mem
  | some a => Memory.wf s.mem = true → memDWord t.mem a = d0 ∧ memDWord t.mem (a + 8) = d1 ∧ memDWord t.mem (a + 16) = d2 ∧
    memDWord t.mem (a + 24) = d3 ∧ ∀ x, x < a ∨ a + 32 ≤ x → memGet t.mem x = memGet s.mem x

/-- An event of a trade has been appended to the token log (R369). -/
def TokenLogged (s t : State) (event : Nat) (x : Trade) : Prop :=
  t.power.tokWr = s.power.tokWr + 1 ∧
  EntryWritten s t s.power.tokLog s.power.tokWr.toNat (BitVec.ofNat 8 event ++ BitVec.ofNat 8 x.peer.val ++ x.watts ++ x.sq)
    (x.first ++ x.periods) (BitVec.ofNat 64 s.now) ((0 : BitVec 16) ++ s.power.eff ++ (0 : BitVec 32))

/-- A correction of device time has been appended to its log (R375). -/
def TimeLogged (s t : State) (kind before after : Nat) (rate : DWord) : Prop :=
  t.time.timeWr = s.time.timeWr + 1 ∧
  EntryWritten s t s.time.timeLog s.time.timeWr.toNat (BitVec.ofNat 8 kind ++ (0 : BitVec 24) ++ BitVec.ofNat 32 s.time.timeWr.toNat)
    (BitVec.ofNat 64 before) (BitVec.ofNat 64 after) rate

/-- Nothing but power changed, and memory; where a monitor watches what is written, its waiter may have become eligible (R212). -/
def PowerOnly (s t : State) : Prop := ∃ w m,
  t = { s with power := w, mem := m, cores := t.cores, gangs := t.gangs, agenda := t.agenda } ∧ GangsKept s t ∧
    ((∀ k, (s.cc k).mons = []) → t = { s with power := w, mem := m })

/-- The trades are as before but for one. -/
def TradesBut (s t : State) (x : Trade) : Prop := ∀ y, y ≠ x → y.firm = false → (y ∈ t.power.trades ↔ y ∈ s.power.trades)

/-- The sum of a table. -/
def total (v : Vector Nat 22) : Nat := v.toList.foldl (· + ·) 0

/-- The device after a reset (R398, R399, R419): everything wiped, device time 0; the configuration flash and the lifecycle state `lc`
survive. Where the boot image does not verify, READY.FAIL is set and code 1 is in mailbox 0. -/
structure Rebooted (s t : State) (lc : BitVec 2) (fail : Bool) : Prop where
  rest  : t = { State.reset with sys := t.sys, own := t.own }
  sys   : t.sys = { State.reset.sys with bootCfg := s.sys.bootNext, bootNext := s.sys.bootNext, lc := lc, meas := t.sys.meas
                                         ext := t.sys.ext, fabId := t.sys.fabId, ready := t.sys.ready, boxes := t.sys.boxes
                                         msix := t.sys.msix }
  ok    : fail = false → t.sys.ready = 0 ∧ t.sys.ext = 0xFF ∧ t.sys.boxes = State.reset.sys.boxes ∧ t.sys.msix = 0 ∧
    t.sys.fabId = s.sys.bootNext.extractLsb' 16 8
  fails : fail = true → t.sys.ready = 0x8000000000000000 ∧ t.sys.ext = 1 ∧ (t.sys.boxes[(0 : Fin 8)]).bell = 0x80000004 ∧
    memBytes (t.sys.boxes[(0 : Fin 8)]).msg 4 4 = [1, 0, 0, 0] ∧ t.sys.msix = 1

/-- What a port's log and its data are as before, and nothing but the booking of lines happened. -/
def ReadLeft (s t : State) (i : Instr) (a len : Nat) : Prop :=
  t.gangs = s.gangs ∧ t.reqs = s.reqs ∧
    ∃ d ∈ t.agenda, d.task = .ev i ∧ d.arg.req = 1 ∧ d.arg.n = a ∧ d.arg.m = len ∧ d.arg.pairs = [(0, 0)]
/-- A write is on its way to its home slice. -/
def WriteLeft (s t : State) (a : Nat) (bs : List Byte) : Prop :=
  t.gangs = s.gangs ∧ t.reqs = s.reqs ∧ ∃ d ∈ t.agenda, d.task = .hubWrite ∧ d.arg.n = a ∧ d.arg.bytes = bs

/-- An entry of the export table admits the peer request of the event (R397). -/
def admitted (s : State) (len : Nat) : Prop :=
  let a := s.arg
  s.inHbm a.v.toNat = true ∧ s.inHbm (a.v.toNat + len - 1) = true ∧ ∃ e ∈ s.sys.exports, e.src.val = a.n ∧ e.ctx = a.ctx ∧
    e.base ≤ a.v.toNat ∧ a.v.toNat + len ≤ e.base + e.len ∧ (a.write = true → e.w = true) ∧ (a.flag = true → e.a = true) ∧
    (a.write = false → a.flag = false → e.r = true)

/-- The entry that a fetch at a boundary is for: the one that stands at the address, else the one that the boundary selects (R22, R29). -/
def fetchedFor (s : State) (g : Gang) (a : Pc) : Option Entry :=
  match g.front.find? fun x => x.pc = a with
  | some x => some x
  | none => (s.rotated g).select

/-- The row of a command of CTX_CMD (R356). -/
def commandRow (cmd : Nat) (again : Bool) : Option Instr :=
  match cmd with
  | 1 => some .ctxSwitchIn | 2 => some .ctxSwitchOut | 3 => some .ctxKill | 4 => some .ctxKillCrew | 5 => some .ctxResumeGang
  | 6 => some .ctxMigrateCrew | 7 => some .ctxRaiseBudget | 8 => some (if again then .ctxReinstateRecord else .ctxRevokeRecord)
  | _ => none

/-- A read of a register has answered and nothing but it and the core's context changed. -/
def ReadAnswered (s t : State) (k : CoreId) (v : DWord) (cc : CoreCtx) : Prop :=
  t = (s.setCc k cc).setSys { s.sys with readBack := v }

end Sys2Proof.Obl

section
open Sys2Proof Sys2Proof.Machine Sys2Proof.Obl

/-- The power arbiter: at a period boundary the new licence and the trades in force give EFF (R364, R367); a write of LIC or an offer
that would take EFF out of 1,500 to 4,000 W in a coming period is ignored or refused (R367, R368), the reserved bits of the write of an
offer being dropped (R4); ACK, COMMIT and REFUSE settle an
offer, in time or not (R368), and each is logged (R369); the grants of a round are at least the idle floors, and at most the tokens
left over the rounds left (R365); throttling takes its steps in order (R366).
The model's own choices in it: log entries 36, 77, 78, 79, 137. -/
def Obligations.PowerSteps : Prop :=
  (∀ s : State, let p := s.now / 2000000
    ∃ t, exec .tokenPeriodBoundary s = .next t ∧ t.power.lic = s.power.licNext ∧ GangsKept s t ∧ t.reqs = s.reqs ∧
      (∀ x, x ∈ t.power.trades ↔ x ∈ s.power.trades ∧ if x.firm then p < x.first.toNat + x.periods.toNat else p < x.first.toNat) ∧
      t.power.net = BitVec.ofInt 16 (t.power.netAt p) ∧ t.power.eff = BitVec.ofInt 16 (s.power.licNext.toNat + t.power.netAt p) ∧
      t.power.left = t.power.eff.toNat ∧ (s.power.trades = [] → s.power.lic = s.power.licNext → t.mem = s.mem) ∧
      Comes t .tokenPeriodBoundary ((p + 1) * 2000000) fun _ => True) ∧
  (∀ s : State, let n := (s.arg.v.extractLsb' 0 16).toNat
    let fits := 1500 ≤ n ∧ n ≤ 4000 ∧ ∀ p, s.now / 2000000 < p → p < 2 ^ 48 → 1500 ≤ s.power.least n p ∧ s.power.most n p ≤ 4000
    s.now / 2000000 + 1 < 2 ^ 48 →
    (¬ fits → exec .pwrStatLicWrite s = .next s) ∧
    (fits → s.now % 2000000 ≠ 0 ∨ s.arg.flag = true →
      exec .pwrStatLicWrite s = .next (s.setPower { s.power with licNext := s.arg.v.extractLsb' 0 16 })) ∧
    (fits → s.now % 2000000 = 0 → s.arg.flag = false → ∃ t, exec .pwrStatLicWrite s = .next t ∧ t.power = s.power ∧
      Comes t .pwrStatLicWrite s.now fun a => a = { s.arg with flag := true })) ∧
  (∀ s : State, let v : DWord := s.arg.v.extractLsb' 32 32 ++ (0 : BitVec 8) ++ s.arg.v.extractLsb' 0 24
    let x : Trade := ⟨⟨(v.extractLsb' 16 8).toNat, (v.extractLsb' 16 8).isLt⟩, true, s.power.sq, v.extractLsb' 48 16,
      BitVec.ofNat 48 (s.now / 2000000 + (v.extractLsb' 0 16).toNat), v.extractLsb' 32 16, false, false⟩
    let f := s.now / 2000000 + (v.extractLsb' 0 16).toNat
    let good := 1 ≤ x.watts.toNat ∧ x.watts.toNat ≤ 2500 ∧ 1 ≤ x.periods.toNat ∧ 2 ≤ (v.extractLsb' 0 16).toNat ∧
      ∀ p, f ≤ p → p < f + x.periods.toNat → 1500 + (x.watts.toNat : Int) ≤ s.power.least s.power.licNext.toNat p
    ∃ t, exec .tokOffer s = .next t ∧ PowerOnly s t ∧ t.power.offer = v ∧ t.power.sq = s.power.sq + 1 ∧
      (good → t.power.trades = s.power.trades ++ [x] ∧ TokenLogged s t 1 x) ∧
      (¬ good → t.power.trades = s.power.trades ∧ TokenLogged s t 3 x)) ∧
  (∀ (s : State) (watts periods : Nat), s.arg.pairs = [(watts, periods)] → watts < 2 ^ 16 → periods < 2 ^ 16 → 1 ≤ periods → s.arg.n < 256 →
    let f := s.arg.v.toNat
    let good := ∀ p, f ≤ p → p < f + periods → s.power.most s.power.licNext.toNat p + watts ≤ 4000
    ∃ t x, exec .tokenOfferReceived s = .next t ∧ PowerOnly s t ∧ x.peer.val = s.arg.n ∧ x.giver = false ∧ x.sq = s.arg.ticket ∧
      x.watts.toNat = watts ∧ x.periods.toNat = periods ∧ x.firm = false ∧ x.first = s.arg.v.extractLsb' 0 48 ∧
      (good → t.power.trades = s.power.trades ++ [x] ∧ TokenLogged s t 2 x) ∧
      (¬ good → t.power.trades = s.power.trades ∧ TokenLogged s t 3 x)) ∧
  (∀ (s : State) (x : Trade), s.tradeOf true = some x →
    (s.now < (x.first.toNat - 1) * 2000000 → ∃ t, exec .tokenAckReceived s = .next t ∧ PowerOnly s t ∧
      { x with acked := true, firm := true } ∈ t.power.trades ∧ x ∉ t.power.trades ∧ TradesBut s t x ∧ t.power.tokWr = s.power.tokWr + 2) ∧
    ((x.first.toNat - 1) * 2000000 ≤ s.now → ∃ t, exec .tokenAckReceived s = .next t ∧ PowerOnly s t ∧ x ∉ t.power.trades ∧
      TradesBut s t x ∧ t.mem = s.mem) ∧
    ∃ t, exec .tokenRefuseReceived s = .next t ∧ PowerOnly s t ∧ x ∉ t.power.trades ∧ TradesBut s t x ∧ TokenLogged s t 3 x) ∧
  (∀ (s : State) (x : Trade), s.tradeOf false = some x →
    (s.now < x.first.toNat * 2000000 → ∃ t, exec .tokenCommitReceived s = .next t ∧ PowerOnly s t ∧
      { x with firm := true } ∈ t.power.trades ∧ x ∉ t.power.trades ∧ TradesBut s t x ∧ TokenLogged s t 4 x) ∧
    (x.first.toNat * 2000000 ≤ s.now → ∃ t, exec .tokenCommitReceived s = .next t ∧ PowerOnly s t ∧ x ∉ t.power.trades ∧
      TradesBut s t x ∧ TokenLogged s t 6 x)) ∧
  (∀ s : State, let round := s.now % 2000000 / 20000
    ∃ t, exec .arbiterRound s = .next t ∧ t.power.left ≤ s.power.left ∧ (round = 0 → t.power.left = s.power.left) ∧
      total t.power.grants ≤ t.power.left / (100 - round) ∧
      (total (Vector.ofFn fun i => Config.idleFloor i.val) ≤ t.power.left / (100 - round) → ∀ i : Fin 22, Config.idleFloor i.val ≤ t.power.grants[i]) ∧
      t.power.step = Vector.replicate 22 0 ∧ (∀ k, (t.core k).gated = false) ∧
      (∀ l x, s.slice? l = some x → ∃ e y, t.slice? l = some y ∧ y.acc = x.acc + BitVec.ofNat 64 ((x.accRem + e) / 65536) ∧
        y.accRem = (x.accRem + e) % 65536 ∧ y.accShown = y.acc) ∧
      Comes t .arbiterRound ((s.now / 20000 + 1) * 20000) fun _ => True) ∧
  (∀ (s : State) (c : Fin 22), s.arg.n = c.val →
    let m := s.arg.m
    let u := s.setPower { s.power with step := s.power.step.set c (max m (s.power.step[c])) }
    (m = 0 ∨ 4 < m ∨ s.power.step[c] + 1 < m → exec .throttle s = .next s) ∧
    (1 ≤ m → m ≤ 4 → m ≤ s.power.step[c] + 1 →
      (m = 1 → exec .throttle s = .next u) ∧
      (m = 2 → ∃ t, exec .throttle s = .next t ∧ t.power = u.power ∧ t.gangs = s.gangs ∧ t.reqs = s.reqs ∧
        ∀ k, t.core k = if (dieOf k).val = c.val then { s.core k with gated := s.arg.flag } else s.core k) ∧
      (m = 3 → ∃ t, exec .throttle s = .next t ∧ t.power = u.power ∧
        (∀ k, (dieOf k).val ≠ c.val → t.lap k = s.lap k) ∧
        ∀ k o, (dieOf k).val = c.val → (s.lap k).ops = [o] → let clk := s.clock k
          let till := max (s.lap k).gateTill (clk + s.arg.v.toNat)
          (t.lap k).gateTill = till ∧ ∃ p, (t.lap k).ops = [p] ∧ p.id = o.id ∧
            p.begin = (if o.finish ≤ clk ∨ o.begin ≤ clk ∨ till < o.begin then o.begin else till + 1) ∧
            p.finish = if o.finish ≤ clk then o.finish else if o.begin ≤ clk then o.finish + (till - max (s.lap k).gateTill clk)
              else o.finish + (p.begin - o.begin)) ∧
      (m = 4 → ∃ t, exec .throttle s = .next t ∧ t.power = u.power ∧
        ((∀ r ∈ s.reqs, r.slots = []) → (∀ k, (s.cc k).cmds = []) → t = u))))

/-- Frequency steps (R372, R373), the discipline of device time (R47, R375) and the timestamps of port 0 (R374).
The model's own choices in it: log entries 5, 75, 76, 135. -/
def Obligations.ClockSteps : Prop :=
  (∀ s : State, let v := s.arg.v
    let a : Tick := v.extractLsb' 0 56
    let ok := 20000 ≤ s.dist a ∧ (v.extractLsb' 56 6).toNat ≤ 56
    (ok → ∃ t, exec .clkStepArm s = .next t ∧ t.time = { s.time with clkStep := (1 : BitVec 2) ++ v.extractLsb' 0 62 } ∧
      Comes t .frequencyStep (s.now + (s.dist a).toNat - 1) fun b => b.n = (v.extractLsb' 56 6).toNat ∧ b.m = 15 ∧ b.flag = false) ∧
    (¬ ok → exec .clkStepArm s = .next (s.setTime { s.time with clkStep := (2 : BitVec 2) ++ v.extractLsb' 0 62 }))) ∧
  (∀ s : State, let v := s.time.clkStep
    let due := v.extractLsb' 62 2 = 1 ∧ (v.extractLsb' 56 6).toNat = s.arg.n ∧ s.dist (v.extractLsb' 0 56) ≤ 1
    (s.arg.flag = false → ¬ due → exec .frequencyStep s = .next s) ∧
    (s.arg.flag = false → due → ∃ t, exec .frequencyStep s = .next t ∧ t.gangs = s.gangs ∧ t.now = s.now ∧
      (∀ d : Fin 4, t.time.dies[d] = { s.time.dies[d] with hold := s.now + 65 }) ∧
      Comes t .frequencyStep (s.now + 1) fun b => b.flag = true ∧ b.n = s.arg.n ∧ b.m = s.arg.m) ∧
    (s.arg.flag = true → s.arg.n < 64 → let b := if s.arg.write then s.now else s.now + 1
      ∃ t, exec .frequencyStep s = .next t ∧ t.now = s.now ∧
        (∀ d : Fin 4, t.time.dies[d] = if s.arg.m / 2 ^ d.val % 2 = 1 then
          { s.time.dies[d] with freq := BitVec.ofNat 6 s.arg.n, hold := b + 64 } else s.time.dies[d]) ∧
        ((∀ r ∈ s.reqs, r.clk = 0) → (∀ k, (s.cc k).cmds = []) → t.gangs = s.gangs ∧ t.reqs = s.reqs ∧ t.mem = s.mem) ∧
        Comes t .frequencyHoldEnd (b + 63) fun a => a.m = s.arg.m ∧ a.n = s.arg.n)) ∧
  (∀ s : State, let v := s.time.clkStep
    let done := s.arg.flag = true ∧ v.extractLsb' 62 2 = 1 ∧ (v.extractLsb' 56 6).toNat = s.arg.n ∧ s.dist (v.extractLsb' 0 56) ≤ 0
    ∃ t, exec .frequencyHoldEnd s = .next t ∧ t = s.setTime t.time ∧ t.now = s.now ∧
      (∀ d : Fin 4, t.time.dies[d] = if s.arg.m / 2 ^ d.val % 2 = 1 then
        { s.time.dies[d] with hold := 0, phase := 2000 - (800 + 25 * s.arg.n) } else s.time.dies[d]) ∧
      (done → t.time.clkStep = (3 : BitVec 2) ++ v.extractLsb' 0 62) ∧ (¬ done → t.time.clkStep = v)) ∧
  (∀ s : State, let r := s.arg.v.extractLsb' 0 32
    ∃ t, exec .timeAdjSlew s = .next t ∧ t.now = s.now ∧ t.time.dies = s.time.dies ∧
      t.time.timeAdj = s.arg.v.extractLsb' 62 2 ++ (0 : BitVec 30) ++ r ∧
      ((-200000 ≤ r.toInt ∧ r.toInt ≤ 200000) → t.time.rate = r ∧ TimeLogged s t 1 s.now (s.now + 1) (s.time.rate ++ r)) ∧
      (r.toInt < -200000 ∨ 200000 < r.toInt → t.time.rate = s.time.rate ∧ t.mem = s.mem ∧ t.time.timeWr = s.time.timeWr)) ∧
  (∀ s : State, ∃ t, exec .timeAdjStep s = .next t ∧ t.now = s.now ∧ t.mem = s.mem ∧
    t.time.steps = s.time.steps + (s.arg.v.extractLsb' 0 32).toNat ∧ Comes t .forwardStepApply s.now fun _ => True) ∧
  (∀ s : State, let n := s.time.steps
    (n = 0 → exec .forwardStepApply s = .next s) ∧
    (n ≠ 0 → (∃ k, (s.core k).active ≠ none) → ∃ t, exec .forwardStepApply s = .next t ∧ t.time = s.time ∧ t.mem = s.mem ∧
      Comes t .forwardStepApply (s.now + 1) fun _ => True) ∧
    (n ≠ 0 → (∀ k, (s.core k).active = none) → ∃ t, exec .forwardStepApply s = .next t ∧ t.now = s.now + n ∧ t.time.steps = 0 ∧
      TimeLogged s t 2 s.now (s.now + 1 + n) (BitVec.ofNat 64 (n % 2 ^ 32)) ∧
      GangsKept s t ∧ ((∀ k, (s.cc k).mons = []) → t.cores = s.cores ∧ t.gangs = s.gangs))) ∧
  ∀ s : State, exec .ptpEventTimestamp s = .next (s.setTime { s.time with
    ptpIn := if s.arg.n = 0 ∧ s.arg.flag = true then BitVec.ofNat 64 s.now else s.time.ptpIn
    ptpOut := if s.arg.n = 0 ∧ s.arg.flag = false then BitVec.ofNat 64 s.now else s.time.ptpOut })

/-- Start-up and the services of the steward: resets (R398, R401, R419), READY (R400), BOOTCFG (R398, R399), attestation (R402, R403), the
mailboxes (R6, R389).
The model's own choices in it: log entries 81, 90, 91, 92. -/
def Obligations.SystemSteps : Prop :=
  (∀ s : State, ∃ t, exec .powerOnReset s = .next t ∧ exec .fundamentalReset s = .next t ∧ Rebooted s t s.sys.lc s.arg.flag) ∧
  (∀ s : State, (s.arg.n = 2 ∨ s.arg.n = 3 → ∃ t, exec .lifecycleChange s = .next t ∧ Rebooted s t (BitVec.ofNat 2 s.arg.n) s.arg.flag) ∧
    (s.arg.n ≠ 2 → s.arg.n ≠ 3 → exec .lifecycleChange s = .next s)) ∧
  (∀ s : State, let n := s.arg.n
    (n < 3 ∨ 39 < n ∨ s.sys.ready.getLsbD n = true ∨ s.sys.ready.getLsbD 63 = true → exec .readyBitRise s = .next s) ∧
    (3 ≤ n → n ≤ 39 → s.sys.ready.getLsbD n = false → s.sys.ready.getLsbD 63 = false → ∃ t, exec .readyBitRise s = .next t ∧
      (∀ j, j < 64 → t.sys.ready.getLsbD j = (s.sys.ready.getLsbD j || j == n)) ∧
      (n < 7 → Comes t .crewPlacement (s.now + 1) fun _ => True) ∧
      ((∀ r ∈ s.reqs, r.held = none) → t.reqs = s.reqs ∧ t.gangs = s.gangs ∧ t.mem = s.mem))) ∧
  (∀ s : State, let v := s.arg.v
    (s.sys.ready.extractLsb' 7 16 ≠ 0 → exec .bootcfgWrite s = .next s) ∧
    (s.sys.ready.extractLsb' 7 16 = 0 → exec .bootcfgWrite s = .next (s.setSys { s.sys with
      bootNext := (0 : BitVec 40) ++ v.extractLsb' 16 8 ++ (0 : BitVec 7) ++ v.extractLsb' 8 1 ++ (0 : BitVec 5) ++
        (if (v.extractLsb' 0 3).toNat ≤ 4 then v.extractLsb' 0 3 else s.sys.bootNext.extractLsb' 0 3) }))) ∧
  (∀ s : State, exec .attestationRequest s = .next (if s.sys.nonces.length < 8
      then s.setSys { s.sys with nonces := s.sys.nonces ++ [s.arg.wide] } else s) ∧
    (s.sys.nonces = [] → exec .attestationReportSigned s = .next s) ∧
    ∀ n rest, s.sys.nonces = n :: rest → ∃ t, exec .attestationReportSigned s = .next t ∧ t.sys.nonces = rest ∧
      t.sys.reports = s.sys.reports + 1 ∧ leNat (memBytes t.sys.lastRep 0 64) = n.toNat ∧
      leNat (memBytes t.sys.lastRep 80 8) = s.sys.lc.toNat ∧ leNat (memBytes t.sys.lastRep 88 8) = s.now % 2 ^ 64 ∧
      (∀ i : Fin 8, leNat (memBytes t.sys.lastRep (96 + 64 * i.val) 64) = (s.sys.meas[i]).toNat) ∧ t.gangs = s.gangs ∧ t.mem = s.mem) ∧
  ∀ (s : State) (n : Fin 8), s.arg.n = n.val → let b := s.sys.boxes[n]
    (∃ t, exec .mailboxDoorbellSet s = .next t ∧ (∀ j : Fin 8, j ≠ n → t.sys.boxes[j] = s.sys.boxes[j]) ∧
      (s.arg.flag = true → t.sys.boxes[n] = { b with bell := b.bell ||| 0x80000000, hostAt := s.now } ∧
        ∀ j, j < 8 → t.sys.msix.getLsbD j = (s.sys.msix.getLsbD j || j == n.val)) ∧
      (s.arg.flag = false → t.sys.boxes[n] = { b with bell := b.bell ||| 0x40000000, devAt := s.now } ∧ t.sys.msix = s.sys.msix)) ∧
    ∃ t, exec .mailboxDoorbellClear s = .next t ∧ (∀ j : Fin 8, j ≠ n → t.sys.boxes[j] = s.sys.boxes[j]) ∧
      (∀ j, j < 30 → ((t.sys.boxes[n]).bell).getLsbD j = b.bell.getLsbD j) ∧
      ((t.sys.boxes[n]).bell).getLsbD 31 = (b.bell.getLsbD 31 && (!s.arg.v.getLsbD 31 || decide (b.hostAt = s.now))) ∧
      ((t.sys.boxes[n]).bell).getLsbD 30 = (b.bell.getLsbD 30 && (!s.arg.v.getLsbD 30 || decide (b.devAt = s.now)))

/-- The ports: accesses of the host (R388) and of peers (R397) to device memory, refusals (R397), completions (R420), overruns of the path
allowance (R58), replays (R11, R395), links that go down and come up (R395, R404); and the filling of an instruction cache (R22).
The model's own choices in it: log entries 52, 84 to 89, 111, 112. -/
def Obligations.PortSteps : Prop :=
  (∀ (s : State), let a := s.arg
    (a.req = 1 → ∀ pos rest, a.pairs = (pos, 0) :: rest → ∃ t, exec .hostMemoryAccess s = .next t ∧ t.mem = s.mem ∧ t.gangs = s.gangs ∧
      t.sys = { s.sys with hostData := s.sys.hostData.take pos ++ memBytes s.mem a.n a.m ++ s.sys.hostData.drop (pos + a.m) }) ∧
    (a.req ≠ 1 → a.write = true → 0 < a.bytes.length → a.n % 128 + a.bytes.length ≤ 128 →
      (s.apertureOf a.n = none → exec .hostMemoryAccess s = .next (s.setSys { s.sys with pushLog := s.sys.pushLog + 1 })) ∧
      ∀ pa, s.apertureOf a.n = some pa → ∃ t, exec .hostMemoryAccess s = .next t ∧ WriteLeft s t pa a.bytes ∧ t.sys.pushLog = s.sys.pushLog) ∧
    (a.req ≠ 1 → a.write = false → 0 < a.m → a.n % 128 + a.m ≤ 128 →
      (s.apertureOf a.n = none → exec .hostMemoryAccess s = .next (s.setSys { s.sys with
        pushLog := s.sys.pushLog + 1, hostData := List.replicate a.m 0xFF })) ∧
      ∀ pa, s.apertureOf a.n = some pa → ∃ t, exec .hostMemoryAccess s = .next t ∧ ReadLeft s t .hostMemoryAccess pa a.m ∧
        t.sys = { s.sys with hostData := List.replicate a.m 0xFF })) ∧
  (∀ (s : State), let a := s.arg
    (a.req ≠ 1 → ¬ admitted s (if a.write then a.bytes.length else a.m) → exec .peerRequest s = .next s) ∧
    (a.req ≠ 1 → a.write = true → 0 < a.bytes.length → a.v.toNat % 128 + a.bytes.length ≤ 128 → admitted s a.bytes.length →
      ∃ t, exec .peerRequest s = .next t ∧ WriteLeft s t a.v.toNat a.bytes) ∧
    (a.req ≠ 1 → a.write = false → a.flag = false → 0 < a.m → a.v.toNat % 128 + a.m ≤ 128 → admitted s a.m →
      ∃ t, exec .peerRequest s = .next t ∧ ReadLeft s t .peerRequest a.v.toNat a.m) ∧
    (a.req ≠ 1 → a.write = false → a.flag = true → admitted s a.m →
      ((a.m = 4 ∨ a.m = 8) ∧ a.v.toNat % a.m = 0 → ∃ t, exec .peerRequest s = .next t ∧
        ∃ d ∈ t.agenda, d.task = .ev .peerRequest ∧ d.arg = { a with req := 1, n := a.v.toNat }) ∧
      (¬ ((a.m = 4 ∨ a.m = 8) ∧ a.v.toNat % a.m = 0) → exec .peerRequest s = .next s)) ∧
    (a.req = 1 → a.flag = true → Memory.wf s.mem = true → a.m = 4 ∨ a.m = 8 → ∀ op v x rest, a.pairs = (op, v) :: (x, 0) :: rest →
      ∃ t, exec .peerRequest s = .next t ∧ t.sys.hostData = memBytes s.mem a.n a.m ∧
        memBytes t.mem a.n a.m = natLe a.m (atomNew (atomOfNat op) a.m (leNat (memBytes s.mem a.n a.m)) v x) ∧
        ∀ b, b < a.n ∨ a.n + a.m ≤ b → memGet t.mem b = memGet s.mem b)) ∧
  (∀ (s : State) (r : Req), MemoryOk s → s.req? s.arg.req = some r → r.held = none → ∃ t, exec .peerRefusal s = .next t ∧
    ErrorLogged s t 6 r.link 2 r.line ∧ ∃ z, t.req? r.id = some z ∧ z.held = some (.error, BitVec.ofNat 32 s.sys.errWr.toNat)) ∧
  (∀ (s : State) (r : Req) (d : DataReg) (w : Width), s.arg.flag = false → s.req? s.arg.req = some r → r.perfDone = false → r.held = none →
    r.outside = true → r.effect = .load d w → ∃ t z, exec .hostCompletion s = .next t ∧ t.req? r.id = some z ∧ z.perfDone = true ∧
      z.arrive = s.now + ((r.bytes.eraseDups.length + 127) / 128 - 1) + 36 ∧ t.mem = s.mem ∧
      Comes t .requestLanding z.arrive fun a => a.req = r.id) ∧
  (∀ (s : State) (r : Req), s.arg.flag = false → s.req? s.arg.req = some r → r.held = none → r.prom ≤ s.now → r.outside = true →
    r.perfDone = false → (∀ x ∈ s.reqs, ∀ d ∈ x.after, d.1 ≠ r.id) →
    (∀ d, r.home = .peer d → s.linkTo d = none → ∃ t z, exec .pathAllowanceOverrun s = .next t ∧ t.req? r.id = some z ∧
      z.held = some (.peer, BitVec.ofNat 32 d.val)) ∧
    ((∀ d, r.home = .peer d → s.linkTo d ≠ none) → ∃ t z, exec .pathAllowanceOverrun s = .next t ∧ t.req? r.id = some z ∧
      z = { r with prom := r.prom + r.allowance, arrive := r.arrive + r.allowance, perf := r.perf + r.allowance })) ∧
  (∀ s : State, MemoryOk s → (∀ r ∈ s.reqs, r.slots = []) → (∀ k, (s.cc k).cmds = []) →
    (s.arg.n < 256 → ∃ t, exec .fabricLinkReplay s = .next t ∧ ErrorLogged s t 5 s.arg.n 1 0 ∧ t.reqs = s.reqs ∧
      ((∀ a, errorEntry s = some a → Unwatched s a 32) → t.gangs = s.gangs)) ∧
    ∃ t, exec .dieLinkReplay s = .next t ∧ ErrorLogged s t 4 (dieEnd s.arg.die.src * 16 + dieEnd s.arg.die.dst) 1 0 ∧
      t.reqs = s.reqs ∧ ((∀ a, errorEntry s = some a → Unwatched s a 32) → t.gangs = s.gangs)) ∧
  (∀ (s : State) (l : Fin 12), s.arg.n = l.val →
    (s.sys.links.getLsbD l.val = false → exec .fabricLinkDown s = .next s) ∧
    (s.sys.links.getLsbD l.val = true → ∃ t, exec .fabricLinkDown s = .next t ∧
      (∀ j : Fin 12, t.sys.links.getLsbD j.val = (s.sys.links.getLsbD j.val && j != l)) ∧ t.sys.stuck = s.sys.stuck ∧
      Comes t .fabricLinkRetrainTimeout (s.now + 2 ^ 24) fun a => a.n = l.val) ∧
    (s.sys.links.getLsbD l.val = true ∨ s.sys.stuck.getLsbD l.val = true ∧ s.arg.flag = false → exec .fabricLinkUp s = .next s) ∧
    (s.sys.links.getLsbD l.val = false → s.sys.stuck.getLsbD l.val = false ∨ s.arg.flag = true → ∃ t, exec .fabricLinkUp s = .next t ∧
      (∀ j : Fin 12, t.sys.links.getLsbD j.val = (s.sys.links.getLsbD j.val || j == l) ∧
        t.sys.stuck.getLsbD j.val = (s.sys.stuck.getLsbD j.val && j != l)) ∧
      ∀ d ∈ t.agenda, d.task = .ev .fabricLinkRetrainTimeout → d.arg.n ≠ l.val) ∧
    exec .fabricLinkRetrainTimeout s = .next (if s.sys.links.getLsbD l.val then s
      else s.setSys { s.sys with stuck := s.sys.stuck ||| BitVec.ofNat 12 (2 ^ l.val) })) ∧
  ∀ (s : State) (g : Gang) (c : Ctx), s.gang? s.arg.key = some g → s.ctx? g.ctx = some c →
    let va := s.arg.n / 128 * 128
    (∀ e, s.translate g.core c va = some e → e.map va / 2 ^ 50 % 4 = 0 → e.map va < 2 ^ 48 → ∃ t, exec .instructionFetchFill s = .next t ∧
      t.gang? g.key = some { g with wait := false } ∧ t.reqs = s.reqs ∧
      (∃ u, (t.core g.core).icache.head? = some ⟨c.id, va, wordsOf 32 u⟩ ∧
        (s.hier.line? (e.map va) = none → (s.coreTlb? g.core c.id va).isSome = true → u = memBytes s.mem (e.map va) 128)) ∧
      (t.core g.core).icache.length = min 512 ((s.core g.core).icache.length + 1)) ∧
    ((∀ e, s.translate g.core c va = some e → e.map va / 2 ^ 50 % 4 ≠ 0) → g.sel = none → g.clause = none → g.inHandler = false →
      s.handlerOf g ≠ 0 → ∀ x, fetchedFor s { g with wait := false } (BitVec.ofNat 48 s.arg.n) = some x → ∃ t, exec .instructionFetchFill s = .next t ∧ ∃ y, t.gang? g.key = some y ∧
        y.trap = some ⟨BitVec.ofNat 48 s.arg.n, x.pc, 7, 0x20, true⟩ ∧ y.v = g.v ∧ y.p = g.p ∧ y.t = g.t)

/-- The control registers: reads that clear answer with the value and clear it (R124, R378, R384); a register is written whole, by the
host only while HCTL = 1 (R391), and a register with a row of its own takes its row's meaning; a write of CTX_CMD runs its command,
unless one is BUSY (R356).
The model's own choices in it: log entries 52, 63, 93, 94. -/
def Obligations.RegisterAccess : Prop :=
  (∀ (s : State) (k : CoreId) (off : Nat), s.arg.reg = .core k off →
    let cc := s.cc k
    ((s.core k).active = none → ∀ i ∈ [Instr.brkcRead, .contStatRead, .contOvfRead, .trcCntRead],
      exec i s = .next (s.setSys { s.sys with readBack := 0 })) ∧
    ((s.core k).active ≠ none →
      (∀ i : Fin 8, off = 0x10 + 8 * i.val → ∃ t, exec .brkcRead s = .next t ∧
        ReadAnswered s t k ((cc.brkc[i]).zeroExtend 64) { cc with brkc := cc.brkc.set i 0 }) ∧
      (let high := max (if cc.highAt = s.now + 1 then cc.highWas else cc.high) (s.chargedSum k)
        ∃ t, exec .contStatRead s = .next t ∧ ReadAnswered s t k (BitVec.ofNat 64 (high * 2 ^ 36 + s.chargedSum k * 2 ^ 22 +
          (s.gangs.filter fun g => g.core = k && some g.ctx = (s.core k).active && g.inStore).foldl (fun n g => n + g.blocks) 0 * 2 ^ 8))
          { cc with high := s.chargedSum k, highWas := high, highAt := s.now + 1 }) ∧
      (∃ t, exec .contOvfRead s = .next t ∧ ReadAnswered s t k (cc.spills ++ BitVec.ofNat 32 (s.gangs.filter fun g => g.core = k &&
        some g.ctx = (s.core k).active && g.ringAt.isSome).length) { cc with spills := 0 }) ∧
      ∃ t, exec .trcCntRead s = .next t ∧ ReadAnswered s t k (cc.trc.drops ++ cc.trc.writes) { cc with trc := { cc.trc with drops := 0 } })) ∧
  (∀ s : State,
    (∀ i : Fin 4, s.arg.reg = .hub (0x1100 + 8 * i.val) → exec .errcRead s = .next (s.setSys { s.sys with
      errcDie := s.sys.errcDie.set i 0, readBack := (s.sys.errcDie[i]).zeroExtend 64 })) ∧
    (s.arg.reg = .hub 0x1120 → exec .errcRead s = .next (s.setSys { s.sys with errcHub := 0, readBack := s.sys.errcHub.zeroExtend 64 })) ∧
    (∀ i : Fin 16, s.arg.reg = .hub (0x1180 + 8 * i.val) → exec .errcRead s = .next (s.setSys { s.sys with
      errcHbm := s.sys.errcHbm.set i 0, readBack := (s.sys.errcHbm[i]).zeroExtend 64 })) ∧
    ∀ i : Fin 32, s.arg.reg = .hub (0x1200 + 8 * i.val) → exec .errcRead s = .next (s.setSys { s.sys with
      errcCap := s.sys.errcCap.set i 0, readBack := (s.sys.errcCap[i]).zeroExtend 64 })) ∧
  (∀ (s : State) (off : Nat), ¬ (s.arg.m = 8 ∧ off % 8 = 0) →
    s.arg.reg = .hub off ∨ (∃ k, s.arg.reg = .core k off) ∨ s.arg.reg = .bar0 (0x800000 + off) → exec .registerWrite s = .next s) ∧
  (∀ (s : State) (off : Nat), s.arg.m = 8 → off < 0x400000 → off % 8 = 0 → s.arg.reg = .bar0 (0x800000 + off) →
    (s.sys.bootCfg.getLsbD 8 = false → exec .registerWrite s = .next s) ∧
    (s.sys.bootCfg.getLsbD 8 = true → exec .registerWrite s = s.writeHub off s.arg.v)) ∧
  (∀ (s : State) (off : Nat), s.arg.m = 8 → s.arg.reg = .hub off →
    let v := s.arg.v
    let u := s.setArg { s.arg with flag := false }
    (off = 0x00 → exec .registerWrite s = exec .bootcfgWrite u) ∧ (off = 0x20 → exec .registerWrite s = exec .pwrStatLicWrite u) ∧
    (off = 0x28 → exec .registerWrite s = exec .tokOffer u) ∧ (off = 0x58 → exec .registerWrite s = exec .clkStepArm u) ∧
    (off = 0x60 → v.extractLsb' 62 2 = 1 → exec .registerWrite s = exec .timeAdjSlew s) ∧
    (off = 0x60 → v.extractLsb' 62 2 = 2 → exec .registerWrite s = exec .timeAdjStep s) ∧
    (off = 0x10 → exec .registerWrite s = .next (s.setSys { s.sys with ctxArg0 := v })) ∧
    (off = 0x18 → exec .registerWrite s = .next (s.setSys { s.sys with ctxArg1 := v })) ∧
    (off = 0x30 → exec .registerWrite s = .next (s.setPower { s.power with tokLog := (0 : BitVec 7) ++ v.extractLsb' 0 57 })) ∧
    (off = 0x88 → exec .registerWrite s = .next (s.setSys { s.sys with errLog := (0 : BitVec 7) ++ v.extractLsb' 0 57 })) ∧
    (off = 0x50 → exec .registerWrite s = .next (s.setTime { s.time with clkGrp := v.extractLsb' 0 16 })) ∧
    (off = 0x80 → exec .registerWrite s = .next (if (v.extractLsb' 0 32).toNat < 1000 then s
      else s.setSys { s.sys with hostAlw := v.extractLsb' 0 32 })) ∧
    ∀ k : CoreId, off = 0x2000 + 8 * k.val → exec .registerWrite s = .next (if 70 ≤ (v.extractLsb' 0 8).toNat ∧ (v.extractLsb' 0 8).toNat ≤ 105
      then s.setCore k { s.core k with limit := v.extractLsb' 0 8 } else s)) ∧
  ∀ s : State, s.arg.m = 8 → s.arg.reg = .hub 0x08 → let v := s.arg.v
    (s.sys.ctxCmd.getLsbD 63 = true → exec .registerWrite s = .next s) ∧
    (s.sys.ctxCmd.getLsbD 63 = false →
      let u := s.setSys { s.sys with ctxCmd := (1 : BitVec 1) ++ (0 : BitVec 7) ++ v.extractLsb' 0 56 }
      let cmd := (v.extractLsb' 0 56).toNat
      (ctxOperandsOk cmd s.sys.ctxArg0 s.sys.ctxArg1 = false → exec .registerWrite s = .next (u.answer 1)) ∧
      ∀ i, ctxOperandsOk cmd s.sys.ctxArg0 s.sys.ctxArg1 = true → commandRow cmd (s.sys.ctxArg1.getLsbD 63) = some i →
        ∃ a, exec .registerWrite s = exec i (u.setArg a) ∧ a.flag = false ∧ a.ctx = s.sys.ctxArg0.extractLsb' 52 12 ∧
          a.launch = s.sys.ctxArg0.extractLsb' 24 24 ∧ a.key.launch = s.sys.ctxArg0.extractLsb' 24 24 ∧
          a.key.crew = s.sys.ctxArg0.extractLsb' 8 16 ∧ (cmd = 5 → a.key.gang.val = (s.sys.ctxArg0.extractLsb' 0 8).toNat) ∧
          (cmd ∈ [1, 2, 6] → a.core.val = (s.sys.ctxArg1.extractLsb' 0 8).toNat) ∧ a.v = s.sys.ctxArg1 ∧
          (cmd = 8 → a.n = (s.sys.ctxArg1.extractLsb' 0 20).toNat))

end
end

