-- ==== Sys2Proof/Laws/State.lean ====
section
/-!
SUPPORT. What each update of the state leaves in each field: one lemma per field per update.
-/
namespace Sys2Proof.Machine.State

variable (s : State)

/-! ## `setTime` -/

@[simp] theorem setTime_time (x : Clocks) : (s.setTime x).time = x := rfl
@[simp] theorem setTime_mem (x : Clocks) : (s.setTime x).mem = s.mem := rfl
@[simp] theorem setTime_hier (x : Clocks) : (s.setTime x).hier = s.hier := rfl
@[simp] theorem setTime_cores (x : Clocks) : (s.setTime x).cores = s.cores := rfl
@[simp] theorem setTime_saved (x : Clocks) : (s.setTime x).saved = s.saved := rfl
@[simp] theorem setTime_gangs (x : Clocks) : (s.setTime x).gangs = s.gangs := rfl
@[simp] theorem setTime_crews (x : Clocks) : (s.setTime x).crews = s.crews := rfl
@[simp] theorem setTime_slices (x : Clocks) : (s.setTime x).slices = s.slices := rfl
@[simp] theorem setTime_reqs (x : Clocks) : (s.setTime x).reqs = s.reqs := rfl
@[simp] theorem setTime_ctxs (x : Clocks) : (s.setTime x).ctxs = s.ctxs := rfl
@[simp] theorem setTime_queues (x : Clocks) : (s.setTime x).queues = s.queues := rfl
@[simp] theorem setTime_power (x : Clocks) : (s.setTime x).power = s.power := rfl
@[simp] theorem setTime_sys (x : Clocks) : (s.setTime x).sys = s.sys := rfl
@[simp] theorem setTime_agenda (x : Clocks) : (s.setTime x).agenda = s.agenda := rfl
@[simp] theorem setTime_arg (x : Clocks) : (s.setTime x).arg = s.arg := rfl
@[simp] theorem setTime_own (x : Clocks) : (s.setTime x).own = s.own := rfl

/-! ## `setMem` -/

@[simp] theorem setMem_time (x : List Host.Cell) : (s.setMem x).time = s.time := rfl
@[simp] theorem setMem_mem (x : List Host.Cell) : (s.setMem x).mem = x := rfl
@[simp] theorem setMem_hier (x : List Host.Cell) : (s.setMem x).hier = s.hier := rfl
@[simp] theorem setMem_cores (x : List Host.Cell) : (s.setMem x).cores = s.cores := rfl
@[simp] theorem setMem_saved (x : List Host.Cell) : (s.setMem x).saved = s.saved := rfl
@[simp] theorem setMem_gangs (x : List Host.Cell) : (s.setMem x).gangs = s.gangs := rfl
@[simp] theorem setMem_crews (x : List Host.Cell) : (s.setMem x).crews = s.crews := rfl
@[simp] theorem setMem_slices (x : List Host.Cell) : (s.setMem x).slices = s.slices := rfl
@[simp] theorem setMem_reqs (x : List Host.Cell) : (s.setMem x).reqs = s.reqs := rfl
@[simp] theorem setMem_ctxs (x : List Host.Cell) : (s.setMem x).ctxs = s.ctxs := rfl
@[simp] theorem setMem_queues (x : List Host.Cell) : (s.setMem x).queues = s.queues := rfl
@[simp] theorem setMem_power (x : List Host.Cell) : (s.setMem x).power = s.power := rfl
@[simp] theorem setMem_sys (x : List Host.Cell) : (s.setMem x).sys = s.sys := rfl
@[simp] theorem setMem_agenda (x : List Host.Cell) : (s.setMem x).agenda = s.agenda := rfl
@[simp] theorem setMem_arg (x : List Host.Cell) : (s.setMem x).arg = s.arg := rfl
@[simp] theorem setMem_own (x : List Host.Cell) : (s.setMem x).own = s.own := rfl

/-! ## `setHier` -/

@[simp] theorem setHier_time (x : Hier) : (s.setHier x).time = s.time := rfl
@[simp] theorem setHier_mem (x : Hier) : (s.setHier x).mem = s.mem := rfl
@[simp] theorem setHier_hier (x : Hier) : (s.setHier x).hier = x := rfl
@[simp] theorem setHier_cores (x : Hier) : (s.setHier x).cores = s.cores := rfl
@[simp] theorem setHier_saved (x : Hier) : (s.setHier x).saved = s.saved := rfl
@[simp] theorem setHier_gangs (x : Hier) : (s.setHier x).gangs = s.gangs := rfl
@[simp] theorem setHier_crews (x : Hier) : (s.setHier x).crews = s.crews := rfl
@[simp] theorem setHier_slices (x : Hier) : (s.setHier x).slices = s.slices := rfl
@[simp] theorem setHier_reqs (x : Hier) : (s.setHier x).reqs = s.reqs := rfl
@[simp] theorem setHier_ctxs (x : Hier) : (s.setHier x).ctxs = s.ctxs := rfl
@[simp] theorem setHier_queues (x : Hier) : (s.setHier x).queues = s.queues := rfl
@[simp] theorem setHier_power (x : Hier) : (s.setHier x).power = s.power := rfl
@[simp] theorem setHier_sys (x : Hier) : (s.setHier x).sys = s.sys := rfl
@[simp] theorem setHier_agenda (x : Hier) : (s.setHier x).agenda = s.agenda := rfl
@[simp] theorem setHier_arg (x : Hier) : (s.setHier x).arg = s.arg := rfl
@[simp] theorem setHier_own (x : Hier) : (s.setHier x).own = s.own := rfl

/-! ## `setCores` -/

@[simp] theorem setCores_time (x : Vector Core 256) : (s.setCores x).time = s.time := rfl
@[simp] theorem setCores_mem (x : Vector Core 256) : (s.setCores x).mem = s.mem := rfl
@[simp] theorem setCores_hier (x : Vector Core 256) : (s.setCores x).hier = s.hier := rfl
@[simp] theorem setCores_cores (x : Vector Core 256) : (s.setCores x).cores = x := rfl
@[simp] theorem setCores_saved (x : Vector Core 256) : (s.setCores x).saved = s.saved := rfl
@[simp] theorem setCores_gangs (x : Vector Core 256) : (s.setCores x).gangs = s.gangs := rfl
@[simp] theorem setCores_crews (x : Vector Core 256) : (s.setCores x).crews = s.crews := rfl
@[simp] theorem setCores_slices (x : Vector Core 256) : (s.setCores x).slices = s.slices := rfl
@[simp] theorem setCores_reqs (x : Vector Core 256) : (s.setCores x).reqs = s.reqs := rfl
@[simp] theorem setCores_ctxs (x : Vector Core 256) : (s.setCores x).ctxs = s.ctxs := rfl
@[simp] theorem setCores_queues (x : Vector Core 256) : (s.setCores x).queues = s.queues := rfl
@[simp] theorem setCores_power (x : Vector Core 256) : (s.setCores x).power = s.power := rfl
@[simp] theorem setCores_sys (x : Vector Core 256) : (s.setCores x).sys = s.sys := rfl
@[simp] theorem setCores_agenda (x : Vector Core 256) : (s.setCores x).agenda = s.agenda := rfl
@[simp] theorem setCores_arg (x : Vector Core 256) : (s.setCores x).arg = s.arg := rfl
@[simp] theorem setCores_own (x : Vector Core 256) : (s.setCores x).own = s.own := rfl

/-! ## `setSaved` -/

@[simp] theorem setSaved_time (x : List (CtxId × CoreId × CoreCtx)) : (s.setSaved x).time = s.time := rfl
@[simp] theorem setSaved_mem (x : List (CtxId × CoreId × CoreCtx)) : (s.setSaved x).mem = s.mem := rfl
@[simp] theorem setSaved_hier (x : List (CtxId × CoreId × CoreCtx)) : (s.setSaved x).hier = s.hier := rfl
@[simp] theorem setSaved_cores (x : List (CtxId × CoreId × CoreCtx)) : (s.setSaved x).cores = s.cores := rfl
@[simp] theorem setSaved_saved (x : List (CtxId × CoreId × CoreCtx)) : (s.setSaved x).saved = x := rfl
@[simp] theorem setSaved_gangs (x : List (CtxId × CoreId × CoreCtx)) : (s.setSaved x).gangs = s.gangs := rfl
@[simp] theorem setSaved_crews (x : List (CtxId × CoreId × CoreCtx)) : (s.setSaved x).crews = s.crews := rfl
@[simp] theorem setSaved_slices (x : List (CtxId × CoreId × CoreCtx)) : (s.setSaved x).slices = s.slices := rfl
@[simp] theorem setSaved_reqs (x : List (CtxId × CoreId × CoreCtx)) : (s.setSaved x).reqs = s.reqs := rfl
@[simp] theorem setSaved_ctxs (x : List (CtxId × CoreId × CoreCtx)) : (s.setSaved x).ctxs = s.ctxs := rfl
@[simp] theorem setSaved_queues (x : List (CtxId × CoreId × CoreCtx)) : (s.setSaved x).queues = s.queues := rfl
@[simp] theorem setSaved_power (x : List (CtxId × CoreId × CoreCtx)) : (s.setSaved x).power = s.power := rfl
@[simp] theorem setSaved_sys (x : List (CtxId × CoreId × CoreCtx)) : (s.setSaved x).sys = s.sys := rfl
@[simp] theorem setSaved_agenda (x : List (CtxId × CoreId × CoreCtx)) : (s.setSaved x).agenda = s.agenda := rfl
@[simp] theorem setSaved_arg (x : List (CtxId × CoreId × CoreCtx)) : (s.setSaved x).arg = s.arg := rfl
@[simp] theorem setSaved_own (x : List (CtxId × CoreId × CoreCtx)) : (s.setSaved x).own = s.own := rfl

/-! ## `setGangs` -/

@[simp] theorem setGangs_time (x : List Gang) : (s.setGangs x).time = s.time := rfl
@[simp] theorem setGangs_mem (x : List Gang) : (s.setGangs x).mem = s.mem := rfl
@[simp] theorem setGangs_hier (x : List Gang) : (s.setGangs x).hier = s.hier := rfl
@[simp] theorem setGangs_cores (x : List Gang) : (s.setGangs x).cores = s.cores := rfl
@[simp] theorem setGangs_saved (x : List Gang) : (s.setGangs x).saved = s.saved := rfl
@[simp] theorem setGangs_gangs (x : List Gang) : (s.setGangs x).gangs = x := rfl
@[simp] theorem setGangs_crews (x : List Gang) : (s.setGangs x).crews = s.crews := rfl
@[simp] theorem setGangs_slices (x : List Gang) : (s.setGangs x).slices = s.slices := rfl
@[simp] theorem setGangs_reqs (x : List Gang) : (s.setGangs x).reqs = s.reqs := rfl
@[simp] theorem setGangs_ctxs (x : List Gang) : (s.setGangs x).ctxs = s.ctxs := rfl
@[simp] theorem setGangs_queues (x : List Gang) : (s.setGangs x).queues = s.queues := rfl
@[simp] theorem setGangs_power (x : List Gang) : (s.setGangs x).power = s.power := rfl
@[simp] theorem setGangs_sys (x : List Gang) : (s.setGangs x).sys = s.sys := rfl
@[simp] theorem setGangs_agenda (x : List Gang) : (s.setGangs x).agenda = s.agenda := rfl
@[simp] theorem setGangs_arg (x : List Gang) : (s.setGangs x).arg = s.arg := rfl
@[simp] theorem setGangs_own (x : List Gang) : (s.setGangs x).own = s.own := rfl

/-! ## `setCrews` -/

@[simp] theorem setCrews_time (x : List Crew) : (s.setCrews x).time = s.time := rfl
@[simp] theorem setCrews_mem (x : List Crew) : (s.setCrews x).mem = s.mem := rfl
@[simp] theorem setCrews_hier (x : List Crew) : (s.setCrews x).hier = s.hier := rfl
@[simp] theorem setCrews_cores (x : List Crew) : (s.setCrews x).cores = s.cores := rfl
@[simp] theorem setCrews_saved (x : List Crew) : (s.setCrews x).saved = s.saved := rfl
@[simp] theorem setCrews_gangs (x : List Crew) : (s.setCrews x).gangs = s.gangs := rfl
@[simp] theorem setCrews_crews (x : List Crew) : (s.setCrews x).crews = x := rfl
@[simp] theorem setCrews_slices (x : List Crew) : (s.setCrews x).slices = s.slices := rfl
@[simp] theorem setCrews_reqs (x : List Crew) : (s.setCrews x).reqs = s.reqs := rfl
@[simp] theorem setCrews_ctxs (x : List Crew) : (s.setCrews x).ctxs = s.ctxs := rfl
@[simp] theorem setCrews_queues (x : List Crew) : (s.setCrews x).queues = s.queues := rfl
@[simp] theorem setCrews_power (x : List Crew) : (s.setCrews x).power = s.power := rfl
@[simp] theorem setCrews_sys (x : List Crew) : (s.setCrews x).sys = s.sys := rfl
@[simp] theorem setCrews_agenda (x : List Crew) : (s.setCrews x).agenda = s.agenda := rfl
@[simp] theorem setCrews_arg (x : List Crew) : (s.setCrews x).arg = s.arg := rfl
@[simp] theorem setCrews_own (x : List Crew) : (s.setCrews x).own = s.own := rfl

/-! ## `setSlices` -/

@[simp] theorem setSlices_time (x : List Slice) : (s.setSlices x).time = s.time := rfl
@[simp] theorem setSlices_mem (x : List Slice) : (s.setSlices x).mem = s.mem := rfl
@[simp] theorem setSlices_hier (x : List Slice) : (s.setSlices x).hier = s.hier := rfl
@[simp] theorem setSlices_cores (x : List Slice) : (s.setSlices x).cores = s.cores := rfl
@[simp] theorem setSlices_saved (x : List Slice) : (s.setSlices x).saved = s.saved := rfl
@[simp] theorem setSlices_gangs (x : List Slice) : (s.setSlices x).gangs = s.gangs := rfl
@[simp] theorem setSlices_crews (x : List Slice) : (s.setSlices x).crews = s.crews := rfl
@[simp] theorem setSlices_slices (x : List Slice) : (s.setSlices x).slices = x := rfl
@[simp] theorem setSlices_reqs (x : List Slice) : (s.setSlices x).reqs = s.reqs := rfl
@[simp] theorem setSlices_ctxs (x : List Slice) : (s.setSlices x).ctxs = s.ctxs := rfl
@[simp] theorem setSlices_queues (x : List Slice) : (s.setSlices x).queues = s.queues := rfl
@[simp] theorem setSlices_power (x : List Slice) : (s.setSlices x).power = s.power := rfl
@[simp] theorem setSlices_sys (x : List Slice) : (s.setSlices x).sys = s.sys := rfl
@[simp] theorem setSlices_agenda (x : List Slice) : (s.setSlices x).agenda = s.agenda := rfl
@[simp] theorem setSlices_arg (x : List Slice) : (s.setSlices x).arg = s.arg := rfl
@[simp] theorem setSlices_own (x : List Slice) : (s.setSlices x).own = s.own := rfl

/-! ## `setReqs` -/

@[simp] theorem setReqs_time (x : List Req) : (s.setReqs x).time = s.time := rfl
@[simp] theorem setReqs_mem (x : List Req) : (s.setReqs x).mem = s.mem := rfl
@[simp] theorem setReqs_hier (x : List Req) : (s.setReqs x).hier = s.hier := rfl
@[simp] theorem setReqs_cores (x : List Req) : (s.setReqs x).cores = s.cores := rfl
@[simp] theorem setReqs_saved (x : List Req) : (s.setReqs x).saved = s.saved := rfl
@[simp] theorem setReqs_gangs (x : List Req) : (s.setReqs x).gangs = s.gangs := rfl
@[simp] theorem setReqs_crews (x : List Req) : (s.setReqs x).crews = s.crews := rfl
@[simp] theorem setReqs_slices (x : List Req) : (s.setReqs x).slices = s.slices := rfl
@[simp] theorem setReqs_reqs (x : List Req) : (s.setReqs x).reqs = x := rfl
@[simp] theorem setReqs_ctxs (x : List Req) : (s.setReqs x).ctxs = s.ctxs := rfl
@[simp] theorem setReqs_queues (x : List Req) : (s.setReqs x).queues = s.queues := rfl
@[simp] theorem setReqs_power (x : List Req) : (s.setReqs x).power = s.power := rfl
@[simp] theorem setReqs_sys (x : List Req) : (s.setReqs x).sys = s.sys := rfl
@[simp] theorem setReqs_agenda (x : List Req) : (s.setReqs x).agenda = s.agenda := rfl
@[simp] theorem setReqs_arg (x : List Req) : (s.setReqs x).arg = s.arg := rfl
@[simp] theorem setReqs_own (x : List Req) : (s.setReqs x).own = s.own := rfl

/-! ## `setCtxs` -/

@[simp] theorem setCtxs_time (x : List Ctx) : (s.setCtxs x).time = s.time := rfl
@[simp] theorem setCtxs_mem (x : List Ctx) : (s.setCtxs x).mem = s.mem := rfl
@[simp] theorem setCtxs_hier (x : List Ctx) : (s.setCtxs x).hier = s.hier := rfl
@[simp] theorem setCtxs_cores (x : List Ctx) : (s.setCtxs x).cores = s.cores := rfl
@[simp] theorem setCtxs_saved (x : List Ctx) : (s.setCtxs x).saved = s.saved := rfl
@[simp] theorem setCtxs_gangs (x : List Ctx) : (s.setCtxs x).gangs = s.gangs := rfl
@[simp] theorem setCtxs_crews (x : List Ctx) : (s.setCtxs x).crews = s.crews := rfl
@[simp] theorem setCtxs_slices (x : List Ctx) : (s.setCtxs x).slices = s.slices := rfl
@[simp] theorem setCtxs_reqs (x : List Ctx) : (s.setCtxs x).reqs = s.reqs := rfl
@[simp] theorem setCtxs_ctxs (x : List Ctx) : (s.setCtxs x).ctxs = x := rfl
@[simp] theorem setCtxs_queues (x : List Ctx) : (s.setCtxs x).queues = s.queues := rfl
@[simp] theorem setCtxs_power (x : List Ctx) : (s.setCtxs x).power = s.power := rfl
@[simp] theorem setCtxs_sys (x : List Ctx) : (s.setCtxs x).sys = s.sys := rfl
@[simp] theorem setCtxs_agenda (x : List Ctx) : (s.setCtxs x).agenda = s.agenda := rfl
@[simp] theorem setCtxs_arg (x : List Ctx) : (s.setCtxs x).arg = s.arg := rfl
@[simp] theorem setCtxs_own (x : List Ctx) : (s.setCtxs x).own = s.own := rfl

/-! ## `setQueues` -/

@[simp] theorem setQueues_time (x : Queues) : (s.setQueues x).time = s.time := rfl
@[simp] theorem setQueues_mem (x : Queues) : (s.setQueues x).mem = s.mem := rfl
@[simp] theorem setQueues_hier (x : Queues) : (s.setQueues x).hier = s.hier := rfl
@[simp] theorem setQueues_cores (x : Queues) : (s.setQueues x).cores = s.cores := rfl
@[simp] theorem setQueues_saved (x : Queues) : (s.setQueues x).saved = s.saved := rfl
@[simp] theorem setQueues_gangs (x : Queues) : (s.setQueues x).gangs = s.gangs := rfl
@[simp] theorem setQueues_crews (x : Queues) : (s.setQueues x).crews = s.crews := rfl
@[simp] theorem setQueues_slices (x : Queues) : (s.setQueues x).slices = s.slices := rfl
@[simp] theorem setQueues_reqs (x : Queues) : (s.setQueues x).reqs = s.reqs := rfl
@[simp] theorem setQueues_ctxs (x : Queues) : (s.setQueues x).ctxs = s.ctxs := rfl
@[simp] theorem setQueues_queues (x : Queues) : (s.setQueues x).queues = x := rfl
@[simp] theorem setQueues_power (x : Queues) : (s.setQueues x).power = s.power := rfl
@[simp] theorem setQueues_sys (x : Queues) : (s.setQueues x).sys = s.sys := rfl
@[simp] theorem setQueues_agenda (x : Queues) : (s.setQueues x).agenda = s.agenda := rfl
@[simp] theorem setQueues_arg (x : Queues) : (s.setQueues x).arg = s.arg := rfl
@[simp] theorem setQueues_own (x : Queues) : (s.setQueues x).own = s.own := rfl

/-! ## `setPower` -/

@[simp] theorem setPower_time (x : Power) : (s.setPower x).time = s.time := rfl
@[simp] theorem setPower_mem (x : Power) : (s.setPower x).mem = s.mem := rfl
@[simp] theorem setPower_hier (x : Power) : (s.setPower x).hier = s.hier := rfl
@[simp] theorem setPower_cores (x : Power) : (s.setPower x).cores = s.cores := rfl
@[simp] theorem setPower_saved (x : Power) : (s.setPower x).saved = s.saved := rfl
@[simp] theorem setPower_gangs (x : Power) : (s.setPower x).gangs = s.gangs := rfl
@[simp] theorem setPower_crews (x : Power) : (s.setPower x).crews = s.crews := rfl
@[simp] theorem setPower_slices (x : Power) : (s.setPower x).slices = s.slices := rfl
@[simp] theorem setPower_reqs (x : Power) : (s.setPower x).reqs = s.reqs := rfl
@[simp] theorem setPower_ctxs (x : Power) : (s.setPower x).ctxs = s.ctxs := rfl
@[simp] theorem setPower_queues (x : Power) : (s.setPower x).queues = s.queues := rfl
@[simp] theorem setPower_power (x : Power) : (s.setPower x).power = x := rfl
@[simp] theorem setPower_sys (x : Power) : (s.setPower x).sys = s.sys := rfl
@[simp] theorem setPower_agenda (x : Power) : (s.setPower x).agenda = s.agenda := rfl
@[simp] theorem setPower_arg (x : Power) : (s.setPower x).arg = s.arg := rfl
@[simp] theorem setPower_own (x : Power) : (s.setPower x).own = s.own := rfl

/-! ## `setSys` -/

@[simp] theorem setSys_time (x : Sys) : (s.setSys x).time = s.time := rfl
@[simp] theorem setSys_mem (x : Sys) : (s.setSys x).mem = s.mem := rfl
@[simp] theorem setSys_hier (x : Sys) : (s.setSys x).hier = s.hier := rfl
@[simp] theorem setSys_cores (x : Sys) : (s.setSys x).cores = s.cores := rfl
@[simp] theorem setSys_saved (x : Sys) : (s.setSys x).saved = s.saved := rfl
@[simp] theorem setSys_gangs (x : Sys) : (s.setSys x).gangs = s.gangs := rfl
@[simp] theorem setSys_crews (x : Sys) : (s.setSys x).crews = s.crews := rfl
@[simp] theorem setSys_slices (x : Sys) : (s.setSys x).slices = s.slices := rfl
@[simp] theorem setSys_reqs (x : Sys) : (s.setSys x).reqs = s.reqs := rfl
@[simp] theorem setSys_ctxs (x : Sys) : (s.setSys x).ctxs = s.ctxs := rfl
@[simp] theorem setSys_queues (x : Sys) : (s.setSys x).queues = s.queues := rfl
@[simp] theorem setSys_power (x : Sys) : (s.setSys x).power = s.power := rfl
@[simp] theorem setSys_sys (x : Sys) : (s.setSys x).sys = x := rfl
@[simp] theorem setSys_agenda (x : Sys) : (s.setSys x).agenda = s.agenda := rfl
@[simp] theorem setSys_arg (x : Sys) : (s.setSys x).arg = s.arg := rfl
@[simp] theorem setSys_own (x : Sys) : (s.setSys x).own = s.own := rfl

/-! ## `setAgenda` -/

@[simp] theorem setAgenda_time (x : List Due) : (s.setAgenda x).time = s.time := rfl
@[simp] theorem setAgenda_mem (x : List Due) : (s.setAgenda x).mem = s.mem := rfl
@[simp] theorem setAgenda_hier (x : List Due) : (s.setAgenda x).hier = s.hier := rfl
@[simp] theorem setAgenda_cores (x : List Due) : (s.setAgenda x).cores = s.cores := rfl
@[simp] theorem setAgenda_saved (x : List Due) : (s.setAgenda x).saved = s.saved := rfl
@[simp] theorem setAgenda_gangs (x : List Due) : (s.setAgenda x).gangs = s.gangs := rfl
@[simp] theorem setAgenda_crews (x : List Due) : (s.setAgenda x).crews = s.crews := rfl
@[simp] theorem setAgenda_slices (x : List Due) : (s.setAgenda x).slices = s.slices := rfl
@[simp] theorem setAgenda_reqs (x : List Due) : (s.setAgenda x).reqs = s.reqs := rfl
@[simp] theorem setAgenda_ctxs (x : List Due) : (s.setAgenda x).ctxs = s.ctxs := rfl
@[simp] theorem setAgenda_queues (x : List Due) : (s.setAgenda x).queues = s.queues := rfl
@[simp] theorem setAgenda_power (x : List Due) : (s.setAgenda x).power = s.power := rfl
@[simp] theorem setAgenda_sys (x : List Due) : (s.setAgenda x).sys = s.sys := rfl
@[simp] theorem setAgenda_agenda (x : List Due) : (s.setAgenda x).agenda = x := rfl
@[simp] theorem setAgenda_arg (x : List Due) : (s.setAgenda x).arg = s.arg := rfl
@[simp] theorem setAgenda_own (x : List Due) : (s.setAgenda x).own = s.own := rfl

/-! ## `setArg` -/

@[simp] theorem setArg_time (x : EvArg) : (s.setArg x).time = s.time := rfl
@[simp] theorem setArg_mem (x : EvArg) : (s.setArg x).mem = s.mem := rfl
@[simp] theorem setArg_hier (x : EvArg) : (s.setArg x).hier = s.hier := rfl
@[simp] theorem setArg_cores (x : EvArg) : (s.setArg x).cores = s.cores := rfl
@[simp] theorem setArg_saved (x : EvArg) : (s.setArg x).saved = s.saved := rfl
@[simp] theorem setArg_gangs (x : EvArg) : (s.setArg x).gangs = s.gangs := rfl
@[simp] theorem setArg_crews (x : EvArg) : (s.setArg x).crews = s.crews := rfl
@[simp] theorem setArg_slices (x : EvArg) : (s.setArg x).slices = s.slices := rfl
@[simp] theorem setArg_reqs (x : EvArg) : (s.setArg x).reqs = s.reqs := rfl
@[simp] theorem setArg_ctxs (x : EvArg) : (s.setArg x).ctxs = s.ctxs := rfl
@[simp] theorem setArg_queues (x : EvArg) : (s.setArg x).queues = s.queues := rfl
@[simp] theorem setArg_power (x : EvArg) : (s.setArg x).power = s.power := rfl
@[simp] theorem setArg_sys (x : EvArg) : (s.setArg x).sys = s.sys := rfl
@[simp] theorem setArg_agenda (x : EvArg) : (s.setArg x).agenda = s.agenda := rfl
@[simp] theorem setArg_arg (x : EvArg) : (s.setArg x).arg = x := rfl
@[simp] theorem setArg_own (x : EvArg) : (s.setArg x).own = s.own := rfl

/-! ## `setOwn` -/

@[simp] theorem setOwn_time (x : Model) : (s.setOwn x).time = s.time := rfl
@[simp] theorem setOwn_mem (x : Model) : (s.setOwn x).mem = s.mem := rfl
@[simp] theorem setOwn_hier (x : Model) : (s.setOwn x).hier = s.hier := rfl
@[simp] theorem setOwn_cores (x : Model) : (s.setOwn x).cores = s.cores := rfl
@[simp] theorem setOwn_saved (x : Model) : (s.setOwn x).saved = s.saved := rfl
@[simp] theorem setOwn_gangs (x : Model) : (s.setOwn x).gangs = s.gangs := rfl
@[simp] theorem setOwn_crews (x : Model) : (s.setOwn x).crews = s.crews := rfl
@[simp] theorem setOwn_slices (x : Model) : (s.setOwn x).slices = s.slices := rfl
@[simp] theorem setOwn_reqs (x : Model) : (s.setOwn x).reqs = s.reqs := rfl
@[simp] theorem setOwn_ctxs (x : Model) : (s.setOwn x).ctxs = s.ctxs := rfl
@[simp] theorem setOwn_queues (x : Model) : (s.setOwn x).queues = s.queues := rfl
@[simp] theorem setOwn_power (x : Model) : (s.setOwn x).power = s.power := rfl
@[simp] theorem setOwn_sys (x : Model) : (s.setOwn x).sys = s.sys := rfl
@[simp] theorem setOwn_agenda (x : Model) : (s.setOwn x).agenda = s.agenda := rfl
@[simp] theorem setOwn_arg (x : Model) : (s.setOwn x).arg = s.arg := rfl
@[simp] theorem setOwn_own (x : Model) : (s.setOwn x).own = x := rfl

/-! ## `setCore` -/

@[simp] theorem setCore_time (c : CoreId) (x : Core) : (s.setCore c x).time = s.time := rfl
@[simp] theorem setCore_mem (c : CoreId) (x : Core) : (s.setCore c x).mem = s.mem := rfl
@[simp] theorem setCore_hier (c : CoreId) (x : Core) : (s.setCore c x).hier = s.hier := rfl
@[simp] theorem setCore_cores (c : CoreId) (x : Core) : (s.setCore c x).cores = s.cores.set c x := rfl
@[simp] theorem setCore_saved (c : CoreId) (x : Core) : (s.setCore c x).saved = s.saved := rfl
@[simp] theorem setCore_gangs (c : CoreId) (x : Core) : (s.setCore c x).gangs = s.gangs := rfl
@[simp] theorem setCore_crews (c : CoreId) (x : Core) : (s.setCore c x).crews = s.crews := rfl
@[simp] theorem setCore_slices (c : CoreId) (x : Core) : (s.setCore c x).slices = s.slices := rfl
@[simp] theorem setCore_reqs (c : CoreId) (x : Core) : (s.setCore c x).reqs = s.reqs := rfl
@[simp] theorem setCore_ctxs (c : CoreId) (x : Core) : (s.setCore c x).ctxs = s.ctxs := rfl
@[simp] theorem setCore_queues (c : CoreId) (x : Core) : (s.setCore c x).queues = s.queues := rfl
@[simp] theorem setCore_power (c : CoreId) (x : Core) : (s.setCore c x).power = s.power := rfl
@[simp] theorem setCore_sys (c : CoreId) (x : Core) : (s.setCore c x).sys = s.sys := rfl
@[simp] theorem setCore_agenda (c : CoreId) (x : Core) : (s.setCore c x).agenda = s.agenda := rfl
@[simp] theorem setCore_arg (c : CoreId) (x : Core) : (s.setCore c x).arg = s.arg := rfl
@[simp] theorem setCore_own (c : CoreId) (x : Core) : (s.setCore c x).own = s.own := rfl

/-! ## `setCc` -/

@[simp] theorem setCc_time (c : CoreId) (x : CoreCtx) : (s.setCc c x).time = s.time := rfl
@[simp] theorem setCc_mem (c : CoreId) (x : CoreCtx) : (s.setCc c x).mem = s.mem := rfl
@[simp] theorem setCc_hier (c : CoreId) (x : CoreCtx) : (s.setCc c x).hier = s.hier := rfl
@[simp] theorem setCc_cores (c : CoreId) (x : CoreCtx) : (s.setCc c x).cores = s.cores.set c { s.core c with cc := x } := rfl
@[simp] theorem setCc_saved (c : CoreId) (x : CoreCtx) : (s.setCc c x).saved = s.saved := rfl
@[simp] theorem setCc_gangs (c : CoreId) (x : CoreCtx) : (s.setCc c x).gangs = s.gangs := rfl
@[simp] theorem setCc_crews (c : CoreId) (x : CoreCtx) : (s.setCc c x).crews = s.crews := rfl
@[simp] theorem setCc_slices (c : CoreId) (x : CoreCtx) : (s.setCc c x).slices = s.slices := rfl
@[simp] theorem setCc_reqs (c : CoreId) (x : CoreCtx) : (s.setCc c x).reqs = s.reqs := rfl
@[simp] theorem setCc_ctxs (c : CoreId) (x : CoreCtx) : (s.setCc c x).ctxs = s.ctxs := rfl
@[simp] theorem setCc_queues (c : CoreId) (x : CoreCtx) : (s.setCc c x).queues = s.queues := rfl
@[simp] theorem setCc_power (c : CoreId) (x : CoreCtx) : (s.setCc c x).power = s.power := rfl
@[simp] theorem setCc_sys (c : CoreId) (x : CoreCtx) : (s.setCc c x).sys = s.sys := rfl
@[simp] theorem setCc_agenda (c : CoreId) (x : CoreCtx) : (s.setCc c x).agenda = s.agenda := rfl
@[simp] theorem setCc_arg (c : CoreId) (x : CoreCtx) : (s.setCc c x).arg = s.arg := rfl
@[simp] theorem setCc_own (c : CoreId) (x : CoreCtx) : (s.setCc c x).own = s.own := rfl

/-! ## `putGang` -/

@[simp] theorem putGang_time (g : Gang) : (s.putGang g).time = s.time := rfl
@[simp] theorem putGang_mem (g : Gang) : (s.putGang g).mem = s.mem := rfl
@[simp] theorem putGang_hier (g : Gang) : (s.putGang g).hier = s.hier := rfl
@[simp] theorem putGang_cores (g : Gang) : (s.putGang g).cores = s.cores := rfl
@[simp] theorem putGang_saved (g : Gang) : (s.putGang g).saved = s.saved := rfl
@[simp] theorem putGang_gangs (g : Gang) : (s.putGang g).gangs = s.gangs.map fun x => if x.key = g.key then g else x := rfl
@[simp] theorem putGang_crews (g : Gang) : (s.putGang g).crews = s.crews := rfl
@[simp] theorem putGang_slices (g : Gang) : (s.putGang g).slices = s.slices := rfl
@[simp] theorem putGang_reqs (g : Gang) : (s.putGang g).reqs = s.reqs := rfl
@[simp] theorem putGang_ctxs (g : Gang) : (s.putGang g).ctxs = s.ctxs := rfl
@[simp] theorem putGang_queues (g : Gang) : (s.putGang g).queues = s.queues := rfl
@[simp] theorem putGang_power (g : Gang) : (s.putGang g).power = s.power := rfl
@[simp] theorem putGang_sys (g : Gang) : (s.putGang g).sys = s.sys := rfl
@[simp] theorem putGang_agenda (g : Gang) : (s.putGang g).agenda = s.agenda := rfl
@[simp] theorem putGang_arg (g : Gang) : (s.putGang g).arg = s.arg := rfl
@[simp] theorem putGang_own (g : Gang) : (s.putGang g).own = s.own := rfl

/-! ## `addGang` -/

@[simp] theorem addGang_time (g : Gang) : (s.addGang g).time = s.time := rfl
@[simp] theorem addGang_mem (g : Gang) : (s.addGang g).mem = s.mem := rfl
@[simp] theorem addGang_hier (g : Gang) : (s.addGang g).hier = s.hier := rfl
@[simp] theorem addGang_cores (g : Gang) : (s.addGang g).cores = s.cores := rfl
@[simp] theorem addGang_saved (g : Gang) : (s.addGang g).saved = s.saved := rfl
@[simp] theorem addGang_gangs (g : Gang) : (s.addGang g).gangs = s.gangs ++ [g] := rfl
@[simp] theorem addGang_crews (g : Gang) : (s.addGang g).crews = s.crews := rfl
@[simp] theorem addGang_slices (g : Gang) : (s.addGang g).slices = s.slices := rfl
@[simp] theorem addGang_reqs (g : Gang) : (s.addGang g).reqs = s.reqs := rfl
@[simp] theorem addGang_ctxs (g : Gang) : (s.addGang g).ctxs = s.ctxs := rfl
@[simp] theorem addGang_queues (g : Gang) : (s.addGang g).queues = s.queues := rfl
@[simp] theorem addGang_power (g : Gang) : (s.addGang g).power = s.power := rfl
@[simp] theorem addGang_sys (g : Gang) : (s.addGang g).sys = s.sys := rfl
@[simp] theorem addGang_agenda (g : Gang) : (s.addGang g).agenda = s.agenda := rfl
@[simp] theorem addGang_arg (g : Gang) : (s.addGang g).arg = s.arg := rfl
@[simp] theorem addGang_own (g : Gang) : (s.addGang g).own = s.own := rfl

/-! ## `dropGang` -/

@[simp] theorem dropGang_time (k : GangKey) : (s.dropGang k).time = s.time := rfl
@[simp] theorem dropGang_mem (k : GangKey) : (s.dropGang k).mem = s.mem := rfl
@[simp] theorem dropGang_hier (k : GangKey) : (s.dropGang k).hier = s.hier := rfl
@[simp] theorem dropGang_cores (k : GangKey) : (s.dropGang k).cores = s.cores := rfl
@[simp] theorem dropGang_saved (k : GangKey) : (s.dropGang k).saved = s.saved := rfl
@[simp] theorem dropGang_gangs (k : GangKey) : (s.dropGang k).gangs = s.gangs.filter fun g => g.key != k := rfl
@[simp] theorem dropGang_crews (k : GangKey) : (s.dropGang k).crews = s.crews := rfl
@[simp] theorem dropGang_slices (k : GangKey) : (s.dropGang k).slices = s.slices := rfl
@[simp] theorem dropGang_reqs (k : GangKey) : (s.dropGang k).reqs = s.reqs := rfl
@[simp] theorem dropGang_ctxs (k : GangKey) : (s.dropGang k).ctxs = s.ctxs := rfl
@[simp] theorem dropGang_queues (k : GangKey) : (s.dropGang k).queues = s.queues := rfl
@[simp] theorem dropGang_power (k : GangKey) : (s.dropGang k).power = s.power := rfl
@[simp] theorem dropGang_sys (k : GangKey) : (s.dropGang k).sys = s.sys := rfl
@[simp] theorem dropGang_agenda (k : GangKey) : (s.dropGang k).agenda = s.agenda := rfl
@[simp] theorem dropGang_arg (k : GangKey) : (s.dropGang k).arg = s.arg := rfl
@[simp] theorem dropGang_own (k : GangKey) : (s.dropGang k).own = s.own := rfl

/-! ## `mapGangs` -/

@[simp] theorem mapGangs_time (f : Gang → Gang) : (s.mapGangs f).time = s.time := rfl
@[simp] theorem mapGangs_mem (f : Gang → Gang) : (s.mapGangs f).mem = s.mem := rfl
@[simp] theorem mapGangs_hier (f : Gang → Gang) : (s.mapGangs f).hier = s.hier := rfl
@[simp] theorem mapGangs_cores (f : Gang → Gang) : (s.mapGangs f).cores = s.cores := rfl
@[simp] theorem mapGangs_saved (f : Gang → Gang) : (s.mapGangs f).saved = s.saved := rfl
@[simp] theorem mapGangs_gangs (f : Gang → Gang) : (s.mapGangs f).gangs = s.gangs.map f := rfl
@[simp] theorem mapGangs_crews (f : Gang → Gang) : (s.mapGangs f).crews = s.crews := rfl
@[simp] theorem mapGangs_slices (f : Gang → Gang) : (s.mapGangs f).slices = s.slices := rfl
@[simp] theorem mapGangs_reqs (f : Gang → Gang) : (s.mapGangs f).reqs = s.reqs := rfl
@[simp] theorem mapGangs_ctxs (f : Gang → Gang) : (s.mapGangs f).ctxs = s.ctxs := rfl
@[simp] theorem mapGangs_queues (f : Gang → Gang) : (s.mapGangs f).queues = s.queues := rfl
@[simp] theorem mapGangs_power (f : Gang → Gang) : (s.mapGangs f).power = s.power := rfl
@[simp] theorem mapGangs_sys (f : Gang → Gang) : (s.mapGangs f).sys = s.sys := rfl
@[simp] theorem mapGangs_agenda (f : Gang → Gang) : (s.mapGangs f).agenda = s.agenda := rfl
@[simp] theorem mapGangs_arg (f : Gang → Gang) : (s.mapGangs f).arg = s.arg := rfl
@[simp] theorem mapGangs_own (f : Gang → Gang) : (s.mapGangs f).own = s.own := rfl

/-! ## `putCrew` -/

@[simp] theorem putCrew_time (c : Crew) : (s.putCrew c).time = s.time := rfl
@[simp] theorem putCrew_mem (c : Crew) : (s.putCrew c).mem = s.mem := rfl
@[simp] theorem putCrew_hier (c : Crew) : (s.putCrew c).hier = s.hier := rfl
@[simp] theorem putCrew_cores (c : Crew) : (s.putCrew c).cores = s.cores := rfl
@[simp] theorem putCrew_saved (c : Crew) : (s.putCrew c).saved = s.saved := rfl
@[simp] theorem putCrew_gangs (c : Crew) : (s.putCrew c).gangs = s.gangs := rfl
@[simp] theorem putCrew_crews (c : Crew) : (s.putCrew c).crews = s.crews.map fun x => if x.key = c.key then c else x := rfl
@[simp] theorem putCrew_slices (c : Crew) : (s.putCrew c).slices = s.slices := rfl
@[simp] theorem putCrew_reqs (c : Crew) : (s.putCrew c).reqs = s.reqs := rfl
@[simp] theorem putCrew_ctxs (c : Crew) : (s.putCrew c).ctxs = s.ctxs := rfl
@[simp] theorem putCrew_queues (c : Crew) : (s.putCrew c).queues = s.queues := rfl
@[simp] theorem putCrew_power (c : Crew) : (s.putCrew c).power = s.power := rfl
@[simp] theorem putCrew_sys (c : Crew) : (s.putCrew c).sys = s.sys := rfl
@[simp] theorem putCrew_agenda (c : Crew) : (s.putCrew c).agenda = s.agenda := rfl
@[simp] theorem putCrew_arg (c : Crew) : (s.putCrew c).arg = s.arg := rfl
@[simp] theorem putCrew_own (c : Crew) : (s.putCrew c).own = s.own := rfl

/-! ## `putSlice` -/

@[simp] theorem putSlice_time (c : Slice) : (s.putSlice c).time = s.time := rfl
@[simp] theorem putSlice_mem (c : Slice) : (s.putSlice c).mem = s.mem := rfl
@[simp] theorem putSlice_hier (c : Slice) : (s.putSlice c).hier = s.hier := rfl
@[simp] theorem putSlice_cores (c : Slice) : (s.putSlice c).cores = s.cores := rfl
@[simp] theorem putSlice_saved (c : Slice) : (s.putSlice c).saved = s.saved := rfl
@[simp] theorem putSlice_gangs (c : Slice) : (s.putSlice c).gangs = s.gangs := rfl
@[simp] theorem putSlice_crews (c : Slice) : (s.putSlice c).crews = s.crews := rfl
@[simp] theorem putSlice_slices (c : Slice) : (s.putSlice c).slices = s.slices.map fun x => if x.id = c.id then c else x := rfl
@[simp] theorem putSlice_reqs (c : Slice) : (s.putSlice c).reqs = s.reqs := rfl
@[simp] theorem putSlice_ctxs (c : Slice) : (s.putSlice c).ctxs = s.ctxs := rfl
@[simp] theorem putSlice_queues (c : Slice) : (s.putSlice c).queues = s.queues := rfl
@[simp] theorem putSlice_power (c : Slice) : (s.putSlice c).power = s.power := rfl
@[simp] theorem putSlice_sys (c : Slice) : (s.putSlice c).sys = s.sys := rfl
@[simp] theorem putSlice_agenda (c : Slice) : (s.putSlice c).agenda = s.agenda := rfl
@[simp] theorem putSlice_arg (c : Slice) : (s.putSlice c).arg = s.arg := rfl
@[simp] theorem putSlice_own (c : Slice) : (s.putSlice c).own = s.own := rfl

/-! ## `putCtx` -/

@[simp] theorem putCtx_time (c : Ctx) : (s.putCtx c).time = s.time := rfl
@[simp] theorem putCtx_mem (c : Ctx) : (s.putCtx c).mem = s.mem := rfl
@[simp] theorem putCtx_hier (c : Ctx) : (s.putCtx c).hier = s.hier := rfl
@[simp] theorem putCtx_cores (c : Ctx) : (s.putCtx c).cores = s.cores := rfl
@[simp] theorem putCtx_saved (c : Ctx) : (s.putCtx c).saved = s.saved := rfl
@[simp] theorem putCtx_gangs (c : Ctx) : (s.putCtx c).gangs = s.gangs := rfl
@[simp] theorem putCtx_crews (c : Ctx) : (s.putCtx c).crews = s.crews := rfl
@[simp] theorem putCtx_slices (c : Ctx) : (s.putCtx c).slices = s.slices := rfl
@[simp] theorem putCtx_reqs (c : Ctx) : (s.putCtx c).reqs = s.reqs := rfl
@[simp] theorem putCtx_ctxs (c : Ctx) : (s.putCtx c).ctxs = s.ctxs.map fun x => if x.id = c.id then c else x := rfl
@[simp] theorem putCtx_queues (c : Ctx) : (s.putCtx c).queues = s.queues := rfl
@[simp] theorem putCtx_power (c : Ctx) : (s.putCtx c).power = s.power := rfl
@[simp] theorem putCtx_sys (c : Ctx) : (s.putCtx c).sys = s.sys := rfl
@[simp] theorem putCtx_agenda (c : Ctx) : (s.putCtx c).agenda = s.agenda := rfl
@[simp] theorem putCtx_arg (c : Ctx) : (s.putCtx c).arg = s.arg := rfl
@[simp] theorem putCtx_own (c : Ctx) : (s.putCtx c).own = s.own := rfl

/-! ## `putReq` -/

@[simp] theorem putReq_time (r : Req) : (s.putReq r).time = s.time := rfl
@[simp] theorem putReq_mem (r : Req) : (s.putReq r).mem = s.mem := rfl
@[simp] theorem putReq_hier (r : Req) : (s.putReq r).hier = s.hier := rfl
@[simp] theorem putReq_cores (r : Req) : (s.putReq r).cores = s.cores := rfl
@[simp] theorem putReq_saved (r : Req) : (s.putReq r).saved = s.saved := rfl
@[simp] theorem putReq_gangs (r : Req) : (s.putReq r).gangs = s.gangs := rfl
@[simp] theorem putReq_crews (r : Req) : (s.putReq r).crews = s.crews := rfl
@[simp] theorem putReq_slices (r : Req) : (s.putReq r).slices = s.slices := rfl
@[simp] theorem putReq_reqs (r : Req) : (s.putReq r).reqs = s.reqs.map fun x => if x.id = r.id then r else x := rfl
@[simp] theorem putReq_ctxs (r : Req) : (s.putReq r).ctxs = s.ctxs := rfl
@[simp] theorem putReq_queues (r : Req) : (s.putReq r).queues = s.queues := rfl
@[simp] theorem putReq_power (r : Req) : (s.putReq r).power = s.power := rfl
@[simp] theorem putReq_sys (r : Req) : (s.putReq r).sys = s.sys := rfl
@[simp] theorem putReq_agenda (r : Req) : (s.putReq r).agenda = s.agenda := rfl
@[simp] theorem putReq_arg (r : Req) : (s.putReq r).arg = s.arg := rfl
@[simp] theorem putReq_own (r : Req) : (s.putReq r).own = s.own := rfl

/-! ## `dropReq` -/

@[simp] theorem dropReq_time (n : Nat) : (s.dropReq n).time = s.time := rfl
@[simp] theorem dropReq_mem (n : Nat) : (s.dropReq n).mem = s.mem := rfl
@[simp] theorem dropReq_hier (n : Nat) : (s.dropReq n).hier = s.hier := rfl
@[simp] theorem dropReq_cores (n : Nat) : (s.dropReq n).cores = s.cores := rfl
@[simp] theorem dropReq_saved (n : Nat) : (s.dropReq n).saved = s.saved := rfl
@[simp] theorem dropReq_gangs (n : Nat) : (s.dropReq n).gangs = s.gangs := rfl
@[simp] theorem dropReq_crews (n : Nat) : (s.dropReq n).crews = s.crews := rfl
@[simp] theorem dropReq_slices (n : Nat) : (s.dropReq n).slices = s.slices := rfl
@[simp] theorem dropReq_reqs (n : Nat) : (s.dropReq n).reqs = s.reqs.filter fun r => r.id != n := rfl
@[simp] theorem dropReq_ctxs (n : Nat) : (s.dropReq n).ctxs = s.ctxs := rfl
@[simp] theorem dropReq_queues (n : Nat) : (s.dropReq n).queues = s.queues := rfl
@[simp] theorem dropReq_power (n : Nat) : (s.dropReq n).power = s.power := rfl
@[simp] theorem dropReq_sys (n : Nat) : (s.dropReq n).sys = s.sys := rfl
@[simp] theorem dropReq_agenda (n : Nat) : (s.dropReq n).agenda = s.agenda := rfl
@[simp] theorem dropReq_arg (n : Nat) : (s.dropReq n).arg = s.arg := rfl
@[simp] theorem dropReq_own (n : Nat) : (s.dropReq n).own = s.own := rfl

/-! ## `scheduleTask` -/

@[simp] theorem scheduleTask_time (d : Due) : (s.scheduleTask d).time = s.time := rfl
@[simp] theorem scheduleTask_mem (d : Due) : (s.scheduleTask d).mem = s.mem := rfl
@[simp] theorem scheduleTask_hier (d : Due) : (s.scheduleTask d).hier = s.hier := rfl
@[simp] theorem scheduleTask_cores (d : Due) : (s.scheduleTask d).cores = s.cores := rfl
@[simp] theorem scheduleTask_saved (d : Due) : (s.scheduleTask d).saved = s.saved := rfl
@[simp] theorem scheduleTask_gangs (d : Due) : (s.scheduleTask d).gangs = s.gangs := rfl
@[simp] theorem scheduleTask_crews (d : Due) : (s.scheduleTask d).crews = s.crews := rfl
@[simp] theorem scheduleTask_slices (d : Due) : (s.scheduleTask d).slices = s.slices := rfl
@[simp] theorem scheduleTask_reqs (d : Due) : (s.scheduleTask d).reqs = s.reqs := rfl
@[simp] theorem scheduleTask_ctxs (d : Due) : (s.scheduleTask d).ctxs = s.ctxs := rfl
@[simp] theorem scheduleTask_queues (d : Due) : (s.scheduleTask d).queues = s.queues := rfl
@[simp] theorem scheduleTask_power (d : Due) : (s.scheduleTask d).power = s.power := rfl
@[simp] theorem scheduleTask_sys (d : Due) : (s.scheduleTask d).sys = s.sys := rfl
@[simp] theorem scheduleTask_agenda (d : Due) : (s.scheduleTask d).agenda = insertBy (fun x y => x.tick < y.tick || (x.tick = y.tick && x.rank < y.rank)) d s.agenda := rfl
@[simp] theorem scheduleTask_arg (d : Due) : (s.scheduleTask d).arg = s.arg := rfl
@[simp] theorem scheduleTask_own (d : Due) : (s.scheduleTask d).own = s.own := rfl

/-! ## `schedule` -/

@[simp] theorem schedule_time (t : Nat) (i : Instr) (a : EvArg) : (s.schedule t i a).time = s.time := rfl
@[simp] theorem schedule_mem (t : Nat) (i : Instr) (a : EvArg) : (s.schedule t i a).mem = s.mem := rfl
@[simp] theorem schedule_hier (t : Nat) (i : Instr) (a : EvArg) : (s.schedule t i a).hier = s.hier := rfl
@[simp] theorem schedule_cores (t : Nat) (i : Instr) (a : EvArg) : (s.schedule t i a).cores = s.cores := rfl
@[simp] theorem schedule_saved (t : Nat) (i : Instr) (a : EvArg) : (s.schedule t i a).saved = s.saved := rfl
@[simp] theorem schedule_gangs (t : Nat) (i : Instr) (a : EvArg) : (s.schedule t i a).gangs = s.gangs := rfl
@[simp] theorem schedule_crews (t : Nat) (i : Instr) (a : EvArg) : (s.schedule t i a).crews = s.crews := rfl
@[simp] theorem schedule_slices (t : Nat) (i : Instr) (a : EvArg) : (s.schedule t i a).slices = s.slices := rfl
@[simp] theorem schedule_reqs (t : Nat) (i : Instr) (a : EvArg) : (s.schedule t i a).reqs = s.reqs := rfl
@[simp] theorem schedule_ctxs (t : Nat) (i : Instr) (a : EvArg) : (s.schedule t i a).ctxs = s.ctxs := rfl
@[simp] theorem schedule_queues (t : Nat) (i : Instr) (a : EvArg) : (s.schedule t i a).queues = s.queues := rfl
@[simp] theorem schedule_power (t : Nat) (i : Instr) (a : EvArg) : (s.schedule t i a).power = s.power := rfl
@[simp] theorem schedule_sys (t : Nat) (i : Instr) (a : EvArg) : (s.schedule t i a).sys = s.sys := rfl
@[simp] theorem schedule_agenda (t : Nat) (i : Instr) (a : EvArg) : (s.schedule t i a).agenda = (s.scheduleTask ⟨t, 3, .ev i, a⟩).agenda := rfl
@[simp] theorem schedule_arg (t : Nat) (i : Instr) (a : EvArg) : (s.schedule t i a).arg = s.arg := rfl
@[simp] theorem schedule_own (t : Nat) (i : Instr) (a : EvArg) : (s.schedule t i a).own = s.own := rfl

/-! ## `unschedule` -/

@[simp] theorem unschedule_time (drop : Due → Bool) : (s.unschedule drop).time = s.time := rfl
@[simp] theorem unschedule_mem (drop : Due → Bool) : (s.unschedule drop).mem = s.mem := rfl
@[simp] theorem unschedule_hier (drop : Due → Bool) : (s.unschedule drop).hier = s.hier := rfl
@[simp] theorem unschedule_cores (drop : Due → Bool) : (s.unschedule drop).cores = s.cores := rfl
@[simp] theorem unschedule_saved (drop : Due → Bool) : (s.unschedule drop).saved = s.saved := rfl
@[simp] theorem unschedule_gangs (drop : Due → Bool) : (s.unschedule drop).gangs = s.gangs := rfl
@[simp] theorem unschedule_crews (drop : Due → Bool) : (s.unschedule drop).crews = s.crews := rfl
@[simp] theorem unschedule_slices (drop : Due → Bool) : (s.unschedule drop).slices = s.slices := rfl
@[simp] theorem unschedule_reqs (drop : Due → Bool) : (s.unschedule drop).reqs = s.reqs := rfl
@[simp] theorem unschedule_ctxs (drop : Due → Bool) : (s.unschedule drop).ctxs = s.ctxs := rfl
@[simp] theorem unschedule_queues (drop : Due → Bool) : (s.unschedule drop).queues = s.queues := rfl
@[simp] theorem unschedule_power (drop : Due → Bool) : (s.unschedule drop).power = s.power := rfl
@[simp] theorem unschedule_sys (drop : Due → Bool) : (s.unschedule drop).sys = s.sys := rfl
@[simp] theorem unschedule_agenda (drop : Due → Bool) : (s.unschedule drop).agenda = s.agenda.filter fun d => !drop d := rfl
@[simp] theorem unschedule_arg (drop : Due → Bool) : (s.unschedule drop).arg = s.arg := rfl
@[simp] theorem unschedule_own (drop : Due → Bool) : (s.unschedule drop).own = s.own := rfl

/-! ## `useFree` -/

@[simp] theorem useFree_time (n : Nat) : (s.useFree n).time = s.time := rfl
@[simp] theorem useFree_mem (n : Nat) : (s.useFree n).mem = s.mem := rfl
@[simp] theorem useFree_hier (n : Nat) : (s.useFree n).hier = s.hier := rfl
@[simp] theorem useFree_cores (n : Nat) : (s.useFree n).cores = s.cores := rfl
@[simp] theorem useFree_saved (n : Nat) : (s.useFree n).saved = s.saved := rfl
@[simp] theorem useFree_gangs (n : Nat) : (s.useFree n).gangs = s.gangs := rfl
@[simp] theorem useFree_crews (n : Nat) : (s.useFree n).crews = s.crews := rfl
@[simp] theorem useFree_slices (n : Nat) : (s.useFree n).slices = s.slices := rfl
@[simp] theorem useFree_reqs (n : Nat) : (s.useFree n).reqs = s.reqs := rfl
@[simp] theorem useFree_ctxs (n : Nat) : (s.useFree n).ctxs = s.ctxs := rfl
@[simp] theorem useFree_queues (n : Nat) : (s.useFree n).queues = s.queues := rfl
@[simp] theorem useFree_power (n : Nat) : (s.useFree n).power = s.power := rfl
@[simp] theorem useFree_sys (n : Nat) : (s.useFree n).sys = s.sys := rfl
@[simp] theorem useFree_agenda (n : Nat) : (s.useFree n).agenda = s.agenda := rfl
@[simp] theorem useFree_arg (n : Nat) : (s.useFree n).arg = s.arg := rfl
@[simp] theorem useFree_own (n : Nat) : (s.useFree n).own = { s.own with free := s.own.free + n } := rfl

end Sys2Proof.Machine.State
end

