-- ==== Sys2Proof/Laws/Lookup.lean ====
section
/-!
SUPPORT. What a lookup finds after an update: gangs, cores, crews, slices, requests, contexts.
-/
namespace Sys2Proof.Machine

theorem find?_replace {α β : Type} [DecidableEq β] (key : α → β) (a : α) (xs : List α) (k : β) :
    (xs.map fun x => if key x = key a then a else x).find? (fun x => decide (key x = k)) =
      if k = key a then (xs.find? fun x => decide (key x = k)).map fun _ => a
      else xs.find? fun x => decide (key x = k) := by
  induction xs with
  | nil => simp
  | cons x xs ih =>
    simp only [List.map_cons, List.find?_cons]
    by_cases hx : key x = key a
    · simp only [hx, if_true]
      by_cases hk : k = key a
      · simp [hk]
      · have hk' : ¬ key a = k := fun h => hk h.symm
        simp only [if_neg hk, decide_eq_false hk']
        rw [ih, if_neg hk]
    · simp only [if_neg hx]
      by_cases hk : key x = k
      · simp only [hk, decide_true]
        rw [if_neg (by rw [← hk]; exact hx)]
      · simp only [decide_eq_false hk]
        exact ih

namespace State

variable (s : State)

/-! ## Gangs -/

theorem gang?_key {s : State} {k : GangKey} {g : Gang} (h : s.gang? k = some g) : g.key = k := by
  have := List.find?_some h; simpa using this

theorem gang?_putGang (g : Gang) (k : GangKey) :
    (s.putGang g).gang? k = if k = g.key then (s.gang? k).map fun _ => g else s.gang? k :=
  find?_replace Gang.key g s.gangs k

theorem gang?_putGang_self {s : State} {g x : Gang} (h : s.gang? g.key = some x) : (s.putGang g).gang? g.key = some g := by
  rw [gang?_putGang, if_pos rfl, h]; rfl

theorem gang?_putGang_other {s : State} {g : Gang} {k : GangKey} (h : k ≠ g.key) : (s.putGang g).gang? k = s.gang? k := by
  rw [gang?_putGang, if_neg h]

theorem gang?_putGang_putGang (g g' : Gang) (h : g'.key = g.key) (k : GangKey) :
    ((s.putGang g).putGang g').gang? k = (s.putGang g').gang? k := by
  rw [gang?_putGang, gang?_putGang, gang?_putGang, h]
  cases s.gang? k <;> by_cases hk : k = g.key <;> simp [hk]

/-- A gang that stands in the state and is put back unchanged in key is found again. -/
theorem gang?_isSome_putGang (g : Gang) (k : GangKey) : ((s.putGang g).gang? k).isSome = (s.gang? k).isSome := by
  rw [gang?_putGang]; split <;> simp

@[simp] theorem gang?_setTime (x : Clocks) (k : GangKey) : (s.setTime x).gang? k = s.gang? k := rfl
@[simp] theorem gang?_setMem (x : List Host.Cell) (k : GangKey) : (s.setMem x).gang? k = s.gang? k := rfl
@[simp] theorem gang?_setHier (x : Hier) (k : GangKey) : (s.setHier x).gang? k = s.gang? k := rfl
@[simp] theorem gang?_setCore (c : CoreId) (x : Core) (k : GangKey) : (s.setCore c x).gang? k = s.gang? k := rfl
@[simp] theorem gang?_setCc (c : CoreId) (x : CoreCtx) (k : GangKey) : (s.setCc c x).gang? k = s.gang? k := rfl
@[simp] theorem gang?_putCrew (x : Crew) (k : GangKey) : (s.putCrew x).gang? k = s.gang? k := rfl
@[simp] theorem gang?_putSlice (x : Slice) (k : GangKey) : (s.putSlice x).gang? k = s.gang? k := rfl
@[simp] theorem gang?_setReqs (x : List Req) (k : GangKey) : (s.setReqs x).gang? k = s.gang? k := rfl
@[simp] theorem gang?_putReq (x : Req) (k : GangKey) : (s.putReq x).gang? k = s.gang? k := rfl
@[simp] theorem gang?_putCtx (x : Ctx) (k : GangKey) : (s.putCtx x).gang? k = s.gang? k := rfl
@[simp] theorem gang?_setSys (x : Sys) (k : GangKey) : (s.setSys x).gang? k = s.gang? k := rfl
@[simp] theorem gang?_setOwn (x : Model) (k : GangKey) : (s.setOwn x).gang? k = s.gang? k := rfl
@[simp] theorem gang?_setArg (x : EvArg) (k : GangKey) : (s.setArg x).gang? k = s.gang? k := rfl
@[simp] theorem gang?_schedule (t : Nat) (i : Instr) (a : EvArg) (k : GangKey) : (s.schedule t i a).gang? k = s.gang? k := rfl
@[simp] theorem gang?_scheduleTask (d : Due) (k : GangKey) : (s.scheduleTask d).gang? k = s.gang? k := rfl
@[simp] theorem gang?_useFree (n : Nat) (k : GangKey) : (s.useFree n).gang? k = s.gang? k := rfl

/-! ## Cores -/

theorem core_setCore (c k : CoreId) (x : Core) : (s.setCore c x).core k = if k = c then x else s.core k := by
  unfold State.core State.setCore State.setCores
  by_cases h : k = c
  · subst h; simp
  · rw [if_neg h]; simp [Fin.getElem_fin, Vector.getElem_set, Fin.val_inj, Ne.symm h]

@[simp] theorem core_setCore_self (c : CoreId) (x : Core) : (s.setCore c x).core c = x := by rw [core_setCore, if_pos rfl]
theorem core_setCore_other {c k : CoreId} (x : Core) (h : k ≠ c) : (s.setCore c x).core k = s.core k := by
  rw [core_setCore, if_neg h]

@[simp] theorem core_putGang (g : Gang) (k : CoreId) : (s.putGang g).core k = s.core k := rfl
@[simp] theorem core_setReqs (x : List Req) (k : CoreId) : (s.setReqs x).core k = s.core k := rfl
@[simp] theorem core_putSlice (x : Slice) (k : CoreId) : (s.putSlice x).core k = s.core k := rfl
@[simp] theorem core_schedule (t : Nat) (i : Instr) (a : EvArg) (k : CoreId) : (s.schedule t i a).core k = s.core k := rfl
@[simp] theorem core_useFree (n : Nat) (k : CoreId) : (s.useFree n).core k = s.core k := rfl
@[simp] theorem cc_putGang (g : Gang) (k : CoreId) : (s.putGang g).cc k = s.cc k := rfl
@[simp] theorem cc_useFree (n : Nat) (k : CoreId) : (s.useFree n).cc k = s.cc k := rfl

theorem cc_setCc (c k : CoreId) (x : CoreCtx) : (s.setCc c x).cc k = if k = c then x else s.cc k := by
  unfold State.cc State.setCc
  rw [core_setCore]; split <;> rfl

@[simp] theorem cc_setCc_self (c : CoreId) (x : CoreCtx) : (s.setCc c x).cc c = x := by rw [cc_setCc, if_pos rfl]

/-! ## Crews, slices, requests, contexts -/

theorem crew?_putCrew (c : Crew) (k : CrewKey) :
    (s.putCrew c).crew? k = if k = c.key then (s.crew? k).map fun _ => c else s.crew? k :=
  find?_replace Crew.key c s.crews k

theorem slice?_putSlice (c : Slice) (k : LaunchId) :
    (s.putSlice c).slice? k = if k = c.id then (s.slice? k).map fun _ => c else s.slice? k :=
  find?_replace Slice.id c s.slices k

theorem req?_putReq (r : Req) (n : Nat) :
    (s.putReq r).req? n = if n = r.id then (s.req? n).map fun _ => r else s.req? n :=
  find?_replace Req.id r s.reqs n

theorem slice?_id {s : State} {k : LaunchId} {l : Slice} (h : s.slice? k = some l) : l.id = k := by
  have := List.find?_some h; simpa using this

theorem crew?_key {s : State} {k : CrewKey} {c : Crew} (h : s.crew? k = some c) : c.key = k := by
  have := List.find?_some h; simpa using this

theorem req?_id {s : State} {n : Nat} {r : Req} (h : s.req? n = some r) : r.id = n := by
  have := List.find?_some h; simpa using this

end State

end Sys2Proof.Machine
end

