-- ==== Sys2Proof/Laws/Count.lean ====
section
/-!
SUPPORT. Counting events (R376, R377) touches nothing but the event counters of one core and, where a counter that a gang has
read in the same clock wraps, bit 63 of that gang's register (R379).
-/
namespace Sys2Proof.Machine

/-! ## A gang that only its counter reads have changed -/

theorem SameOther.refl (x : Gang) : SameOther x x := ⟨rfl, fun _ => .inl rfl⟩

theorem SameOther.trans {x y z : Gang} (h1 : SameOther x y) (h2 : SameOther y z) : SameOther x z := by
  refine ⟨?_, fun n => ?_⟩
  · have e1 := h1.1
    have e2 := h2.1
    calc { z with s := x.s } = { ({ z with s := y.s } : Gang) with s := x.s } := rfl
      _ = { y with s := x.s } := by rw [e2]
      _ = x := e1
  · rcases h1.2 n with e1 | e1 <;> rcases h2.2 n with e2 | e2 <;> rw [e2, e1]
    · exact .inl rfl
    · exact .inr rfl
    · exact .inr rfl
    · right
      rw [BitVec.or_assoc, BitVec.or_self]

/-- The gangs of `t` are those of `s`, up to their counter reads. -/
def SameGangs (s t : State) : Prop :=
  ∀ k, (s.gang? k = none → t.gang? k = none) ∧ ∀ x, s.gang? k = some x → ∃ y, t.gang? k = some y ∧ SameOther x y

theorem SameGangs.refl (s : State) : SameGangs s s := fun _ => ⟨id, fun x h => ⟨x, h, SameOther.refl x⟩⟩

theorem SameGangs.trans {s t u : State} (h1 : SameGangs s t) (h2 : SameGangs t u) : SameGangs s u := fun k =>
  ⟨fun h => (h2 k).1 ((h1 k).1 h), fun x h => by
    obtain ⟨y, hy, e1⟩ := (h1 k).2 x h
    obtain ⟨z, hz, e2⟩ := (h2 k).2 y hy
    exact ⟨z, hz, SameOther.trans e1 e2⟩⟩

theorem SameGangs.of_eq {s t : State} (h : t.gangs = s.gangs) : SameGangs s t := fun k =>
  ⟨fun e => by rw [State.gang?, h]; exact e, fun x e => ⟨x, by rw [State.gang?, h]; exact e, SameOther.refl x⟩⟩

namespace State

/-- A gang whose register `n` has its overflow bit set. -/
theorem sameOther_mark (x : Gang) (n : SReg) :
    SameOther x { x with s := x.s.set n (x.s[n] ||| 0x8000000000000000) } := by
  refine ⟨rfl, fun m => ?_⟩
  by_cases h : m = n
  · subst h; right; simp
  · left
    simp [Fin.getElem_fin, Vector.getElem_set, Fin.val_inj, Ne.symm h]

theorem sameGangs_markOverflow (s : State) (r : GangKey × SReg) : SameGangs s (s.markOverflow r) := by
  intro k
  unfold markOverflow
  cases h : s.gang? r.1 with
  | none => exact ⟨id, fun x hx => ⟨x, hx, SameOther.refl x⟩⟩
  | some g =>
    have hg : g.key = r.1 := gang?_key h
    simp only [gang?_putGang]
    by_cases hk : k = r.1
    · subst hk
      rw [if_pos hg.symm, h]
      refine ⟨(fun e => nomatch e), fun x hx => ?_⟩
      obtain rfl : g = x := Option.some.inj hx
      exact ⟨_, rfl, sameOther_mark g r.2⟩
    · rw [if_neg (fun e => hk (e.trans hg))]
      exact ⟨id, fun x hx => ⟨x, hx, SameOther.refl x⟩⟩

/-- What counting leaves: every field but the cores and the gangs, and the gangs up to their counter reads. -/
structure Marked (s t : State) : Prop where
  gangs  : SameGangs s t
  time   : t.time = s.time
  mem    : t.mem = s.mem
  hier   : t.hier = s.hier
  cores  : t.cores = s.cores
  saved  : t.saved = s.saved
  crews  : t.crews = s.crews
  slices : t.slices = s.slices
  reqs   : t.reqs = s.reqs
  ctxs   : t.ctxs = s.ctxs
  queues : t.queues = s.queues
  power  : t.power = s.power
  sys    : t.sys = s.sys
  agenda : t.agenda = s.agenda
  arg    : t.arg = s.arg
  own    : t.own = s.own

theorem Marked.refl (s : State) : Marked s s := ⟨SameGangs.refl s, rfl, rfl, rfl, rfl, rfl, rfl, rfl, rfl, rfl, rfl, rfl, rfl, rfl, rfl, rfl⟩

theorem Marked.trans {s t u : State} (h1 : Marked s t) (h2 : Marked t u) : Marked s u :=
  ⟨h1.gangs.trans h2.gangs, h2.time.trans h1.time, h2.mem.trans h1.mem, h2.hier.trans h1.hier, h2.cores.trans h1.cores,
   h2.saved.trans h1.saved, h2.crews.trans h1.crews, h2.slices.trans h1.slices, h2.reqs.trans h1.reqs, h2.ctxs.trans h1.ctxs,
   h2.queues.trans h1.queues, h2.power.trans h1.power, h2.sys.trans h1.sys, h2.agenda.trans h1.agenda, h2.arg.trans h1.arg,
   h2.own.trans h1.own⟩

theorem marked_markOverflow (s : State) (r : GangKey × SReg) : Marked s (s.markOverflow r) := by
  have hg := sameGangs_markOverflow s r
  unfold markOverflow at hg ⊢
  split
  · rename_i e; simp only [e] at hg; exact ⟨hg, rfl, rfl, rfl, rfl, rfl, rfl, rfl, rfl, rfl, rfl, rfl, rfl, rfl, rfl, rfl⟩
  · exact Marked.refl s

theorem marked_foldl (rs : List (GangKey × SReg)) (s : State) : Marked s (rs.foldl State.markOverflow s) := by
  induction rs generalizing s with
  | nil => exact Marked.refl s
  | cons r rs ih => exact (marked_markOverflow s r).trans (ih _)

/-- The counters of a core after counting. -/
theorem count_marked (s : State) (c : CoreId) (code n : Nat) (q : Option (Fin 4)) (l : Option LaunchId) :
    ∃ ev, Marked (s.setCc c { s.cc c with ev := ev }) (s.count c code n q l) :=
  ⟨_, marked_foldl _ _⟩

section
variable (s : State) (c : CoreId) (code n : Nat) (q : Option (Fin 4)) (l : Option LaunchId)

theorem gangs_count : SameGangs s (s.count c code n q l) := by
  obtain ⟨ev, h⟩ := count_marked s c code n q l
  exact (SameGangs.of_eq (t := s.setCc c { s.cc c with ev := ev }) rfl).trans h.gangs
@[simp] theorem time_count : (s.count c code n q l).time = s.time := by
  obtain ⟨ev, h⟩ := count_marked s c code n q l; exact h.time
@[simp] theorem mem_count : (s.count c code n q l).mem = s.mem := by
  obtain ⟨ev, h⟩ := count_marked s c code n q l; exact h.mem
@[simp] theorem hier_count : (s.count c code n q l).hier = s.hier := by
  obtain ⟨ev, h⟩ := count_marked s c code n q l; exact h.hier
@[simp] theorem saved_count : (s.count c code n q l).saved = s.saved := by
  obtain ⟨ev, h⟩ := count_marked s c code n q l; exact h.saved
@[simp] theorem crews_count : (s.count c code n q l).crews = s.crews := by
  obtain ⟨ev, h⟩ := count_marked s c code n q l; exact h.crews
@[simp] theorem slices_count : (s.count c code n q l).slices = s.slices := by
  obtain ⟨ev, h⟩ := count_marked s c code n q l; exact h.slices
@[simp] theorem reqs_count : (s.count c code n q l).reqs = s.reqs := by
  obtain ⟨ev, h⟩ := count_marked s c code n q l; exact h.reqs
@[simp] theorem ctxs_count : (s.count c code n q l).ctxs = s.ctxs := by
  obtain ⟨ev, h⟩ := count_marked s c code n q l; exact h.ctxs
@[simp] theorem queues_count : (s.count c code n q l).queues = s.queues := by
  obtain ⟨ev, h⟩ := count_marked s c code n q l; exact h.queues
@[simp] theorem power_count : (s.count c code n q l).power = s.power := by
  obtain ⟨ev, h⟩ := count_marked s c code n q l; exact h.power
@[simp] theorem sys_count : (s.count c code n q l).sys = s.sys := by
  obtain ⟨ev, h⟩ := count_marked s c code n q l; exact h.sys
@[simp] theorem agenda_count : (s.count c code n q l).agenda = s.agenda := by
  obtain ⟨ev, h⟩ := count_marked s c code n q l; exact h.agenda
@[simp] theorem arg_count : (s.count c code n q l).arg = s.arg := by
  obtain ⟨ev, h⟩ := count_marked s c code n q l; exact h.arg
@[simp] theorem own_count : (s.count c code n q l).own = s.own := by
  obtain ⟨ev, h⟩ := count_marked s c code n q l; exact h.own

/-- Counting changes the counters of its core and nothing else of any core. -/
theorem core_count (k : CoreId) : ∃ ev, (s.count c code n q l).core k = { s.core k with cc := { s.cc k with ev := ev } } := by
  obtain ⟨ev, h⟩ := count_marked s c code n q l
  have : (s.count c code n q l).core k = (s.setCc c { s.cc c with ev := ev }).core k := by
    unfold State.core; rw [h.cores]
  rw [this]
  unfold State.setCc
  rw [core_setCore]
  by_cases hk : k = c
  · subst hk; exact ⟨ev, by simp [State.cc]⟩
  · exact ⟨(s.cc k).ev, by rw [if_neg hk]; rfl⟩
end

end State

end Sys2Proof.Machine
end

