-- ==== Sys2Proof/Laws/Words.lean ====
section
/-!
SUPPORT. What an instruction word can do, said once: its issue clock, its end, and a word that works on its gang's registers
alone.
-/
namespace Sys2Proof.Machine

/-! ## The issuing gang and the checks -/

theorem State.issuing_eq {s : State} {g : Gang} {e : Entry} {c : Clause} (h : s.issuing = some (g, e, c)) :
    s.gang? s.own.cur = some g ∧ g.sel = some e ∧ g.clause = some c ∧ g.probing = none := by
  unfold State.issuing at h
  split at h
  · rename_i x hx
    split at h
    · rename_i e' c' he hc hp
      simp only [Option.some.injEq, Prod.mk.injEq] at h
      obtain ⟨rfl, rfl, rfl⟩ := h
      exact ⟨hx, he, hc, hp⟩
    · cases h
  · cases h

theorem State.issuing_key {s : State} {g : Gang} {e : Entry} {c : Clause} (h : s.issuing = some (g, e, c)) :
    s.gang? g.key = some g := by
  have h1 := (State.issuing_eq h).1
  rw [State.gang?_key h1]; exact h1

/-- A word that may issue raises no trap before its own effect. -/
theorem State.wordTrap_none {s : State} {g : Gang} {w : WordSpec} (h : MayIssue s g w.kind w.reads w.writes)
    (hi : w.illegal s g = false) : s.wordTrap g w = none := by
  have hb : beyond (s.alloc g) (w.reads ++ w.writes) = false := by
    unfold beyond
    rw [List.any_eq_false]
    intro r hr
    cases r with
    | v n => have := h.alloc n hr; simp; omega
    | s n => simp
    | p n => simp
  unfold State.wordTrap
  simp only [h.role, Bool.not_true, Bool.false_eq_true, if_false, hb, hi, Bool.or_self]
  cases hs : s.slice? g.key.launch with
  | none => simp
  | some l =>
    by_cases hk : l.check = true
    · have hk' : checks s g = true := by simp [checks, hs, hk]
      simp [hk, h.early hk', h.board hk']
    · simp [hk]

/-! ## The issue clock -/

/-- Everything that an issue clock and the end of a word leave, as a relation that composes; `p` is the launch whose slice
counts the clock. -/
structure State.Steady (s t : State) (k : GangKey) (p : Bool) : Prop where
  time   : t.time = s.time
  mem    : t.mem = s.mem
  hier   : t.hier = s.hier
  cores  : ∀ c, ∃ ev n, t.core c = { s.core c with hangMark := n, cc := { s.cc c with ev := ev } }
  saved  : t.saved = s.saved
  gangs  : ∀ j x, j ≠ k → s.gang? j = some x → ∃ y, t.gang? j = some y ∧ SameOther x y
  own    : (s.gang? k).isSome = true → (t.gang? k).isSome = true
  crews  : t.crews = s.crews
  slices : ∀ l, t.slice? l = (s.slice? l).map fun x => if p = true ∧ l = k.launch then { x with count := x.count + 1 } else x
  reqs   : t.reqs.map bare = s.reqs.map bare
  ctxs   : t.ctxs = s.ctxs
  queues : t.queues = s.queues
  power  : t.power = s.power
  sys    : t.sys = s.sys

theorem State.Steady.trans {s t u : State} {k : GangKey} {p : Bool} (h1 : Steady s t k p) (h2 : Steady t u k false) :
    Steady s u k p where
  time := h2.time.trans h1.time
  mem := h2.mem.trans h1.mem
  hier := h2.hier.trans h1.hier
  cores := fun c => by
    obtain ⟨ev, n, e1⟩ := h1.cores c
    obtain ⟨ev', n', e2⟩ := h2.cores c
    refine ⟨ev', n', ?_⟩
    rw [e2]
    simp only [State.cc, e1]
  saved := h2.saved.trans h1.saved
  gangs := fun j x hj hx => by
    obtain ⟨y, hy, e1⟩ := h1.gangs j x hj hx
    obtain ⟨z, hz, e2⟩ := h2.gangs j y hj hy
    exact ⟨z, hz, SameOther.trans e1 e2⟩
  own := fun h => h2.own (h1.own h)
  crews := h2.crews.trans h1.crews
  slices := fun l => by rw [h2.slices, h1.slices]; cases s.slice? l <;> simp
  reqs := h2.reqs.trans h1.reqs
  ctxs := h2.ctxs.trans h1.ctxs
  queues := h2.queues.trans h1.queues
  power := h2.power.trans h1.power
  sys := h2.sys.trans h1.sys

theorem State.Steady.untouched {s t : State} {g : Gang} {p : Bool} (h : Steady s t g.key p) : Untouched s t g p where
  time := h.time
  mem := fun a => by rw [h.mem]
  hier := h.hier
  cores := fun k => by
    obtain ⟨ev, n, e⟩ := h.cores k
    simp only [State.cc, e]
  saved := h.saved
  gangs := h.gangs
  crews := h.crews
  slices := h.slices
  reqs := h.reqs
  ctxs := h.ctxs
  queues := h.queues
  power := h.power
  sys := h.sys

theorem map_id_if {α : Type} (o : Option α) (f : α → α) : o.map (fun x => if (false = true ∧ True) then f x else x) = o := by
  cases o <;> simp

/-- A state that differs only in its agenda, its gang `k`, the model's own fields and notes on requests. -/
theorem State.Steady.of_eqs {s t : State} {k : GangKey} (h1 : t.time = s.time) (h2 : t.mem = s.mem) (h3 : t.hier = s.hier)
    (h4 : t.cores = s.cores) (h5 : t.saved = s.saved) (h6 : ∀ j, j ≠ k → t.gang? j = s.gang? j)
    (h7 : (s.gang? k).isSome = true → (t.gang? k).isSome = true) (h8 : t.crews = s.crews) (h9 : t.slices = s.slices)
    (h10 : t.reqs.map bare = s.reqs.map bare) (h11 : t.ctxs = s.ctxs) (h12 : t.queues = s.queues) (h13 : t.power = s.power)
    (h14 : t.sys = s.sys) : Steady s t k false where
  time := h1
  mem := h2
  hier := h3
  cores := fun c => ⟨(s.cc c).ev, (s.core c).hangMark, by simp [State.core, State.cc, h4]⟩
  saved := h5
  gangs := fun j x hj hx => ⟨x, by rw [h6 j hj]; exact hx, SameOther.refl x⟩
  own := h7
  crews := h8
  slices := fun l => by unfold State.slice?; rw [h9]; cases s.slices.find? _ <;> simp
  reqs := h10
  ctxs := h11
  queues := h12
  power := h13
  sys := h14

theorem State.steady_schedule (s : State) (k : GangKey) (t : Nat) (i : Instr) (a : EvArg) :
    Steady s (s.schedule t i a) k false :=
  .of_eqs rfl rfl rfl rfl rfl (fun _ _ => rfl) id rfl rfl rfl rfl rfl rfl rfl

theorem State.steady_setOwn (s : State) (k : GangKey) (x : Model) : Steady s (s.setOwn x) k false :=
  .of_eqs rfl rfl rfl rfl rfl (fun _ _ => rfl) id rfl rfl rfl rfl rfl rfl rfl

theorem State.steady_putGang (s : State) (g : Gang) : Steady s (s.putGang g) g.key false :=
  .of_eqs rfl rfl rfl rfl rfl (fun _ h => gang?_putGang_other h) (fun h => by rw [gang?_isSome_putGang]; exact h)
    rfl rfl rfl rfl rfl rfl rfl

theorem State.steady_setReqs (s : State) (k : GangKey) (f : Req → Req) (hf : ∀ r, bare (f r) = bare r) :
    Steady s (s.setReqs (s.reqs.map f)) k false :=
  .of_eqs rfl rfl rfl rfl rfl (fun _ _ => rfl) id rfl rfl (by simp [Function.comp_def, hf]) rfl rfl rfl rfl

theorem State.steady_count (s : State) (k : GangKey) (c : CoreId) (code n : Nat) (q : Option (Fin 4)) (l : Option LaunchId) :
    Steady s (s.count c code n q l) k false where
  time := by simp
  mem := by simp
  hier := by simp
  cores := fun j => by
    obtain ⟨ev, e⟩ := core_count s c code n q l j
    exact ⟨ev, (s.core j).hangMark, by rw [e]⟩
  saved := by simp
  gangs := fun j x _ hx => (gangs_count s c code n q l j).2 x hx
  own := fun h => by
    obtain ⟨x, hx⟩ := Option.isSome_iff_exists.mp h
    obtain ⟨y, hy, -⟩ := (gangs_count s c code n q l k).2 x hx
    rw [hy]; rfl
  crews := by simp
  slices := fun i => by unfold State.slice?; rw [slices_count]; cases s.slices.find? _ <;> simp
  reqs := by simp
  ctxs := by simp
  queues := by simp
  power := by simp
  sys := by simp

theorem State.steady_hangMark (s : State) (k : GangKey) (c : CoreId) (n : Nat) :
    Steady s (s.setCore c { s.core c with hangMark := n }) k false where
  time := rfl
  mem := rfl
  hier := rfl
  cores := fun j => by
    rw [core_setCore]
    by_cases hj : j = c
    · subst hj; exact ⟨(s.cc j).ev, n, by simp [State.cc]⟩
    · rw [if_neg hj]; exact ⟨(s.cc j).ev, (s.core j).hangMark, by simp [State.cc]⟩
  saved := rfl
  gangs := fun j x _ hx => ⟨x, hx, SameOther.refl x⟩
  own := id
  crews := rfl
  slices := fun l => by
    have : (s.setCore c { s.core c with hangMark := n }).slice? l = s.slice? l := rfl
    rw [this]; cases s.slice? l <;> simp
  reqs := rfl
  ctxs := rfl
  queues := rfl
  power := rfl
  sys := rfl

theorem State.Steady.refl (s : State) (k : GangKey) : Steady s s k false :=
  .of_eqs rfl rfl rfl rfl rfl (fun _ _ => rfl) id rfl rfl rfl rfl rfl rfl rfl

/-- The slice of a launch counts one issue clock. -/
theorem State.steady_putSlice (s : State) (k : GangKey) (l : Slice) (h : s.slice? k.launch = some l) :
    Steady s (s.putSlice { l with count := l.count + 1 }) k true where
  time := rfl
  mem := rfl
  hier := rfl
  cores := fun c => ⟨(s.cc c).ev, (s.core c).hangMark, by simp [State.cc]⟩
  saved := rfl
  gangs := fun j x _ hx => ⟨x, hx, SameOther.refl x⟩
  own := id
  crews := rfl
  slices := fun i => by
    rw [slice?_putSlice]
    have hid : l.id = k.launch := slice?_id h
    by_cases hi : i = k.launch
    · subst hi; simp [hid, h]
    · simp only [hid, if_neg hi, hi, and_false, if_false]
      cases s.slice? i <;> rfl
  reqs := rfl
  ctxs := rfl
  queues := rfl
  power := rfl
  sys := rfl

theorem State.steady_noSlice (s : State) (k : GangKey) (h : s.slice? k.launch = none) : Steady s s k true :=
  { Steady.refl s k with
    slices := fun i => by
      by_cases hi : i = k.launch
      · subst hi; simp [h]
      · cases s.slice? i <;> simp [hi] }

theorem State.Steady.before {s t u : State} {k : GangKey} {p : Bool} (h1 : Steady s t k false) (h2 : Steady t u k p) :
    Steady s u k p where
  time := h2.time.trans h1.time
  mem := h2.mem.trans h1.mem
  hier := h2.hier.trans h1.hier
  cores := fun c => by
    obtain ⟨ev, n, e1⟩ := h1.cores c
    obtain ⟨ev', n', e2⟩ := h2.cores c
    refine ⟨ev', n', ?_⟩
    rw [e2]
    simp only [State.cc, e1]
  saved := h2.saved.trans h1.saved
  gangs := fun j x hj hx => by
    obtain ⟨y, hy, e1⟩ := h1.gangs j x hj hx
    obtain ⟨z, hz, e2⟩ := h2.gangs j y hj hy
    exact ⟨z, hz, SameOther.trans e1 e2⟩
  own := fun h => h2.own (h1.own h)
  crews := h2.crews.trans h1.crews
  slices := fun l => by
    rw [h2.slices, h1.slices]
    cases s.slice? l <;> simp
  reqs := h2.reqs.trans h1.reqs
  ctxs := h2.ctxs.trans h1.ctxs
  queues := h2.queues.trans h1.queues
  power := h2.power.trans h1.power
  sys := h2.sys.trans h1.sys

theorem State.Steady.ite {s t u : State} {k : GangKey} {b : Bool} {p : Prop} [Decidable p] (h1 : Steady s t k b)
    (h2 : Steady s u k b) : Steady s (if p then t else u) k b := by split <;> assumption

/-- An issue clock counts and leaves the rest; of the gang it changes the fairness timer at most. -/
theorem State.issueClock_law (s : State) (g : Gang) :
    Steady s (s.issueClock g).1 g.key true ∧ ∃ n, (s.issueClock g).2 = { g with fair := n } := by
  unfold State.issueClock
  have h0 := steady_count s g.key g.core 1 1 (g.slot?.map (·.1)) (some g.key.launch)
  generalize s.count g.core 1 1 (g.slot?.map (·.1)) (some g.key.launch) = s1 at h0 ⊢
  have h1 : Steady s1 (match s1.slice? g.key.launch with
      | some l =>
        if ({ l with count := l.count + 1 } : Slice).limited && !({ l with count := l.count + 1 } : Slice).spent &&
            ({ l with count := l.count + 1 } : Slice).budget.toNat ≤ ({ l with count := l.count + 1 } : Slice).count then
          (s1.putSlice { l with count := l.count + 1 }).schedule s1.now .budgetExhausted { EvArg.none with launch := l.id }
        else s1.putSlice { l with count := l.count + 1 }
      | none => s1) g.key true := by
    cases hl : s1.slice? g.key.launch with
    | none => exact steady_noSlice s1 g.key hl
    | some l =>
      dsimp only
      split
      · exact (steady_putSlice s1 g.key l hl).trans (steady_schedule _ _ _ _ _)
      · exact steady_putSlice s1 g.key l hl
  have h2 := h0.before h1
  dsimp only at h2 ⊢
  have hs : ∀ s2, Steady s s2 g.key true →
      Steady s (s2.setCore g.core { s2.core g.core with hangMark := s2.now }) g.key true :=
    fun s2 h => h.trans (steady_hangMark s2 g.key g.core _)
  have h3 := hs _ h2
  split
  · exact ⟨h3, 0, rfl⟩
  · split
    · exact ⟨h3, g.fair, rfl⟩
    · exact ⟨Steady.ite (h3.trans (steady_schedule _ _ _ _ _)) h3, _, rfl⟩

/-! ## The end of a word -/

theorem insertBy_ne_nil {α : Type} (lt : α → α → Bool) (a : α) (l : List α) : insertBy lt a l ≠ [] := by
  cases l with
  | nil => simp [insertBy]
  | cons b bs => unfold insertBy; split <;> simp

theorem placeLanes_ne_nil {m : Mask} (h : m ≠ 0) (pc : Pc) (p : Fin 32) (es : List Entry) : placeLanes m pc p es ≠ [] := by
  unfold placeLanes frontInsert
  rw [if_neg h]
  split <;> exact insertBy_ne_nil _ _ _

theorem State.steady_overlap (s : State) (j k : GangKey) (ws : List RegRef) (m : Mask) (n : Nat) :
    Steady s (s.overlap j ws m n) k false := by
  unfold State.overlap
  split
  · exact Steady.refl s k
  · refine steady_setReqs s k _ fun r => ?_
    split <;> rfl

theorem State.steady_rereadStores (s : State) (g : Gang) (k : GangKey) : Steady s (s.rereadStores g) k false := by
  unfold State.rereadStores
  refine steady_setReqs s k _ fun r => ?_
  split
  · split
    · simp only [bare, List.map_map]
      congr 1
      refine List.map_congr_left fun p _ => ?_
      simp only [Function.comp_apply]
      split <;> rfl
    · rfl
  · rfl

theorem State.gang?_rereadStores (s : State) (g : Gang) (k : GangKey) : (s.rereadStores g).gang? k = s.gang? k := rfl

/-- What the end of a clause changes of a gang. -/
theorem Gang.endClause_law (g : Gang) :
    g.endClause.s = g.s ∧ g.endClause.v = g.v ∧ g.endClause.p = g.p ∧ g.endClause.pend = g.pend ∧
    { g.endClause with front := g.front, sel := g.sel, clause := g.clause, lastPc := g.lastPc, rotPoint := g.rotPoint } = g := by
  unfold Gang.endClause
  split
  · split <;> exact ⟨rfl, rfl, rfl, rfl, rfl⟩
  · exact ⟨rfl, rfl, rfl, rfl, rfl⟩

/-- A gang with an active lane keeps an entry at the end of a clause. -/
theorem Gang.endClause_stays {g : Gang} {e : Entry} (h : g.sel = some e) (he : e.mask ≠ 0) :
    (g.endClause.front.isEmpty && g.endClause.sel.isNone) = false := by
  unfold Gang.endClause
  split
  · rename_i c e' hc hs
    have : e' = e := by rw [h] at hs; exact (Option.some.inj hs).symm
    subst this
    split
    · simp [placeLanes_ne_nil he]
    · simp [h]
  · simp [h]

/-- The end of a word whose gang has an active lane: the gang stays, with its registers as they are. -/
theorem State.endWord_law {s : State} {g : Gang} {e : Entry} (h : g.sel = some e) (he : e.mask ≠ 0)
    (hg : (s.gang? g.key).isSome = true) :
    Steady s (s.endWord g) g.key false ∧ ∃ y, (s.endWord g).gang? g.key = some y ∧
      y.s = g.s ∧ y.v = g.v ∧ y.p = g.p ∧ y.pend = g.pend ∧
      { y with front := g.front, sel := g.sel, clause := g.clause, lastPc := g.lastPc, rotPoint := g.rotPoint } = g := by
  obtain ⟨x, hx⟩ := Option.isSome_iff_exists.mp hg
  have key : ∀ y : Gang, y.key = g.key → (y.front.isEmpty && y.sel.isNone) = false →
      (if y.front.isEmpty && y.sel.isNone then ((s.rereadStores y).putGang y).gangExit y else (s.rereadStores y).putGang y) =
        (s.rereadStores y).putGang y := fun y _ hn => by rw [if_neg (by simp [hn])]
  unfold State.endWord
  dsimp only
  by_cases hw : g.wait = true
  · rw [if_pos hw, key g rfl (by simp [h])]
    refine ⟨(steady_rereadStores s g g.key).trans (steady_putGang _ g), g, ?_, rfl, rfl, rfl, rfl, rfl⟩
    exact gang?_putGang_self (x := x) hx
  · have hk : g.endClause.key = g.key := by
      have := g.endClause_law.2.2.2.2
      calc g.endClause.key = _ := rfl
        _ = g.key := by rw [congrArg Gang.key this]
    rw [if_neg hw, key g.endClause hk (Gang.endClause_stays h he)]
    obtain ⟨e1, e2, e3, e4, e5⟩ := g.endClause_law
    refine ⟨?_, g.endClause, ?_, e1, e2, e3, e4, e5⟩
    · have := steady_putGang (s.rereadStores g.endClause) g.endClause
      rw [hk] at this
      exact (steady_rereadStores s g.endClause g.key).trans this
    · have := gang?_putGang_self (s := s.rereadStores g.endClause) (g := g.endClause) (x := x) (by rw [hk]; exact hx)
      rwa [hk] at this

/-! ## Words -/

/-- A word that may issue and whose body gives a state and a gang that waits for no probe. -/
theorem runWord_ok {w : WordSpec} {body : Body} {s : State} {g : Gang} {e : Entry} {c : Clause}
    (hi : s.issuing = some (g, e, c)) (ht : s.wordTrap g w = none) {s2 : State} {g2 : Gang}
    (hb : body ((s.useFree 1).issueClock g).1
      (((s.useFree 1).issueClock g).2.advance (s.clock g.core) w.stall w.ext) c.next = .ok (s2, g2)) (hp : g2.probing = none) :
    runWord w body s = .next ((s2.overlap g.key w.writes g.active s.own.nextReq).endWord g2) := by
  unfold runWord
  simp only [hi, ht, hb, hp, Option.isSome_none, Bool.false_eq_true, if_false]

/-- A word that raises a trap before its own effect. -/
theorem runWord_trap {w : WordSpec} {body : Body} {s : State} {g : Gang} {e : Entry} {c : Clause} {t : Trap}
    (hi : s.issuing = some (g, e, c)) (ht : s.wordTrap g w = some t) :
    runWord w body s = .next (((s.useFree 1).issueClock g).1.takeTrap
      { ((s.useFree 1).issueClock g).2 with sel := none, clause := none } e c.hdr c.next t) := by
  unfold runWord
  simp only [hi, ht]

/-- A word whose own effect is a trap. -/
theorem runWord_error {w : WordSpec} {body : Body} {s : State} {g : Gang} {e : Entry} {c : Clause} {t : Trap}
    (hi : s.issuing = some (g, e, c)) (ht : s.wordTrap g w = none)
    (hb : body ((s.useFree 1).issueClock g).1
      (((s.useFree 1).issueClock g).2.advance (s.clock g.core) w.stall w.ext) c.next = .error t) :
    runWord w body s = .next (((s.useFree 1).issueClock g).1.takeTrap
      { ((s.useFree 1).issueClock g).2 with sel := none, clause := none } e c.hdr c.next t) := by
  unfold runWord
  simp only [hi, ht, hb]

/-- An instruction word always answers a next state where a gang issues. -/
theorem runWord_next {w : WordSpec} {body : Body} {s : State} {g : Gang} {e : Entry} {c : Clause}
    (hi : s.issuing = some (g, e, c)) : ∃ t, runWord w body s = .next t := by
  unfold runWord
  simp only [hi]
  split
  · exact ⟨_, rfl⟩
  · split
    · exact ⟨_, rfl⟩
    · split <;> exact ⟨_, rfl⟩

/-- What a word does beside its own effect: the issue clock and the notes on requests leave the rest. -/
theorem State.prologue_law (s : State) (g : Gang) (ws : List RegRef) (m : Mask) (n : Nat) :
    Steady s (((s.useFree 1).issueClock g).1.overlap g.key ws m n) g.key true :=
  ((steady_setOwn s g.key _).before (issueClock_law (s.useFree 1) g).1).trans (steady_overlap _ _ _ _ _ _)

/-- A word that works on its gang's registers alone: `f` changes no more than the registers and the results to come. -/
theorem runPure_law {w : WordSpec} {f : Nat → Nat → Gang → Gang} {s : State} {g : Gang} {e : Entry} {c : Clause}
    (hi : s.issuing = some (g, e, c)) (ht : s.wordTrap g w = none)
    (hf : ∀ a b x, { f a b x with s := x.s, v := x.v, p := x.p, pend := x.pend } = x) :
    ∃ t n, runPure w f s = .next t ∧ (e.mask ≠ 0 → Untouched s t g ∧ ∃ y, t.gang? g.key = some y ∧ SameRest g y ∧
      y.s = (f s.own.free (s.clock g.core) (({ g with fair := n } : Gang).advance (s.clock g.core) w.stall w.ext)).s ∧
      y.v = (f s.own.free (s.clock g.core) (({ g with fair := n } : Gang).advance (s.clock g.core) w.stall w.ext)).v ∧
      y.p = (f s.own.free (s.clock g.core) (({ g with fair := n } : Gang).advance (s.clock g.core) w.stall w.ext)).p ∧
      y.pend = (f s.own.free (s.clock g.core) (({ g with fair := n } : Gang).advance (s.clock g.core) w.stall w.ext)).pend) := by
  obtain ⟨n, hn⟩ := (State.issueClock_law (s.useFree 1) g).2
  have hq : ∀ a b, (f a b (((s.useFree 1).issueClock g).2.advance (s.clock g.core) w.stall w.ext)).probing = none := fun a b => by
    rw [hn]; exact (congrArg Gang.probing (hf _ _ _)).trans (State.issuing_eq hi).2.2.2
  refine ⟨_, n, runWord_ok hi ht rfl (hq _ _), fun he => ?_⟩
  clear hq
  rw [hn]
  generalize hG : ({ g with fair := n } : Gang).advance (s.clock g.core) w.stall w.ext = G
  have hGs : G.sel = some e := by rw [← hG]; exact (State.issuing_eq hi).2.1
  have hGk : G.key = g.key := by rw [← hG]; rfl
  have hGc : G.core = g.core := by rw [← hG]; rfl
  rw [hGc]
  have hfG := hf s.own.free (s.clock g.core) G
  generalize hF : f s.own.free (s.clock g.core) G = F at hfG
  have hFk : F.key = g.key := (congrArg Gang.key hfG).trans hGk
  have hFs : F.sel = some e := (congrArg Gang.sel hfG).trans hGs
  have hp := State.prologue_law s g w.writes g.active s.own.nextReq
  have hk := hp.own (by rw [State.issuing_key hi]; rfl)
  obtain ⟨h1, y, hy, e1, e2, e3, e4, e5⟩ := State.endWord_law hFs he (by rw [hFk]; exact hk)
  rw [hFk] at h1 hy
  refine ⟨(hp.trans h1).untouched, y, hy, ?_, e1, e2, e3, e4⟩
  have a1 : ({ y with s := g.s, v := g.v, p := g.p, front := g.front, sel := g.sel, clause := g.clause, lastPc := g.lastPc
                      rotPoint := g.rotPoint, fair := g.fair, readyAt := g.readyAt, pend := g.pend } : Gang) =
      { ({ y with front := F.front, sel := F.sel, clause := F.clause, lastPc := F.lastPc, rotPoint := F.rotPoint } : Gang) with
          s := g.s, v := g.v, p := g.p, front := g.front, sel := g.sel, clause := g.clause, lastPc := g.lastPc
          rotPoint := g.rotPoint, fair := g.fair, readyAt := g.readyAt, pend := g.pend } := rfl
  have a2 : ({ F with s := g.s, v := g.v, p := g.p, front := g.front, sel := g.sel, clause := g.clause, lastPc := g.lastPc
                      rotPoint := g.rotPoint, fair := g.fair, readyAt := g.readyAt, pend := g.pend } : Gang) =
      { ({ F with s := G.s, v := G.v, p := G.p, pend := G.pend } : Gang) with
          s := g.s, v := g.v, p := g.p, front := g.front, sel := g.sel, clause := g.clause, lastPc := g.lastPc
          rotPoint := g.rotPoint, fair := g.fair, readyAt := g.readyAt, pend := g.pend } := rfl
  unfold SameRest
  rw [a1, e5, a2, hfG, ← hG]
  rfl

end Sys2Proof.Machine
end

