-- ==== Sys2Proof/Laws/Control.lean ====
section
/-!
SUPPORT. Words that end their clause, and taking a trap (R351), each said once.
-/
namespace Sys2Proof.Machine

variable {w : WordSpec} {body : Body} {s : State} {g : Gang} {e : Entry} {c : Clause}

theorem Gang.endClause_none {x : Gang} (h : x.clause = none) : x.endClause = x := by
  unfold Gang.endClause; rw [h]

/-- The end of a word that has ended its clause itself and leaves an entry. -/
theorem State.endWord_left {x : Gang} (hc : x.clause = none) (hf : (x.front.isEmpty && x.sel.isNone) = false) :
    s.endWord x = (s.rereadStores x).putGang x := by
  unfold State.endWord
  simp only [Gang.endClause_none hc, ite_self]
  rw [if_neg (by simp [hf])]

/-- A word that changes no more than its own gang and ends its clause. -/
theorem runWord_local {G2 : Nat → Gang} (hi : s.issuing = some (g, e, c)) (ht : s.wordTrap g w = none)
    (hb : ∀ s1 n, body s1 (({ g with fair := n } : Gang).advance (s.clock g.core) w.stall w.ext) c.next = .ok (s1, G2 n))
    (hk : ∀ n, (G2 n).key = g.key) (hq : ∀ n, (G2 n).probing = none) (hc : ∀ n, (G2 n).clause = none)
    (hf : ∀ n, ((G2 n).front.isEmpty && (G2 n).sel.isNone) = false) :
    ∃ t n, runWord w body s = .next t ∧ Untouched s t g ∧ t.gang? g.key = some (G2 n) := by
  obtain ⟨n, hn⟩ := (State.issueClock_law (s.useFree 1) g).2
  have hp := State.prologue_law s g w.writes g.active s.own.nextReq
  refine ⟨_, n, runWord_ok hi ht (by rw [hn]; exact hb _ n) (hq n), ?_⟩
  rw [State.endWord_left (hc n) (hf n)]
  have h1 := State.steady_rereadStores (((s.useFree 1).issueClock g).1.overlap g.key w.writes g.active s.own.nextReq) (G2 n) g.key
  have h2 := State.steady_putGang ((((s.useFree 1).issueClock g).1.overlap g.key w.writes g.active s.own.nextReq).rereadStores (G2 n)) (G2 n)
  rw [hk n] at h2
  refine ⟨((hp.trans h1).trans h2).untouched, ?_⟩
  have hsome := (hp.trans h1).own (by rw [State.issuing_key hi]; rfl)
  obtain ⟨x, hx⟩ := Option.isSome_iff_exists.mp hsome
  rw [← hk n] at hx ⊢
  exact State.gang?_putGang_self hx

/-! ## Taking a trap -/

/-- A context found by id, as the hub sees it, depends on the contexts and memory alone. -/
theorem State.ctx?_congr {s t : State} (h1 : t.ctxs = s.ctxs) (h2 : t.mem = s.mem) (k : CtxId) : t.ctx? k = s.ctx? k := by
  unfold State.ctx?; rw [h1, h2]

theorem State.clock_congr {s t : State} (h1 : t.time = s.time) (h2 : t.own.round = s.own.round) (k : CoreId) :
    t.clock k = s.clock k := by unfold State.clock State.die; rw [h1, h2]

/-- Taking a trap outside a handler, with a handler (R351): the trap block, the handler entry, nothing else. -/
theorem State.takeTrap_law {s : State} {x : Gang} {e : Entry} {hdr pc : Pc} {t : Trap} {k : GangKey} (hk : x.key = k)
    (hg : (s.gang? k).isSome = true) (hh : x.inHandler = false) {h : Pc} (hne : h ≠ 0)
    (hc : s.handlerOf x = h) (hb : t.cause = 0x0F → s.brkHalts x = false) :
    Steady s (s.takeTrap x e hdr pc t) k false ∧ ∃ n, (s.takeTrap x e hdr pc t).gang? k = some
      { x with front := frontInsert { e with pc := h } x.front, sel := none, clause := none
               trap := some ⟨pc, hdr, t.cause, t.info, true⟩, hmask := e.mask, lastPc := some h, rotPoint := true
               wait := false, readyAt := n } := by
  subst hk
  have hcount := steady_count s x.key x.core 6 1 (x.slot?.map (·.1)) (some x.key.launch)
  have hctx : (s.count x.core 6 1 (x.slot?.map (·.1)) (some x.key.launch)).ctx? x.ctx = s.ctx? x.ctx :=
    ctx?_congr hcount.ctxs hcount.mem _
  have hh1 : (s.count x.core 6 1 (x.slot?.map (·.1)) (some x.key.launch)).handlerOf x = h := by
    unfold State.handlerOf; rw [hctx]; exact hc
  have hh2 : (s.count x.core 6 1 (x.slot?.map (·.1)) (some x.key.launch)).brkHalts x = s.brkHalts x := by
    unfold State.brkHalts; rw [hctx]
  have hcond : (x.inHandler || decide (h = 0) || s.brkHalts x && decide (t.cause = 0x0F)) = false := by
    have h1 : decide (h = 0) = false := decide_eq_false hne
    by_cases h0 : t.cause = 0x0F
    · rw [hh, h1, hb h0]; rfl
    · rw [hh, h1, decide_eq_false h0]; simp
  obtain ⟨y, hy⟩ := Option.isSome_iff_exists.mp (hcount.own hg)
  unfold State.takeTrap
  simp only [hh1, hh2, hcond, Bool.false_eq_true, if_false]
  exact ⟨hcount.trans (steady_putGang _ _), _, gang?_putGang_self hy⟩

/-- A word of the issuing gang that traps, before its own effect or by it, outside a handler and with one. -/
theorem runWord_traps {t : Trap} (hi : s.issuing = some (g, e, c))
    (hb : s.wordTrap g w = some t ∨ s.wordTrap g w = none ∧
      ∀ s1 n, body s1 (({ g with fair := n } : Gang).advance (s.clock g.core) w.stall w.ext) c.next = .error t)
    (hh : g.inHandler = false) {h : Pc} (hne : h ≠ 0)
    (hc : s.handlerOf g = h) (hbrk : t.cause = 0x0F → s.brkHalts g = false) :
    ∃ u n m, runWord w body s = .next u ∧ Untouched s u g ∧ u.gang? g.key = some
      { g with fair := n, front := frontInsert { e with pc := h } g.front, sel := none, clause := none
               trap := some ⟨c.next, c.hdr, t.cause, t.info, true⟩, hmask := e.mask, lastPc := some h, rotPoint := true
               wait := false, readyAt := m } := by
  obtain ⟨n, hn⟩ := (State.issueClock_law (s.useFree 1) g).2
  have hp := (State.steady_setOwn s g.key _).before (State.issueClock_law (s.useFree 1) g).1
  have hrun : runWord w body s = .next (((s.useFree 1).issueClock g).1.takeTrap
      { ((s.useFree 1).issueClock g).2 with sel := none, clause := none } e c.hdr c.next t) := by
    rcases hb with hb | ⟨h0, hb⟩
    · exact runWord_trap hi hb
    · refine runWord_error hi h0 ?_
      rw [hn]; exact hb _ n
  rw [hn] at hrun
  have hctx := State.ctx?_congr hp.ctxs hp.mem g.ctx
  obtain ⟨h1, m, h2⟩ := State.takeTrap_law (s := ((s.useFree 1).issueClock g).1)
    (x := { ({ g with fair := n } : Gang) with sel := none, clause := none }) (e := e) (hdr := c.hdr) (pc := c.next) (t := t)
    (k := g.key) rfl (hp.own (by rw [State.issuing_key hi]; rfl)) hh hne 
    (h := h) (by unfold State.handlerOf at hc ⊢; rw [show ({ ({ g with fair := n } : Gang) with sel := none, clause := none } : Gang).ctx = g.ctx from rfl, hctx]; exact hc)
    (fun h0 => by
      have := hbrk h0
      unfold State.brkHalts at this ⊢
      rw [show ({ ({ g with fair := n } : Gang) with sel := none, clause := none } : Gang).ctx = g.ctx from rfl, hctx]
      exact this)
  exact ⟨_, n, m, hrun, (hp.trans h1).untouched, h2⟩

end Sys2Proof.Machine
end

