-- ==== Sys2Proof/Laws/Encoding.lean ====
section
/-!
SUPPORT. The words of an encoding: every field fits its place, a word has 32 bits, and its stall count and opcode are read back.
-/
namespace Sys2Proof

theorem w3_lt (s op d a b : Nat) : w3 s op d a b < 2 ^ 32 := by unfold w3; omega
theorem w3e_lt (c m i : Nat) : w3e c m i < 2 ^ 32 := by unfold w3e; omega
theorem wb_lt (s op off p prio : Nat) : wb s op off p prio < 2 ^ 32 := by unfold wb; omega
theorem wbe_lt (t delta : Nat) : wbe t delta < 2 ^ 32 := by unfold wbe; omega
theorem wy_lt (s op x m : Nat) : wy s op x m < 2 ^ 32 := by unfold wy; omega
theorem wo_lt (s op d a t m : Nat) : wo s op d a t m < 2 ^ 32 := by unfold wo; omega
theorem wme_lt (h ds os av at_ sc sem imm : Nat) : wme h ds os av at_ sc sem imm < 2 ^ 32 := by unfold wme; omega

theorem fS_w3 (s op d a b : Nat) : fS (w3 s op d a b) = s % 4 := by unfold fS w3; omega
theorem fS_wb (s op off p prio : Nat) : fS (wb s op off p prio) = s % 4 := by unfold fS wb; omega
theorem fS_wy (s op x m : Nat) : fS (wy s op x m) = s % 4 := by unfold fS wy; omega
theorem fS_wo (s op d a t m : Nat) : fS (wo s op d a t m) = s % 4 := by unfold fS wo; omega

theorem fOP_w3 (s op d a b : Nat) : fOP (w3 s op d a b) = op % 64 := by unfold fOP w3; omega
theorem fOP_wb (s op off p prio : Nat) : fOP (wb s op off p prio) = op % 64 := by unfold fOP wb; omega
theorem fOP_wy (s op x m : Nat) : fOP (wy s op x m) = op % 64 := by unfold fOP wy; omega
theorem fOP_wo (s op d a t m : Nat) : fOP (wo s op d a t m) = op % 64 := by unfold fOP wo; omega

theorem fD_w3 (s op d a b : Nat) : fD (w3 s op d a b) = d % 256 := by unfold fD w3; omega
theorem fA_w3 (s op d a b : Nat) : fA (w3 s op d a b) = a % 256 := by unfold fA w3; omega
theorem fB_w3 (s op d a b : Nat) : fB (w3 s op d a b) = b % 256 := by unfold fB w3; omega
theorem eC_w3e (c m i : Nat) : eC (w3e c m i) = c % 256 := by unfold eC w3e; omega
theorem eMOD_w3e (c m i : Nat) : eMOD (w3e c m i) = m % 256 := by unfold eMOD w3e; omega
theorem eIMM_w3e (c m i : Nat) : eIMM (w3e c m i) = i % 65536 := by unfold eIMM w3e; omega
theorem fOFF_wb (s op off p prio : Nat) : fOFF (wb s op off p prio) = off % 65536 := by unfold fOFF wb; omega
theorem fP_wb (s op off p prio : Nat) : fP (wb s op off p prio) = p % 8 := by unfold fP wb; omega
theorem fPRIO_wb (s op off p prio : Nat) : fPRIO (wb s op off p prio) = prio % 32 := by unfold fPRIO wb; omega
theorem eT_wbe (t delta : Nat) : eT (wbe t delta) = t % 16 := by unfold eT wbe; omega
theorem eDELTA_wbe (t delta : Nat) : eDELTA (wbe t delta) = delta % 0x10000000 := by unfold eDELTA wbe; omega
theorem fD_wy (s op x m : Nat) : fD (wy s op x m) = x % 256 := by unfold fD wy; omega
theorem fTM_wy (s op x m : Nat) : fTM (wy s op x m) = m % 65536 := by unfold fTM wy; omega
theorem fD_wo (s op d a t m : Nat) : fD (wo s op d a t m) = d % 256 := by unfold fD wo; omega
theorem fA_wo (s op d a t m : Nat) : fA (wo s op d a t m) = a % 256 := by unfold fA wo; omega
theorem fT_wo (s op d a t m : Nat) : fT (wo s op d a t m) = t % 16 := by unfold fT wo; omega
theorem fW_wo (s op d a t m : Nat) : fW (wo s op d a t m) = m % 16 := by unfold fW wo; omega

/-- A number below its bound is read as itself. -/
theorem fin?_of_lt {n : Nat} (x : Fin n) : fin? n x.val = some x := by simp [fin?]
/-- So is one that is coded from 1 up. -/
theorem fin1?_of_lt {n : Nat} (x : Fin n) : fin1? n (x.val + 1) = some x := by simp [fin1?, fin?]

/-! Codes of fields are read back. -/

theorem cond?_code (x : Cond) : cond? x.code = some x := by cases x <;> rfl
theorem round?_code (x : Round) : round? x.code = some x := by cases x <;> rfl
theorem fmaVar?_code (x : FmaVar) : fmaVar? x.code = some x := by cases x <;> rfl
theorem redOp?_code (x : RedOp) : redOp? x.code = some x := by cases x <;> rfl
theorem shflKind?_code (x : ShflKind) : shflKind? x.code = some x := by cases x <;> rfl
theorem fenceKind?_code (x : FenceKind) : fenceKind? x.code = some x := by cases x <;> rfl
theorem scope?_code (x : Scope) : scope? x.code = some x := by cases x <;> rfl
theorem sem?_code (x : Sem) : sem? x.code = some x := by cases x <;> rfl
theorem width?_code (x : Width) : width? x.code = some x := by cases x <;> rfl
theorem cvtType?_code (x : CvtType) : cvtType? x.code = some x := by cases x <;> rfl
theorem bool?_toNat (x : Bool) : bool? x.toNat = some x := by cases x <;> rfl
theorem vsrc?_code (x : VSrc) : vsrc? x.code = some x := by
  cases x with
  | v n => have := n.isLt; simp [vsrc?, VSrc.code, fin?]
  | s n => have := n.isLt; simp [vsrc?, VSrc.code, fin?]
theorem dataReg?_num (x : DataReg) : dataReg? x.ds x.num = some x := by cases x <;> simp [dataReg?, DataReg.ds, DataReg.num, sreg?, vreg?, fin?]
theorem offReg?_num (x : OffReg) : offReg? x.os x.num = some x := by cases x <;> simp [offReg?, OffReg.os, OffReg.num, sreg?, vreg?, fin?]
theorem xreg?_xcode (x : Option SReg) : xreg? (xcode x) = some x := by
  cases x with
  | none => rfl
  | some n => have h := n.isLt; have h' : n.val ≠ 255 := by omega
              simp [xreg?, xcode, h', fin?]

end Sys2Proof
end

