-- ==== Sys2Proof/Laws/Memory.lean ====
section
/-!
SUPPORT. Memory: what is read after a write, and that every memory operation keeps the canonical form.
-/
namespace Sys2Proof.Machine

/-! ## The canonical form -/

/-- Every address that a memory lists lies at or above `a`. -/
def Memory.above (a : Nat) (m : List Host.Cell) : Prop := ∀ c ∈ m, a ≤ c.1

theorem Memory.wf_cons (k : Nat) (b : Byte) (m : List Host.Cell) :
    Memory.wf ((k, b) :: m) = true ↔ b ≠ 0 ∧ Memory.above (k + 1) m ∧ Memory.wf m = true := by
  induction m generalizing k b with
  | nil => simp [Memory.wf, Memory.above]
  | cons c m ih =>
    obtain ⟨k', b'⟩ := c
    have step : Memory.wf ((k, b) :: (k', b') :: m) = true ↔
        b ≠ 0 ∧ k < k' ∧ Memory.wf ((k', b') :: m) = true := by simp [Memory.wf, and_assoc]
    rw [step]
    constructor
    · rintro ⟨hb, hk, hw⟩
      refine ⟨hb, ?_, hw⟩
      obtain ⟨-, ha, -⟩ := (ih k' b').mp hw
      intro c hc
      rcases List.mem_cons.mp hc with rfl | hc
      · exact hk
      · have := ha c hc; omega
    · rintro ⟨hb, ha, hw⟩
      exact ⟨hb, ha (k', b') List.mem_cons_self, hw⟩

theorem Memory.above_mono {a b : Nat} {m : List Host.Cell} (h : a ≤ b) (hm : Memory.above b m) : Memory.above a m :=
  fun c hc => Nat.le_trans h (hm c hc)

/-- An address below every listed one reads as zero. -/
theorem memGet_below {m : List Host.Cell} {a : Nat} (h : Memory.above (a + 1) m) : memGet m a = 0 := by
  induction m with
  | nil => rfl
  | cons c m ih =>
    obtain ⟨k, b⟩ := c
    have hk := h (k, b) List.mem_cons_self
    have hm : Memory.above (a + 1) m := fun c hc => h c (List.mem_cons_of_mem _ hc)
    rw [memGet, if_neg (by simp at hk; omega), ih hm]

theorem Memory.above_memSet {m : List Host.Cell} {a n : Nat} {b : Byte} (h : Memory.above n m) (ha : n ≤ a) :
    Memory.above n (memSet m a b) := by
  induction m with
  | nil => unfold memSet; split <;> simp [Memory.above, ha]
  | cons c m ih =>
    obtain ⟨k, x⟩ := c
    have hm : Memory.above n m := fun c hc => h c (List.mem_cons_of_mem _ hc)
    have hk := h (k, x) List.mem_cons_self
    simp only [memSet]
    split
    · split
      · exact h
      · intro c hc
        rcases List.mem_cons.mp hc with rfl | hc
        · exact ha
        · exact h c hc
    · split
      · split
        · exact hm
        · intro c hc
          rcases List.mem_cons.mp hc with rfl | hc
          · exact ha
          · exact hm c hc
      · intro c hc
        rcases List.mem_cons.mp hc with rfl | hc
        · exact hk
        · exact ih hm c hc

/-- A write of one byte keeps the canonical form. -/
theorem Memory.wf_memSet {m : List Host.Cell} (a : Nat) (b : Byte) (h : Memory.wf m = true) :
    Memory.wf (memSet m a b) = true := by
  induction m with
  | nil => unfold memSet; split <;> simp_all [Memory.wf]
  | cons c m ih =>
    obtain ⟨k, x⟩ := c
    obtain ⟨hx, ha, hw⟩ := (Memory.wf_cons k x m).mp h
    simp only [memSet]
    split
    · split
      · exact h
      · refine (Memory.wf_cons a b _).mpr ⟨‹_›, ?_, h⟩
        intro c hc
        rcases List.mem_cons.mp hc with rfl | hc
        · exact Nat.succ_le_of_lt ‹a < k›
        · have := ha c hc; omega
    · split
      · subst_vars
        split
        · exact hw
        · exact (Memory.wf_cons _ b m).mpr ⟨‹_›, ha, hw⟩
      · refine (Memory.wf_cons k x _).mpr ⟨hx, ?_, ih hw⟩
        exact Memory.above_memSet ha (by omega)

/-- A byte is read as it was written, and every other address reads as before. -/
theorem memGet_memSet {m : List Host.Cell} (a x : Nat) (b : Byte) (h : Memory.wf m = true) :
    memGet (memSet m a b) x = if x = a then b else memGet m x := by
  induction m with
  | nil =>
    simp only [memSet]
    split
    · subst_vars; simp [memGet]
    · simp only [memGet, eq_comm]
  | cons c m ih =>
    obtain ⟨k, y⟩ := c
    obtain ⟨-, ha, hw⟩ := (Memory.wf_cons k y m).mp h
    simp only [memSet]
    split
    · have hab : Memory.above (a + 1) ((k, y) :: m) := by
        intro c hc
        rcases List.mem_cons.mp hc with rfl | hc
        · exact Nat.succ_le_of_lt ‹a < k›
        · have := ha c hc; omega
      split
      · split
        · subst_vars; exact memGet_below hab
        · rfl
      · by_cases hx : x = a
        · simp [memGet, hx]
        · rw [if_neg hx, memGet, if_neg (fun e => hx e.symm)]
    · split
      · subst_vars
        by_cases hx : x = k
        · subst hx
          split
          · rw [memGet_below ha]; simp [*]
          · simp [memGet]
        · split <;> simp [memGet, Ne.symm hx, hx]
      · rw [memGet, memGet, ih hw]
        split <;> split <;> simp_all

/-! ## Runs of bytes -/

/-- A write of bytes keeps the canonical form. -/
theorem Memory.wf_memWrite {m : List Host.Cell} (a : Nat) (bs : List Byte) (h : Memory.wf m = true) :
    Memory.wf (memWrite m a bs) = true := by
  induction bs generalizing m a with
  | nil => exact h
  | cons b bs ih => exact ih (a + 1) (Memory.wf_memSet a b h)

/-- The bytes of a write are read back, and every other address reads as before. -/
theorem memGet_memWrite {m : List Host.Cell} (a x : Nat) (bs : List Byte) (h : Memory.wf m = true) :
    memGet (memWrite m a bs) x = if a ≤ x ∧ x < a + bs.length then bs.getD (x - a) 0 else memGet m x := by
  induction bs generalizing m a with
  | nil => simp only [memWrite, List.length_nil]; rw [if_neg (by omega)]
  | cons b bs ih =>
    simp only [memWrite, List.length_cons]
    rw [ih (a + 1) (Memory.wf_memSet a b h), memGet_memSet a x b h]
    by_cases h1 : x = a
    · subst h1
      rw [if_neg (by omega), if_pos rfl, if_pos (by omega)]
      simp
    · by_cases h2 : a + 1 ≤ x ∧ x < a + 1 + bs.length
      · rw [if_pos h2, if_pos (by omega)]
        obtain ⟨n, rfl⟩ : ∃ n, x = a + 1 + n := ⟨x - (a + 1), by omega⟩
        rw [show a + 1 + n - a = n + 1 by omega]
        simp
      · rw [if_neg h2, if_neg h1, if_neg (by omega)]

/-- A write of other bytes leaves an address as it was. -/
theorem memGet_memWrite_other {m : List Host.Cell} (a x : Nat) (bs : List Byte) (h : Memory.wf m = true)
    (hx : x < a ∨ a + bs.length ≤ x) : memGet (memWrite m a bs) x = memGet m x := by
  rw [memGet_memWrite a x bs h, if_neg (by omega)]

theorem Memory.wf_memSetDWord {m : List Host.Cell} (a : Nat) (v : DWord) (h : Memory.wf m = true) :
    Memory.wf (memSetDWord m a v) = true := Memory.wf_memWrite a _ h
theorem Memory.wf_memSetWord {m : List Host.Cell} (a : Nat) (v : Word) (h : Memory.wf m = true) :
    Memory.wf (memSetWord m a v) = true := Memory.wf_memWrite a _ h

theorem Memory.above_filter {a : Nat} {m : List Host.Cell} (p : Host.Cell → Bool) (h : Memory.above a m) :
    Memory.above a (m.filter p) := fun c hc => h c (List.mem_filter.mp hc).1

/-- Taking cells away keeps the canonical form. -/
theorem Memory.wf_filter {m : List Host.Cell} (p : Host.Cell → Bool) (h : Memory.wf m = true) :
    Memory.wf (m.filter p) = true := by
  induction m with
  | nil => rfl
  | cons c m ih =>
    obtain ⟨k, b⟩ := c
    obtain ⟨hb, ha, hw⟩ := (Memory.wf_cons k b m).mp h
    by_cases hp : p (k, b) = true
    · rw [List.filter_cons_of_pos hp]
      exact (Memory.wf_cons k b _).mpr ⟨hb, Memory.above_filter p ha, ih hw⟩
    · rw [List.filter_cons_of_neg hp]; exact ih hw

theorem Memory.wf_memZero {m : List Host.Cell} (a n : Nat) (h : Memory.wf m = true) : Memory.wf (memZero m a n) = true :=
  Memory.wf_filter _ h

theorem Memory.wf_memPut {m : List Host.Cell} (cs : List Host.Cell) (h : Memory.wf m = true) :
    Memory.wf (memPut m cs) = true := by
  induction cs generalizing m with
  | nil => exact h
  | cons c cs ih => exact ih (Memory.wf_memSet _ _ h)

/-- A fold of writes keeps the canonical form. -/
theorem Memory.wf_foldl {α : Type} {f : List Host.Cell → α → List Host.Cell} {m : List Host.Cell} (xs : List α)
    (hf : ∀ m x, Memory.wf m = true → Memory.wf (f m x) = true) (h : Memory.wf m = true) :
    Memory.wf (xs.foldl f m) = true := by
  induction xs generalizing m with
  | nil => exact h
  | cons x xs ih => exact ih (hf m x h)

/-- Equal memories are equal data: two canonical memories that read the same at every address are the same list. -/
theorem Memory.ext {m n : List Host.Cell} (hm : Memory.wf m = true) (hn : Memory.wf n = true)
    (h : ∀ a, memGet m a = memGet n a) : m = n := by
  induction m generalizing n with
  | nil =>
    cases n with
    | nil => rfl
    | cons c n =>
      obtain ⟨k, b⟩ := c
      have hb := ((Memory.wf_cons k b n).mp hn).1
      have := h k
      simp [memGet] at this
      exact absurd this.symm hb
  | cons c m ih =>
    obtain ⟨k, b⟩ := c
    obtain ⟨hb, ha, hw⟩ := (Memory.wf_cons k b m).mp hm
    cases n with
    | nil =>
      have := h k
      simp [memGet] at this
      exact absurd this hb
    | cons d n =>
      obtain ⟨k', b'⟩ := d
      obtain ⟨hb', ha', hw'⟩ := (Memory.wf_cons k' b' n).mp hn
      have hk : k = k' := by
        rcases Nat.lt_trichotomy k k' with hlt | heq | hlt
        · have := h k
          rw [memGet, if_pos rfl, memGet_below (m := (k', b') :: n)
            (fun c hc => (List.mem_cons.mp hc).elim (fun e => e ▸ hlt) (fun hc => by have := ha' c hc; omega))] at this
          exact absurd this hb
        · exact heq
        · have := h k'
          rw [memGet_below (m := (k, b) :: m)
            (fun c hc => (List.mem_cons.mp hc).elim (fun e => e ▸ hlt) (fun hc => by have := ha c hc; omega)),
            memGet, if_pos rfl] at this
          exact absurd this.symm hb'
      subst hk
      have hbb : b = b' := by have := h k; simpa [memGet] using this
      subst hbb
      rw [ih hw hw']
      intro x
      have := h x
      by_cases hx : k = x
      · subst hx; rw [memGet_below ha, memGet_below ha']
      · simpa [memGet, hx] using this

end Sys2Proof.Machine
end

