-- ==== Sys2Proof/Laws/PerInstr.lean ====
section
/-!
SUPPORT. Family `Encoding`, by constructor: the words of an instruction have 32 bits, their number is the one that R37 gives its opcode, the
first of them carries its stall count; an event row has no word.
-/
namespace Sys2Proof.Laws.Encoding

/-- The shape of an instruction's encoding (R31, R37). -/
def Statement (i : Instr) : Prop :=
  (∀ x ∈ encode i, x < 2 ^ 32) ∧ (i.cls? = none → encode i = []) ∧
  ∀ c, i.cls? = some c → ∃ w es, encode i = w :: es ∧ fS w = i.stall ∧ (fOP w < c.opcodes) ∧ es.length = if c.extended (fOP w) then 1 else 0

/-- An event row. -/
theorem of_event {i : Instr} (h : encode i = []) (hc : i.cls? = none) : Statement i := by
  refine ⟨?_, fun _ => h, fun c h' => ?_⟩
  · simp [h]
  · rw [hc] at h'; cases h'

/-- A row of one word. -/
theorem of_one {i : Instr} {w : Nat} {c : Cls} (h : encode i = [w]) (hc : i.cls? = some c) (hw : w < 2 ^ 32) (hs : fS w = i.stall)
    (ho : fOP w < c.opcodes) (he : c.extended (fOP w) = false) : Statement i := by
  refine ⟨?_, ?_, ?_⟩
  · intro x hx; rw [h] at hx; simp at hx; omega
  · intro h'; rw [hc] at h'; cases h'
  · intro c' h'; rw [hc] at h'; cases h'; exact ⟨w, [], h, hs, ho, by simp [he]⟩

/-- A row of two words. -/
theorem of_two {i : Instr} {w e : Nat} {c : Cls} (h : encode i = [w, e]) (hc : i.cls? = some c) (hw : w < 2 ^ 32) (hx : e < 2 ^ 32)
    (hs : fS w = i.stall) (ho : fOP w < c.opcodes) (he : c.extended (fOP w) = true) : Statement i := by
  refine ⟨?_, ?_, ?_⟩
  · intro x hx'; rw [h] at hx'; simp at hx'; omega
  · intro h'; rw [hc] at h'; cases h'
  · intro c' h'; rw [hc] at h'; cases h'; exact ⟨w, [e], h, hs, ho, by simp [he]⟩

theorem nop (n0 : Stall) : Statement (.nop n0) :=
  of_one rfl rfl (w3_lt _ _ _ _ _) ((fS_w3 _ _ _ _ _).trans (Nat.mod_eq_of_lt n0.isLt)) (by rw [fOP_w3]; decide) (by rw [fOP_w3]; decide)
theorem bra (n0 : Stall) (off : BitVec 16) (prio : Fin 32) : Statement (.bra n0 off prio) :=
  of_one rfl rfl (wb_lt _ _ _ _ _) ((fS_wb _ _ _ _ _).trans (Nat.mod_eq_of_lt n0.isLt)) (by rw [fOP_wb]; decide) (by rw [fOP_wb]; decide)
theorem bp (n0 : Stall) (p : PReg) (off : BitVec 16) (prio : Fin 32) : Statement (.bp n0 p off prio) :=
  of_one rfl rfl (wb_lt _ _ _ _ _) ((fS_wb _ _ _ _ _).trans (Nat.mod_eq_of_lt n0.isLt)) (by rw [fOP_wb]; decide) (by rw [fOP_wb]; decide)
theorem bpz (n0 : Stall) (p : PReg) (off : BitVec 16) (prio : Fin 32) : Statement (.bpz n0 p off prio) :=
  of_one rfl rfl (wb_lt _ _ _ _ _) ((fS_wb _ _ _ _ _).trans (Nat.mod_eq_of_lt n0.isLt)) (by rw [fOP_wb]; decide) (by rw [fOP_wb]; decide)
theorem ball (n0 : Stall) (p : PReg) (off : BitVec 16) (prio : Fin 32) : Statement (.ball n0 p off prio) :=
  of_one rfl rfl (wb_lt _ _ _ _ _) ((fS_wb _ _ _ _ _).trans (Nat.mod_eq_of_lt n0.isLt)) (by rw [fOP_wb]; decide) (by rw [fOP_wb]; decide)
theorem bany (n0 : Stall) (p : PReg) (off : BitVec 16) (prio : Fin 32) : Statement (.bany n0 p off prio) :=
  of_one rfl rfl (wb_lt _ _ _ _ _) ((fS_wb _ _ _ _ _).trans (Nat.mod_eq_of_lt n0.isLt)) (by rw [fOP_wb]; decide) (by rw [fOP_wb]; decide)
theorem call (n0 : Stall) (off : BitVec 16) (prio : Fin 32) : Statement (.call n0 off prio) :=
  of_one rfl rfl (wb_lt _ _ _ _ _) ((fS_wb _ _ _ _ _).trans (Nat.mod_eq_of_lt n0.isLt)) (by rw [fOP_wb]; decide) (by rw [fOP_wb]; decide)
theorem ret (n0 : Stall) : Statement (.ret n0) :=
  of_one rfl rfl (w3_lt _ _ _ _ _) ((fS_w3 _ _ _ _ _).trans (Nat.mod_eq_of_lt n0.isLt)) (by rw [fOP_w3]; decide) (by rw [fOP_w3]; decide)
theorem jmp (n0 : Stall) (a : SReg) : Statement (.jmp n0 a) :=
  of_one rfl rfl (w3_lt _ _ _ _ _) ((fS_w3 _ _ _ _ _).trans (Nat.mod_eq_of_lt n0.isLt)) (by rw [fOP_w3]; decide) (by rw [fOP_w3]; decide)
theorem jmpv (n0 : Stall) (a : VReg) : Statement (.jmpv n0 a) :=
  of_one rfl rfl (w3_lt _ _ _ _ _) ((fS_w3 _ _ _ _ _).trans (Nat.mod_eq_of_lt n0.isLt)) (by rw [fOP_w3]; decide) (by rw [fOP_w3]; decide)
theorem exit (n0 : Stall) : Statement (.exit n0) :=
  of_one rfl rfl (w3_lt _ _ _ _ _) ((fS_w3 _ _ _ _ _).trans (Nat.mod_eq_of_lt n0.isLt)) (by rw [fOP_w3]; decide) (by rw [fOP_w3]; decide)
theorem setprio (n0 : Stall) (n : Fin 32) : Statement (.setprio n0 n) :=
  of_one rfl rfl (w3_lt _ _ _ _ _) ((fS_w3 _ _ _ _ _).trans (Nat.mod_eq_of_lt n0.isLt)) (by rw [fOP_w3]; decide) (by rw [fOP_w3]; decide)
theorem trap (n0 : Stall) (n : Fin 128) : Statement (.trap n0 n) :=
  of_one rfl rfl (w3_lt _ _ _ _ _) ((fS_w3 _ _ _ _ _).trans (Nat.mod_eq_of_lt n0.isLt)) (by rw [fOP_w3]; decide) (by rw [fOP_w3]; decide)
theorem rett (n0 : Stall) : Statement (.rett n0) :=
  of_one rfl rfl (w3_lt _ _ _ _ _) ((fS_w3 _ _ _ _ _).trans (Nat.mod_eq_of_lt n0.isLt)) (by rw [fOP_w3]; decide) (by rw [fOP_w3]; decide)
theorem brk (n0 : Stall) (n : BitVec 8) : Statement (.brk n0 n) :=
  of_one rfl rfl (w3_lt _ _ _ _ _) ((fS_w3 _ _ _ _ _).trans (Nat.mod_eq_of_lt n0.isLt)) (by rw [fOP_w3]; decide) (by rw [fOP_w3]; decide)
theorem yieldAll (n0 : Stall) (x : Option SReg) (m : BitVec 16) : Statement (.yieldAll n0 x m) :=
  of_one rfl rfl (wy_lt _ _ _ _) ((fS_wy _ _ _ _).trans (Nat.mod_eq_of_lt n0.isLt)) (by rw [fOP_wy]; decide) (by rw [fOP_wy]; decide)
theorem yieldAny (n0 : Stall) (x : Option SReg) (m : BitVec 16) : Statement (.yieldAny n0 x m) :=
  of_one rfl rfl (wy_lt _ _ _ _) ((fS_wy _ _ _ _).trans (Nat.mod_eq_of_lt n0.isLt)) (by rw [fOP_wy]; decide) (by rw [fOP_wy]; decide)
theorem yieldAt (n0 : Stall) (x : Option SReg) (m : BitVec 16) : Statement (.yieldAt n0 x m) :=
  of_one rfl rfl (wy_lt _ _ _ _) ((fS_wy _ _ _ _).trans (Nat.mod_eq_of_lt n0.isLt)) (by rw [fOP_wy]; decide) (by rw [fOP_wy]; decide)
theorem live (n0 : Stall) (n : Fin 13) : Statement (.live n0 n) :=
  of_one rfl rfl (w3_lt _ _ _ _ _) ((fS_w3 _ _ _ _ _).trans (Nat.mod_eq_of_lt n0.isLt)) (by rw [fOP_w3]; decide) (by rw [fOP_w3]; decide)
theorem fork (n0 : Stall) (p : PReg) (off : BitVec 16) (prio : Fin 32) : Statement (.fork n0 p off prio) :=
  of_one rfl rfl (wb_lt _ _ _ _ _) ((fS_wb _ _ _ _ _).trans (Nat.mod_eq_of_lt n0.isLt)) (by rw [fOP_wb]; decide) (by rw [fOP_wb]; decide)
theorem bts (n0 : Stall) (t : TReg) (off : BitVec 16) (prio : Fin 32) : Statement (.bts n0 t off prio) :=
  of_two rfl rfl (wb_lt _ _ _ _ _) (wbe_lt _ _) ((fS_wb _ _ _ _ _).trans (Nat.mod_eq_of_lt n0.isLt)) (by rw [fOP_wb]; decide) (by rw [fOP_wb]; decide)
theorem btb (n0 : Stall) (t : TReg) (off : BitVec 16) (prio : Fin 32) : Statement (.btb n0 t off prio) :=
  of_two rfl rfl (wb_lt _ _ _ _ _) (wbe_lt _ _) ((fS_wb _ _ _ _ _).trans (Nat.mod_eq_of_lt n0.isLt)) (by rw [fOP_wb]; decide) (by rw [fOP_wb]; decide)
theorem bth (n0 : Stall) (t : TReg) (off : BitVec 16) (prio : Fin 32) : Statement (.bth n0 t off prio) :=
  of_two rfl rfl (wb_lt _ _ _ _ _) (wbe_lt _ _) ((fS_wb _ _ _ _ _).trans (Nat.mod_eq_of_lt n0.isLt)) (by rw [fOP_wb]; decide) (by rw [fOP_wb]; decide)
theorem btl (n0 : Stall) (t : TReg) (delta : BitVec 28) (off : BitVec 16) (prio : Fin 32) : Statement (.btl n0 t delta off prio) :=
  of_two rfl rfl (wb_lt _ _ _ _ _) (wbe_lt _ _) ((fS_wb _ _ _ _ _).trans (Nat.mod_eq_of_lt n0.isLt)) (by rw [fOP_wb]; decide) (by rw [fOP_wb]; decide)
theorem smov (n0 : Stall) (d : SReg) (a : SReg) : Statement (.smov n0 d a) :=
  of_one rfl rfl (w3_lt _ _ _ _ _) ((fS_w3 _ _ _ _ _).trans (Nat.mod_eq_of_lt n0.isLt)) (by rw [fOP_w3]; decide) (by rw [fOP_w3]; decide)
theorem sli (n0 : Stall) (d : SReg) (imm : BitVec 32) : Statement (.sli n0 d imm) :=
  of_two rfl rfl (w3_lt _ _ _ _ _) (imm.isLt) ((fS_w3 _ _ _ _ _).trans (Nat.mod_eq_of_lt n0.isLt)) (by rw [fOP_w3]; decide) (by rw [fOP_w3]; decide)
theorem slih (n0 : Stall) (d : SReg) (imm : BitVec 32) : Statement (.slih n0 d imm) :=
  of_two rfl rfl (w3_lt _ _ _ _ _) (imm.isLt) ((fS_w3 _ _ _ _ _).trans (Nat.mod_eq_of_lt n0.isLt)) (by rw [fOP_w3]; decide) (by rw [fOP_w3]; decide)
theorem sadd (n0 : Stall) (d : SReg) (a : SReg) (b : SReg) : Statement (.sadd n0 d a b) :=
  of_one rfl rfl (w3_lt _ _ _ _ _) ((fS_w3 _ _ _ _ _).trans (Nat.mod_eq_of_lt n0.isLt)) (by rw [fOP_w3]; decide) (by rw [fOP_w3]; decide)
theorem ssub (n0 : Stall) (d : SReg) (a : SReg) (b : SReg) : Statement (.ssub n0 d a b) :=
  of_one rfl rfl (w3_lt _ _ _ _ _) ((fS_w3 _ _ _ _ _).trans (Nat.mod_eq_of_lt n0.isLt)) (by rw [fOP_w3]; decide) (by rw [fOP_w3]; decide)
theorem saddi (n0 : Stall) (d : SReg) (a : SReg) (imm : BitVec 8) : Statement (.saddi n0 d a imm) :=
  of_one rfl rfl (w3_lt _ _ _ _ _) ((fS_w3 _ _ _ _ _).trans (Nat.mod_eq_of_lt n0.isLt)) (by rw [fOP_w3]; decide) (by rw [fOP_w3]; decide)
theorem smul (n0 : Stall) (d : SReg) (a : SReg) (b : SReg) : Statement (.smul n0 d a b) :=
  of_one rfl rfl (w3_lt _ _ _ _ _) ((fS_w3 _ _ _ _ _).trans (Nat.mod_eq_of_lt n0.isLt)) (by rw [fOP_w3]; decide) (by rw [fOP_w3]; decide)
theorem smulhI (n0 : Stall) (d : SReg) (a : SReg) (b : SReg) : Statement (.smulhI n0 d a b) :=
  of_one rfl rfl (w3_lt _ _ _ _ _) ((fS_w3 _ _ _ _ _).trans (Nat.mod_eq_of_lt n0.isLt)) (by rw [fOP_w3]; decide) (by rw [fOP_w3]; decide)
theorem smulhN (n0 : Stall) (d : SReg) (a : SReg) (b : SReg) : Statement (.smulhN n0 d a b) :=
  of_one rfl rfl (w3_lt _ _ _ _ _) ((fS_w3 _ _ _ _ _).trans (Nat.mod_eq_of_lt n0.isLt)) (by rw [fOP_w3]; decide) (by rw [fOP_w3]; decide)
theorem sand (n0 : Stall) (d : SReg) (a : SReg) (b : SReg) : Statement (.sand n0 d a b) :=
  of_one rfl rfl (w3_lt _ _ _ _ _) ((fS_w3 _ _ _ _ _).trans (Nat.mod_eq_of_lt n0.isLt)) (by rw [fOP_w3]; decide) (by rw [fOP_w3]; decide)
theorem sor (n0 : Stall) (d : SReg) (a : SReg) (b : SReg) : Statement (.sor n0 d a b) :=
  of_one rfl rfl (w3_lt _ _ _ _ _) ((fS_w3 _ _ _ _ _).trans (Nat.mod_eq_of_lt n0.isLt)) (by rw [fOP_w3]; decide) (by rw [fOP_w3]; decide)
theorem sxor (n0 : Stall) (d : SReg) (a : SReg) (b : SReg) : Statement (.sxor n0 d a b) :=
  of_one rfl rfl (w3_lt _ _ _ _ _) ((fS_w3 _ _ _ _ _).trans (Nat.mod_eq_of_lt n0.isLt)) (by rw [fOP_w3]; decide) (by rw [fOP_w3]; decide)
theorem snot (n0 : Stall) (d : SReg) (a : SReg) : Statement (.snot n0 d a) :=
  of_one rfl rfl (w3_lt _ _ _ _ _) ((fS_w3 _ _ _ _ _).trans (Nat.mod_eq_of_lt n0.isLt)) (by rw [fOP_w3]; decide) (by rw [fOP_w3]; decide)
theorem sshl (n0 : Stall) (d : SReg) (a : SReg) (b : SReg) : Statement (.sshl n0 d a b) :=
  of_one rfl rfl (w3_lt _ _ _ _ _) ((fS_w3 _ _ _ _ _).trans (Nat.mod_eq_of_lt n0.isLt)) (by rw [fOP_w3]; decide) (by rw [fOP_w3]; decide)
theorem sshr (n0 : Stall) (d : SReg) (a : SReg) (b : SReg) : Statement (.sshr n0 d a b) :=
  of_one rfl rfl (w3_lt _ _ _ _ _) ((fS_w3 _ _ _ _ _).trans (Nat.mod_eq_of_lt n0.isLt)) (by rw [fOP_w3]; decide) (by rw [fOP_w3]; decide)
theorem ssra (n0 : Stall) (d : SReg) (a : SReg) (b : SReg) : Statement (.ssra n0 d a b) :=
  of_one rfl rfl (w3_lt _ _ _ _ _) ((fS_w3 _ _ _ _ _).trans (Nat.mod_eq_of_lt n0.isLt)) (by rw [fOP_w3]; decide) (by rw [fOP_w3]; decide)
theorem sminI (n0 : Stall) (d : SReg) (a : SReg) (b : SReg) : Statement (.sminI n0 d a b) :=
  of_one rfl rfl (w3_lt _ _ _ _ _) ((fS_w3 _ _ _ _ _).trans (Nat.mod_eq_of_lt n0.isLt)) (by rw [fOP_w3]; decide) (by rw [fOP_w3]; decide)
theorem sminN (n0 : Stall) (d : SReg) (a : SReg) (b : SReg) : Statement (.sminN n0 d a b) :=
  of_one rfl rfl (w3_lt _ _ _ _ _) ((fS_w3 _ _ _ _ _).trans (Nat.mod_eq_of_lt n0.isLt)) (by rw [fOP_w3]; decide) (by rw [fOP_w3]; decide)
theorem smaxI (n0 : Stall) (d : SReg) (a : SReg) (b : SReg) : Statement (.smaxI n0 d a b) :=
  of_one rfl rfl (w3_lt _ _ _ _ _) ((fS_w3 _ _ _ _ _).trans (Nat.mod_eq_of_lt n0.isLt)) (by rw [fOP_w3]; decide) (by rw [fOP_w3]; decide)
theorem smaxN (n0 : Stall) (d : SReg) (a : SReg) (b : SReg) : Statement (.smaxN n0 d a b) :=
  of_one rfl rfl (w3_lt _ _ _ _ _) ((fS_w3 _ _ _ _ _).trans (Nat.mod_eq_of_lt n0.isLt)) (by rw [fOP_w3]; decide) (by rw [fOP_w3]; decide)
theorem sclz (n0 : Stall) (d : SReg) (a : SReg) : Statement (.sclz n0 d a) :=
  of_one rfl rfl (w3_lt _ _ _ _ _) ((fS_w3 _ _ _ _ _).trans (Nat.mod_eq_of_lt n0.isLt)) (by rw [fOP_w3]; decide) (by rw [fOP_w3]; decide)
theorem spop (n0 : Stall) (d : SReg) (a : SReg) : Statement (.spop n0 d a) :=
  of_one rfl rfl (w3_lt _ _ _ _ _) ((fS_w3 _ _ _ _ _).trans (Nat.mod_eq_of_lt n0.isLt)) (by rw [fOP_w3]; decide) (by rw [fOP_w3]; decide)
theorem sbfx (n0 : Stall) (d : SReg) (a : SReg) (sg : Bool) (f : BitField) : Statement (.sbfx n0 d a sg f) :=
  of_two rfl rfl (w3_lt _ _ _ _ _) (w3e_lt _ _ _) ((fS_w3 _ _ _ _ _).trans (Nat.mod_eq_of_lt n0.isLt)) (by rw [fOP_w3]; decide) (by rw [fOP_w3]; decide)
theorem sbfi (n0 : Stall) (d : SReg) (a : SReg) (f : BitField) : Statement (.sbfi n0 d a f) :=
  of_two rfl rfl (w3_lt _ _ _ _ _) (w3e_lt _ _ _) ((fS_w3 _ _ _ _ _).trans (Nat.mod_eq_of_lt n0.isLt)) (by rw [fOP_w3]; decide) (by rw [fOP_w3]; decide)
theorem scmp (n0 : Stall) (d : SReg) (a : SReg) (b : SReg) (cc : Cond) (sg : Bool) : Statement (.scmp n0 d a b cc sg) :=
  of_two rfl rfl (w3_lt _ _ _ _ _) (w3e_lt _ _ _) ((fS_w3 _ _ _ _ _).trans (Nat.mod_eq_of_lt n0.isLt)) (by rw [fOP_w3]; decide) (by rw [fOP_w3]; decide)
theorem ssel (n0 : Stall) (d : SReg) (a : SReg) (b : SReg) (c : SReg) : Statement (.ssel n0 d a b c) :=
  of_two rfl rfl (w3_lt _ _ _ _ _) (w3e_lt _ _ _) ((fS_w3 _ _ _ _ _).trans (Nat.mod_eq_of_lt n0.isLt)) (by rw [fOP_w3]; decide) (by rw [fOP_w3]; decide)
theorem sreg (n0 : Stall) (d : SReg) (n : Fin 11) : Statement (.sreg n0 d n) :=
  of_one rfl rfl (w3_lt _ _ _ _ _) ((fS_w3 _ _ _ _ _).trans (Nat.mod_eq_of_lt n0.isLt)) (by rw [fOP_w3]; decide) (by rw [fOP_w3]; decide)
theorem vmov (n0 : Stall) (d : VReg) (a : VSrc) : Statement (.vmov n0 d a) :=
  of_one rfl rfl (w3_lt _ _ _ _ _) ((fS_w3 _ _ _ _ _).trans (Nat.mod_eq_of_lt n0.isLt)) (by rw [fOP_w3]; decide) (by rw [fOP_w3]; decide)
theorem vli (n0 : Stall) (d : VReg) (imm : BitVec 32) : Statement (.vli n0 d imm) :=
  of_two rfl rfl (w3_lt _ _ _ _ _) (imm.isLt) ((fS_w3 _ _ _ _ _).trans (Nat.mod_eq_of_lt n0.isLt)) (by rw [fOP_w3]; decide) (by rw [fOP_w3]; decide)
theorem vadd (n0 : Stall) (d : VReg) (a : VSrc) (b : VSrc) : Statement (.vadd n0 d a b) :=
  of_one rfl rfl (w3_lt _ _ _ _ _) ((fS_w3 _ _ _ _ _).trans (Nat.mod_eq_of_lt n0.isLt)) (by rw [fOP_w3]; decide) (by rw [fOP_w3]; decide)
theorem vsub (n0 : Stall) (d : VReg) (a : VSrc) (b : VSrc) : Statement (.vsub n0 d a b) :=
  of_one rfl rfl (w3_lt _ _ _ _ _) ((fS_w3 _ _ _ _ _).trans (Nat.mod_eq_of_lt n0.isLt)) (by rw [fOP_w3]; decide) (by rw [fOP_w3]; decide)
theorem vaddi (n0 : Stall) (d : VReg) (a : VSrc) (imm : BitVec 8) : Statement (.vaddi n0 d a imm) :=
  of_one rfl rfl (w3_lt _ _ _ _ _) ((fS_w3 _ _ _ _ _).trans (Nat.mod_eq_of_lt n0.isLt)) (by rw [fOP_w3]; decide) (by rw [fOP_w3]; decide)
theorem vmul (n0 : Stall) (d : VReg) (a : VSrc) (b : VSrc) : Statement (.vmul n0 d a b) :=
  of_one rfl rfl (w3_lt _ _ _ _ _) ((fS_w3 _ _ _ _ _).trans (Nat.mod_eq_of_lt n0.isLt)) (by rw [fOP_w3]; decide) (by rw [fOP_w3]; decide)
theorem vmulhI (n0 : Stall) (d : VReg) (a : VSrc) (b : VSrc) : Statement (.vmulhI n0 d a b) :=
  of_one rfl rfl (w3_lt _ _ _ _ _) ((fS_w3 _ _ _ _ _).trans (Nat.mod_eq_of_lt n0.isLt)) (by rw [fOP_w3]; decide) (by rw [fOP_w3]; decide)
theorem vmulhN (n0 : Stall) (d : VReg) (a : VSrc) (b : VSrc) : Statement (.vmulhN n0 d a b) :=
  of_one rfl rfl (w3_lt _ _ _ _ _) ((fS_w3 _ _ _ _ _).trans (Nat.mod_eq_of_lt n0.isLt)) (by rw [fOP_w3]; decide) (by rw [fOP_w3]; decide)
theorem vmad (n0 : Stall) (d : VReg) (a : VSrc) (b : VSrc) (c : VSrc) : Statement (.vmad n0 d a b c) :=
  of_two rfl rfl (w3_lt _ _ _ _ _) (w3e_lt _ _ _) ((fS_w3 _ _ _ _ _).trans (Nat.mod_eq_of_lt n0.isLt)) (by rw [fOP_w3]; decide) (by rw [fOP_w3]; decide)
theorem vand (n0 : Stall) (d : VReg) (a : VSrc) (b : VSrc) : Statement (.vand n0 d a b) :=
  of_one rfl rfl (w3_lt _ _ _ _ _) ((fS_w3 _ _ _ _ _).trans (Nat.mod_eq_of_lt n0.isLt)) (by rw [fOP_w3]; decide) (by rw [fOP_w3]; decide)
theorem vor (n0 : Stall) (d : VReg) (a : VSrc) (b : VSrc) : Statement (.vor n0 d a b) :=
  of_one rfl rfl (w3_lt _ _ _ _ _) ((fS_w3 _ _ _ _ _).trans (Nat.mod_eq_of_lt n0.isLt)) (by rw [fOP_w3]; decide) (by rw [fOP_w3]; decide)
theorem vxor (n0 : Stall) (d : VReg) (a : VSrc) (b : VSrc) : Statement (.vxor n0 d a b) :=
  of_one rfl rfl (w3_lt _ _ _ _ _) ((fS_w3 _ _ _ _ _).trans (Nat.mod_eq_of_lt n0.isLt)) (by rw [fOP_w3]; decide) (by rw [fOP_w3]; decide)
theorem vnot (n0 : Stall) (d : VReg) (a : VSrc) : Statement (.vnot n0 d a) :=
  of_one rfl rfl (w3_lt _ _ _ _ _) ((fS_w3 _ _ _ _ _).trans (Nat.mod_eq_of_lt n0.isLt)) (by rw [fOP_w3]; decide) (by rw [fOP_w3]; decide)
theorem vshl (n0 : Stall) (d : VReg) (a : VSrc) (b : VSrc) : Statement (.vshl n0 d a b) :=
  of_one rfl rfl (w3_lt _ _ _ _ _) ((fS_w3 _ _ _ _ _).trans (Nat.mod_eq_of_lt n0.isLt)) (by rw [fOP_w3]; decide) (by rw [fOP_w3]; decide)
theorem vshr (n0 : Stall) (d : VReg) (a : VSrc) (b : VSrc) : Statement (.vshr n0 d a b) :=
  of_one rfl rfl (w3_lt _ _ _ _ _) ((fS_w3 _ _ _ _ _).trans (Nat.mod_eq_of_lt n0.isLt)) (by rw [fOP_w3]; decide) (by rw [fOP_w3]; decide)
theorem vsra (n0 : Stall) (d : VReg) (a : VSrc) (b : VSrc) : Statement (.vsra n0 d a b) :=
  of_one rfl rfl (w3_lt _ _ _ _ _) ((fS_w3 _ _ _ _ _).trans (Nat.mod_eq_of_lt n0.isLt)) (by rw [fOP_w3]; decide) (by rw [fOP_w3]; decide)
theorem vmin (n0 : Stall) (d : VReg) (a : VSrc) (b : VSrc) (sg : Bool) : Statement (.vmin n0 d a b sg) :=
  of_two rfl rfl (w3_lt _ _ _ _ _) (w3e_lt _ _ _) ((fS_w3 _ _ _ _ _).trans (Nat.mod_eq_of_lt n0.isLt)) (by rw [fOP_w3]; decide) (by rw [fOP_w3]; decide)
theorem vmax (n0 : Stall) (d : VReg) (a : VSrc) (b : VSrc) (sg : Bool) : Statement (.vmax n0 d a b sg) :=
  of_two rfl rfl (w3_lt _ _ _ _ _) (w3e_lt _ _ _) ((fS_w3 _ _ _ _ _).trans (Nat.mod_eq_of_lt n0.isLt)) (by rw [fOP_w3]; decide) (by rw [fOP_w3]; decide)
theorem vabs (n0 : Stall) (d : VReg) (a : VSrc) : Statement (.vabs n0 d a) :=
  of_one rfl rfl (w3_lt _ _ _ _ _) ((fS_w3 _ _ _ _ _).trans (Nat.mod_eq_of_lt n0.isLt)) (by rw [fOP_w3]; decide) (by rw [fOP_w3]; decide)
theorem vclz (n0 : Stall) (d : VReg) (a : VSrc) : Statement (.vclz n0 d a) :=
  of_one rfl rfl (w3_lt _ _ _ _ _) ((fS_w3 _ _ _ _ _).trans (Nat.mod_eq_of_lt n0.isLt)) (by rw [fOP_w3]; decide) (by rw [fOP_w3]; decide)
theorem vpop (n0 : Stall) (d : VReg) (a : VSrc) : Statement (.vpop n0 d a) :=
  of_one rfl rfl (w3_lt _ _ _ _ _) ((fS_w3 _ _ _ _ _).trans (Nat.mod_eq_of_lt n0.isLt)) (by rw [fOP_w3]; decide) (by rw [fOP_w3]; decide)
theorem vbfx (n0 : Stall) (d : VReg) (a : VSrc) (sg : Bool) (f : BitField) : Statement (.vbfx n0 d a sg f) :=
  of_two rfl rfl (w3_lt _ _ _ _ _) (w3e_lt _ _ _) ((fS_w3 _ _ _ _ _).trans (Nat.mod_eq_of_lt n0.isLt)) (by rw [fOP_w3]; decide) (by rw [fOP_w3]; decide)
theorem vbfi (n0 : Stall) (d : VReg) (a : VSrc) (f : BitField) : Statement (.vbfi n0 d a f) :=
  of_two rfl rfl (w3_lt _ _ _ _ _) (w3e_lt _ _ _) ((fS_w3 _ _ _ _ _).trans (Nat.mod_eq_of_lt n0.isLt)) (by rw [fOP_w3]; decide) (by rw [fOP_w3]; decide)
theorem vcmp (n0 : Stall) (d : PReg) (a : VSrc) (b : VSrc) (cc : Cond) (sg : Bool) : Statement (.vcmp n0 d a b cc sg) :=
  of_two rfl rfl (w3_lt _ _ _ _ _) (w3e_lt _ _ _) ((fS_w3 _ _ _ _ _).trans (Nat.mod_eq_of_lt n0.isLt)) (by rw [fOP_w3]; decide) (by rw [fOP_w3]; decide)
theorem vsel (n0 : Stall) (d : VReg) (a : VSrc) (b : VSrc) (p : PReg) : Statement (.vsel n0 d a b p) :=
  of_two rfl rfl (w3_lt _ _ _ _ _) (w3e_lt _ _ _) ((fS_w3 _ _ _ _ _).trans (Nat.mod_eq_of_lt n0.isLt)) (by rw [fOP_w3]; decide) (by rw [fOP_w3]; decide)
theorem fadd (n0 : Stall) (d : VReg) (a : VSrc) (b : VSrc) : Statement (.fadd n0 d a b) :=
  of_one rfl rfl (w3_lt _ _ _ _ _) ((fS_w3 _ _ _ _ _).trans (Nat.mod_eq_of_lt n0.isLt)) (by rw [fOP_w3]; decide) (by rw [fOP_w3]; decide)
theorem fsub (n0 : Stall) (d : VReg) (a : VSrc) (b : VSrc) : Statement (.fsub n0 d a b) :=
  of_one rfl rfl (w3_lt _ _ _ _ _) ((fS_w3 _ _ _ _ _).trans (Nat.mod_eq_of_lt n0.isLt)) (by rw [fOP_w3]; decide) (by rw [fOP_w3]; decide)
theorem fmul (n0 : Stall) (d : VReg) (a : VSrc) (b : VSrc) : Statement (.fmul n0 d a b) :=
  of_one rfl rfl (w3_lt _ _ _ _ _) ((fS_w3 _ _ _ _ _).trans (Nat.mod_eq_of_lt n0.isLt)) (by rw [fOP_w3]; decide) (by rw [fOP_w3]; decide)
theorem ffma (n0 : Stall) (d : VReg) (a : VSrc) (b : VSrc) (c : VSrc) (fv : FmaVar) : Statement (.ffma n0 d a b c fv) :=
  of_two rfl rfl (w3_lt _ _ _ _ _) (w3e_lt _ _ _) ((fS_w3 _ _ _ _ _).trans (Nat.mod_eq_of_lt n0.isLt)) (by rw [fOP_w3]; decide) (by rw [fOP_w3]; decide)
theorem fmin (n0 : Stall) (d : VReg) (a : VSrc) (b : VSrc) : Statement (.fmin n0 d a b) :=
  of_one rfl rfl (w3_lt _ _ _ _ _) ((fS_w3 _ _ _ _ _).trans (Nat.mod_eq_of_lt n0.isLt)) (by rw [fOP_w3]; decide) (by rw [fOP_w3]; decide)
theorem fmax (n0 : Stall) (d : VReg) (a : VSrc) (b : VSrc) : Statement (.fmax n0 d a b) :=
  of_one rfl rfl (w3_lt _ _ _ _ _) ((fS_w3 _ _ _ _ _).trans (Nat.mod_eq_of_lt n0.isLt)) (by rw [fOP_w3]; decide) (by rw [fOP_w3]; decide)
theorem fabs (n0 : Stall) (d : VReg) (a : VSrc) : Statement (.fabs n0 d a) :=
  of_one rfl rfl (w3_lt _ _ _ _ _) ((fS_w3 _ _ _ _ _).trans (Nat.mod_eq_of_lt n0.isLt)) (by rw [fOP_w3]; decide) (by rw [fOP_w3]; decide)
theorem fneg (n0 : Stall) (d : VReg) (a : VSrc) : Statement (.fneg n0 d a) :=
  of_one rfl rfl (w3_lt _ _ _ _ _) ((fS_w3 _ _ _ _ _).trans (Nat.mod_eq_of_lt n0.isLt)) (by rw [fOP_w3]; decide) (by rw [fOP_w3]; decide)
theorem fcmp (n0 : Stall) (d : PReg) (a : VSrc) (b : VSrc) (cc : Cond) : Statement (.fcmp n0 d a b cc) :=
  of_two rfl rfl (w3_lt _ _ _ _ _) (w3e_lt _ _ _) ((fS_w3 _ _ _ _ _).trans (Nat.mod_eq_of_lt n0.isLt)) (by rw [fOP_w3]; decide) (by rw [fOP_w3]; decide)
theorem frcp (n0 : Stall) (d : VReg) (a : VSrc) : Statement (.frcp n0 d a) :=
  of_one rfl rfl (w3_lt _ _ _ _ _) ((fS_w3 _ _ _ _ _).trans (Nat.mod_eq_of_lt n0.isLt)) (by rw [fOP_w3]; decide) (by rw [fOP_w3]; decide)
theorem frsq (n0 : Stall) (d : VReg) (a : VSrc) : Statement (.frsq n0 d a) :=
  of_one rfl rfl (w3_lt _ _ _ _ _) ((fS_w3 _ _ _ _ _).trans (Nat.mod_eq_of_lt n0.isLt)) (by rw [fOP_w3]; decide) (by rw [fOP_w3]; decide)
theorem fsqrt (n0 : Stall) (d : VReg) (a : VSrc) : Statement (.fsqrt n0 d a) :=
  of_one rfl rfl (w3_lt _ _ _ _ _) ((fS_w3 _ _ _ _ _).trans (Nat.mod_eq_of_lt n0.isLt)) (by rw [fOP_w3]; decide) (by rw [fOP_w3]; decide)
theorem fex2 (n0 : Stall) (d : VReg) (a : VSrc) : Statement (.fex2 n0 d a) :=
  of_one rfl rfl (w3_lt _ _ _ _ _) ((fS_w3 _ _ _ _ _).trans (Nat.mod_eq_of_lt n0.isLt)) (by rw [fOP_w3]; decide) (by rw [fOP_w3]; decide)
theorem flg2 (n0 : Stall) (d : VReg) (a : VSrc) : Statement (.flg2 n0 d a) :=
  of_one rfl rfl (w3_lt _ _ _ _ _) ((fS_w3 _ _ _ _ _).trans (Nat.mod_eq_of_lt n0.isLt)) (by rw [fOP_w3]; decide) (by rw [fOP_w3]; decide)
theorem fsin (n0 : Stall) (d : VReg) (a : VSrc) : Statement (.fsin n0 d a) :=
  of_one rfl rfl (w3_lt _ _ _ _ _) ((fS_w3 _ _ _ _ _).trans (Nat.mod_eq_of_lt n0.isLt)) (by rw [fOP_w3]; decide) (by rw [fOP_w3]; decide)
theorem fcos (n0 : Stall) (d : VReg) (a : VSrc) : Statement (.fcos n0 d a) :=
  of_one rfl rfl (w3_lt _ _ _ _ _) ((fS_w3 _ _ _ _ _).trans (Nat.mod_eq_of_lt n0.isLt)) (by rw [fOP_w3]; decide) (by rw [fOP_w3]; decide)
theorem frnd (n0 : Stall) (d : VReg) (a : VSrc) (rm : Round) : Statement (.frnd n0 d a rm) :=
  of_two rfl rfl (w3_lt _ _ _ _ _) (w3e_lt _ _ _) ((fS_w3 _ _ _ _ _).trans (Nat.mod_eq_of_lt n0.isLt)) (by rw [fOP_w3]; decide) (by rw [fOP_w3]; decide)
theorem fclass (n0 : Stall) (d : VReg) (a : VSrc) : Statement (.fclass n0 d a) :=
  of_one rfl rfl (w3_lt _ _ _ _ _) ((fS_w3 _ _ _ _ _).trans (Nat.mod_eq_of_lt n0.isLt)) (by rw [fOP_w3]; decide) (by rw [fOP_w3]; decide)
theorem cvt (n0 : Stall) (d : VReg) (a : VSrc) (rm : Round) (sat : Bool) (dst : CvtType) (src : CvtType) : Statement (.cvt n0 d a rm sat dst src) :=
  of_two rfl rfl (w3_lt _ _ _ _ _) (w3e_lt _ _ _) ((fS_w3 _ _ _ _ _).trans (Nat.mod_eq_of_lt n0.isLt)) (by rw [fOP_w3]; decide) (by rw [fOP_w3]; decide)
theorem haddBf (n0 : Stall) (d : VReg) (a : VSrc) (b : VSrc) : Statement (.haddBf n0 d a b) :=
  of_one rfl rfl (w3_lt _ _ _ _ _) ((fS_w3 _ _ _ _ _).trans (Nat.mod_eq_of_lt n0.isLt)) (by rw [fOP_w3]; decide) (by rw [fOP_w3]; decide)
theorem hmulBf (n0 : Stall) (d : VReg) (a : VSrc) (b : VSrc) : Statement (.hmulBf n0 d a b) :=
  of_one rfl rfl (w3_lt _ _ _ _ _) ((fS_w3 _ _ _ _ _).trans (Nat.mod_eq_of_lt n0.isLt)) (by rw [fOP_w3]; decide) (by rw [fOP_w3]; decide)
theorem hfmaBf (n0 : Stall) (d : VReg) (a : VSrc) (b : VSrc) (c : VSrc) (fv : FmaVar) : Statement (.hfmaBf n0 d a b c fv) :=
  of_two rfl rfl (w3_lt _ _ _ _ _) (w3e_lt _ _ _) ((fS_w3 _ _ _ _ _).trans (Nat.mod_eq_of_lt n0.isLt)) (by rw [fOP_w3]; decide) (by rw [fOP_w3]; decide)
theorem haddH (n0 : Stall) (d : VReg) (a : VSrc) (b : VSrc) : Statement (.haddH n0 d a b) :=
  of_one rfl rfl (w3_lt _ _ _ _ _) ((fS_w3 _ _ _ _ _).trans (Nat.mod_eq_of_lt n0.isLt)) (by rw [fOP_w3]; decide) (by rw [fOP_w3]; decide)
theorem hmulH (n0 : Stall) (d : VReg) (a : VSrc) (b : VSrc) : Statement (.hmulH n0 d a b) :=
  of_one rfl rfl (w3_lt _ _ _ _ _) ((fS_w3 _ _ _ _ _).trans (Nat.mod_eq_of_lt n0.isLt)) (by rw [fOP_w3]; decide) (by rw [fOP_w3]; decide)
theorem hfmaH (n0 : Stall) (d : VReg) (a : VSrc) (b : VSrc) (c : VSrc) (fv : FmaVar) : Statement (.hfmaH n0 d a b c fv) :=
  of_two rfl rfl (w3_lt _ _ _ _ _) (w3e_lt _ _ _) ((fS_w3 _ _ _ _ _).trans (Nat.mod_eq_of_lt n0.isLt)) (by rw [fOP_w3]; decide) (by rw [fOP_w3]; decide)
theorem shflIdx (n0 : Stall) (d : VReg) (a : VSrc) (b : VSrc) : Statement (.shflIdx n0 d a b) :=
  of_two rfl rfl (w3_lt _ _ _ _ _) (w3e_lt _ _ _) ((fS_w3 _ _ _ _ _).trans (Nat.mod_eq_of_lt n0.isLt)) (by rw [fOP_w3]; decide) (by rw [fOP_w3]; decide)
theorem shflN (n0 : Stall) (d : VReg) (a : VSrc) (k : ShflKind) (n : Fin 32) : Statement (.shflN n0 d a k n) :=
  of_two rfl rfl (w3_lt _ _ _ _ _) (w3e_lt _ _ _) ((fS_w3 _ _ _ _ _).trans (Nat.mod_eq_of_lt n0.isLt)) (by rw [fOP_w3]; decide) (by rw [fOP_w3]; decide)
theorem bcast (n0 : Stall) (d : VReg) (a : VSrc) (b : SReg) : Statement (.bcast n0 d a b) :=
  of_one rfl rfl (w3_lt _ _ _ _ _) ((fS_w3 _ _ _ _ _).trans (Nat.mod_eq_of_lt n0.isLt)) (by rw [fOP_w3]; decide) (by rw [fOP_w3]; decide)
theorem vote (n0 : Stall) (d : PReg) (a : VSrc) : Statement (.vote n0 d a) :=
  of_one rfl rfl (w3_lt _ _ _ _ _) ((fS_w3 _ _ _ _ _).trans (Nat.mod_eq_of_lt n0.isLt)) (by rw [fOP_w3]; decide) (by rw [fOP_w3]; decide)
theorem vred (n0 : Stall) (d : VReg) (a : VSrc) (op : RedOp) : Statement (.vred n0 d a op) :=
  of_two rfl rfl (w3_lt _ _ _ _ _) (w3e_lt _ _ _) ((fS_w3 _ _ _ _ _).trans (Nat.mod_eq_of_lt n0.isLt)) (by rw [fOP_w3]; decide) (by rw [fOP_w3]; decide)
theorem vscan (n0 : Stall) (d : VReg) (a : VSrc) (op : RedOp) (ex : Bool) : Statement (.vscan n0 d a op ex) :=
  of_two rfl rfl (w3_lt _ _ _ _ _) (w3e_lt _ _ _) ((fS_w3 _ _ _ _ _).trans (Nat.mod_eq_of_lt n0.isLt)) (by rw [fOP_w3]; decide) (by rw [fOP_w3]; decide)
theorem vlane (n0 : Stall) (d : VReg) : Statement (.vlane n0 d) :=
  of_one rfl rfl (w3_lt _ _ _ _ _) ((fS_w3 _ _ _ _ _).trans (Nat.mod_eq_of_lt n0.isLt)) (by rw [fOP_w3]; decide) (by rw [fOP_w3]; decide)
theorem pand (n0 : Stall) (d : PReg) (a : PReg) (b : PReg) : Statement (.pand n0 d a b) :=
  of_one rfl rfl (w3_lt _ _ _ _ _) ((fS_w3 _ _ _ _ _).trans (Nat.mod_eq_of_lt n0.isLt)) (by rw [fOP_w3]; decide) (by rw [fOP_w3]; decide)
theorem por (n0 : Stall) (d : PReg) (a : PReg) (b : PReg) : Statement (.por n0 d a b) :=
  of_one rfl rfl (w3_lt _ _ _ _ _) ((fS_w3 _ _ _ _ _).trans (Nat.mod_eq_of_lt n0.isLt)) (by rw [fOP_w3]; decide) (by rw [fOP_w3]; decide)
theorem pxor (n0 : Stall) (d : PReg) (a : PReg) (b : PReg) : Statement (.pxor n0 d a b) :=
  of_one rfl rfl (w3_lt _ _ _ _ _) ((fS_w3 _ _ _ _ _).trans (Nat.mod_eq_of_lt n0.isLt)) (by rw [fOP_w3]; decide) (by rw [fOP_w3]; decide)
theorem pnot (n0 : Stall) (d : PReg) (a : PReg) : Statement (.pnot n0 d a) :=
  of_one rfl rfl (w3_lt _ _ _ _ _) ((fS_w3 _ _ _ _ _).trans (Nat.mod_eq_of_lt n0.isLt)) (by rw [fOP_w3]; decide) (by rw [fOP_w3]; decide)
theorem pmov (n0 : Stall) (d : PReg) (a : SReg) : Statement (.pmov n0 d a) :=
  of_one rfl rfl (w3_lt _ _ _ _ _) ((fS_w3 _ _ _ _ _).trans (Nat.mod_eq_of_lt n0.isLt)) (by rw [fOP_w3]; decide) (by rw [fOP_w3]; decide)
theorem pget (n0 : Stall) (d : VReg) (a : PReg) : Statement (.pget n0 d a) :=
  of_one rfl rfl (w3_lt _ _ _ _ _) ((fS_w3 _ _ _ _ _).trans (Nat.mod_eq_of_lt n0.isLt)) (by rw [fOP_w3]; decide) (by rw [fOP_w3]; decide)
theorem ld (n0 : Stall) (m : MemOp) : Statement (.ld n0 m) :=
  of_two rfl rfl (wo_lt _ _ _ _ _ _) (wme_lt _ _ _ _ _ _ _ _) ((fS_wo _ _ _ _ _ _).trans (Nat.mod_eq_of_lt n0.isLt)) (by rw [fOP_wo]; decide) (by rw [fOP_wo]; decide)
theorem st (n0 : Stall) (m : MemOp) : Statement (.st n0 m) :=
  of_two rfl rfl (wo_lt _ _ _ _ _ _) (wme_lt _ _ _ _ _ _ _ _) ((fS_wo _ _ _ _ _ _).trans (Nat.mod_eq_of_lt n0.isLt)) (by rw [fOP_wo]; decide) (by rw [fOP_wo]; decide)
theorem atomAdd (n0 : Stall) (m : MemOp) : Statement (.atomAdd n0 m) :=
  of_two rfl rfl (wo_lt _ _ _ _ _ _) (wme_lt _ _ _ _ _ _ _ _) ((fS_wo _ _ _ _ _ _).trans (Nat.mod_eq_of_lt n0.isLt)) (by rw [fOP_wo]; decide) (by rw [fOP_wo]; decide)
theorem atomMin (n0 : Stall) (m : MemOp) : Statement (.atomMin n0 m) :=
  of_two rfl rfl (wo_lt _ _ _ _ _ _) (wme_lt _ _ _ _ _ _ _ _) ((fS_wo _ _ _ _ _ _).trans (Nat.mod_eq_of_lt n0.isLt)) (by rw [fOP_wo]; decide) (by rw [fOP_wo]; decide)
theorem atomMax (n0 : Stall) (m : MemOp) : Statement (.atomMax n0 m) :=
  of_two rfl rfl (wo_lt _ _ _ _ _ _) (wme_lt _ _ _ _ _ _ _ _) ((fS_wo _ _ _ _ _ _).trans (Nat.mod_eq_of_lt n0.isLt)) (by rw [fOP_wo]; decide) (by rw [fOP_wo]; decide)
theorem atomAnd (n0 : Stall) (m : MemOp) : Statement (.atomAnd n0 m) :=
  of_two rfl rfl (wo_lt _ _ _ _ _ _) (wme_lt _ _ _ _ _ _ _ _) ((fS_wo _ _ _ _ _ _).trans (Nat.mod_eq_of_lt n0.isLt)) (by rw [fOP_wo]; decide) (by rw [fOP_wo]; decide)
theorem atomOr (n0 : Stall) (m : MemOp) : Statement (.atomOr n0 m) :=
  of_two rfl rfl (wo_lt _ _ _ _ _ _) (wme_lt _ _ _ _ _ _ _ _) ((fS_wo _ _ _ _ _ _).trans (Nat.mod_eq_of_lt n0.isLt)) (by rw [fOP_wo]; decide) (by rw [fOP_wo]; decide)
theorem atomXor (n0 : Stall) (m : MemOp) : Statement (.atomXor n0 m) :=
  of_two rfl rfl (wo_lt _ _ _ _ _ _) (wme_lt _ _ _ _ _ _ _ _) ((fS_wo _ _ _ _ _ _).trans (Nat.mod_eq_of_lt n0.isLt)) (by rw [fOP_wo]; decide) (by rw [fOP_wo]; decide)
theorem atomXchg (n0 : Stall) (m : MemOp) : Statement (.atomXchg n0 m) :=
  of_two rfl rfl (wo_lt _ _ _ _ _ _) (wme_lt _ _ _ _ _ _ _ _) ((fS_wo _ _ _ _ _ _).trans (Nat.mod_eq_of_lt n0.isLt)) (by rw [fOP_wo]; decide) (by rw [fOP_wo]; decide)
theorem atomCas (n0 : Stall) (m : MemOp) : Statement (.atomCas n0 m) :=
  of_two rfl rfl (wo_lt _ _ _ _ _ _) (wme_lt _ _ _ _ _ _ _ _) ((fS_wo _ _ _ _ _ _).trans (Nat.mod_eq_of_lt n0.isLt)) (by rw [fOP_wo]; decide) (by rw [fOP_wo]; decide)
theorem atomInc (n0 : Stall) (m : MemOp) : Statement (.atomInc n0 m) :=
  of_two rfl rfl (wo_lt _ _ _ _ _ _) (wme_lt _ _ _ _ _ _ _ _) ((fS_wo _ _ _ _ _ _).trans (Nat.mod_eq_of_lt n0.isLt)) (by rw [fOP_wo]; decide) (by rw [fOP_wo]; decide)
theorem atomFadd (n0 : Stall) (m : MemOp) : Statement (.atomFadd n0 m) :=
  of_two rfl rfl (wo_lt _ _ _ _ _ _) (wme_lt _ _ _ _ _ _ _ _) ((fS_wo _ _ _ _ _ _).trans (Nat.mod_eq_of_lt n0.isLt)) (by rw [fOP_wo]; decide) (by rw [fOP_wo]; decide)
theorem redAdd (n0 : Stall) (m : MemOp) : Statement (.redAdd n0 m) :=
  of_two rfl rfl (wo_lt _ _ _ _ _ _) (wme_lt _ _ _ _ _ _ _ _) ((fS_wo _ _ _ _ _ _).trans (Nat.mod_eq_of_lt n0.isLt)) (by rw [fOP_wo]; decide) (by rw [fOP_wo]; decide)
theorem redMin (n0 : Stall) (m : MemOp) : Statement (.redMin n0 m) :=
  of_two rfl rfl (wo_lt _ _ _ _ _ _) (wme_lt _ _ _ _ _ _ _ _) ((fS_wo _ _ _ _ _ _).trans (Nat.mod_eq_of_lt n0.isLt)) (by rw [fOP_wo]; decide) (by rw [fOP_wo]; decide)
theorem redMax (n0 : Stall) (m : MemOp) : Statement (.redMax n0 m) :=
  of_two rfl rfl (wo_lt _ _ _ _ _ _) (wme_lt _ _ _ _ _ _ _ _) ((fS_wo _ _ _ _ _ _).trans (Nat.mod_eq_of_lt n0.isLt)) (by rw [fOP_wo]; decide) (by rw [fOP_wo]; decide)
theorem redFadd (n0 : Stall) (m : MemOp) : Statement (.redFadd n0 m) :=
  of_two rfl rfl (wo_lt _ _ _ _ _ _) (wme_lt _ _ _ _ _ _ _ _) ((fS_wo _ _ _ _ _ _).trans (Nat.mod_eq_of_lt n0.isLt)) (by rw [fOP_wo]; decide) (by rw [fOP_wo]; decide)
theorem pf (n0 : Stall) (m : MemOp) : Statement (.pf n0 m) :=
  of_two rfl rfl (wo_lt _ _ _ _ _ _) (wme_lt _ _ _ _ _ _ _ _) ((fS_wo _ _ _ _ _ _).trans (Nat.mod_eq_of_lt n0.isLt)) (by rw [fOP_wo]; decide) (by rw [fOP_wo]; decide)
theorem bchk (n0 : Stall) (m : MemOp) : Statement (.bchk n0 m) :=
  of_two rfl rfl (wo_lt _ _ _ _ _ _) (wme_lt _ _ _ _ _ _ _ _) ((fS_wo _ _ _ _ _ _).trans (Nat.mod_eq_of_lt n0.isLt)) (by rw [fOP_wo]; decide) (by rw [fOP_wo]; decide)
theorem bmeta (n0 : Stall) (m : MemOp) : Statement (.bmeta n0 m) :=
  of_two rfl rfl (wo_lt _ _ _ _ _ _) (wme_lt _ _ _ _ _ _ _ _) ((fS_wo _ _ _ _ _ _).trans (Nat.mod_eq_of_lt n0.isLt)) (by rw [fOP_wo]; decide) (by rw [fOP_wo]; decide)
theorem lds (n0 : Stall) (m : MemOp) : Statement (.lds n0 m) :=
  of_two rfl rfl (wo_lt _ _ _ _ _ _) (wme_lt _ _ _ _ _ _ _ _) ((fS_wo _ _ _ _ _ _).trans (Nat.mod_eq_of_lt n0.isLt)) (by rw [fOP_wo]; decide) (by rw [fOP_wo]; decide)
theorem sts (n0 : Stall) (m : MemOp) : Statement (.sts n0 m) :=
  of_two rfl rfl (wo_lt _ _ _ _ _ _) (wme_lt _ _ _ _ _ _ _ _) ((fS_wo _ _ _ _ _ _).trans (Nat.mod_eq_of_lt n0.isLt)) (by rw [fOP_wo]; decide) (by rw [fOP_wo]; decide)
theorem atomsAdd (n0 : Stall) (m : MemOp) : Statement (.atomsAdd n0 m) :=
  of_two rfl rfl (wo_lt _ _ _ _ _ _) (wme_lt _ _ _ _ _ _ _ _) ((fS_wo _ _ _ _ _ _).trans (Nat.mod_eq_of_lt n0.isLt)) (by rw [fOP_wo]; decide) (by rw [fOP_wo]; decide)
theorem atomsCas (n0 : Stall) (m : MemOp) : Statement (.atomsCas n0 m) :=
  of_two rfl rfl (wo_lt _ _ _ _ _ _) (wme_lt _ _ _ _ _ _ _ _) ((fS_wo _ _ _ _ _ _).trans (Nat.mod_eq_of_lt n0.isLt)) (by rw [fOP_wo]; decide) (by rw [fOP_wo]; decide)
theorem plpack (n0 : Stall) (d : SReg) (a : SReg) (b : SReg) (w : PlaneWidth) : Statement (.plpack n0 d a b w) :=
  of_two rfl rfl (w3_lt _ _ _ _ _) (w3e_lt _ _ _) ((fS_w3 _ _ _ _ _).trans (Nat.mod_eq_of_lt n0.isLt)) (by rw [fOP_w3]; decide) (by rw [fOP_w3]; decide)
theorem plunpack (n0 : Stall) (d : SReg) (a : SReg) (b : SReg) (w : PlaneWidth) : Statement (.plunpack n0 d a b w) :=
  of_two rfl rfl (w3_lt _ _ _ _ _) (w3e_lt _ _ _) ((fS_w3 _ _ _ _ _).trans (Nat.mod_eq_of_lt n0.isLt)) (by rw [fOP_w3]; decide) (by rw [fOP_w3]; decide)
theorem l1cfg (n0 : Stall) (a : SReg) (t : TReg) : Statement (.l1cfg n0 a t) :=
  of_one rfl rfl (wo_lt _ _ _ _ _ _) ((fS_wo _ _ _ _ _ _).trans (Nat.mod_eq_of_lt n0.isLt)) (by rw [fOP_wo]; decide) (by rw [fOP_wo]; decide)
theorem copy (n0 : Stall) (a : SReg) (t : TReg) (sc : Scope) (rel : Bool) : Statement (.copy n0 a t sc rel) :=
  of_two rfl rfl (wo_lt _ _ _ _ _ _) (by cases sc <;> cases rel <;> decide) ((fS_wo _ _ _ _ _ _).trans (Nat.mod_eq_of_lt n0.isLt)) (by rw [fOP_wo]; decide) (by rw [fOP_wo]; decide)
theorem cwp (n0 : Stall) (d : SReg) (a : SReg) : Statement (.cwp n0 d a) :=
  of_one rfl rfl (wo_lt _ _ _ _ _ _) ((fS_wo _ _ _ _ _ _).trans (Nat.mod_eq_of_lt n0.isLt)) (by rw [fOP_wo]; decide) (by rw [fOP_wo]; decide)
theorem fence (n0 : Stall) (sc : Scope) (k : FenceKind) : Statement (.fence n0 sc k) :=
  of_one rfl rfl (w3_lt _ _ _ _ _) ((fS_w3 _ _ _ _ _).trans (Nat.mod_eq_of_lt n0.isLt)) (by rw [fOP_w3]; decide) (by rw [fOP_w3]; decide)
theorem watch (n0 : Stall) (m : MemOp) : Statement (.watch n0 m) :=
  of_two rfl rfl (wo_lt _ _ _ _ _ _) (wme_lt _ _ _ _ _ _ _ _) ((fS_wo _ _ _ _ _ _).trans (Nat.mod_eq_of_lt n0.isLt)) (by rw [fOP_wo]; decide) (by rw [fOP_wo]; decide)
theorem mldA (n0 : Stall) (a : SReg) (t : TReg) (l : Fin 4) (f : Fin 8) : Statement (.mldA n0 a t l f) :=
  of_two rfl rfl (wo_lt _ _ _ _ _ _) (by have := l.isLt; have := f.isLt; omega) ((fS_wo _ _ _ _ _ _).trans (Nat.mod_eq_of_lt n0.isLt)) (by rw [fOP_wo]; decide) (by rw [fOP_wo]; decide)
theorem mldB (n0 : Stall) (a : SReg) (t : TReg) (l : Fin 4) (f : Fin 8) (sm : Bool) : Statement (.mldB n0 a t l f sm) :=
  of_two rfl rfl (wo_lt _ _ _ _ _ _) (by have := l.isLt; have := f.isLt; have := Bool.toNat_le sm; omega) ((fS_wo _ _ _ _ _ _).trans (Nat.mod_eq_of_lt n0.isLt)) (by rw [fOP_wo]; decide) (by rw [fOP_wo]; decide)
theorem mma (n0 : Stall) (a : SReg) (t : TReg) : Statement (.mma n0 a t) :=
  of_one rfl rfl (wo_lt _ _ _ _ _ _) ((fS_wo _ _ _ _ _ _).trans (Nat.mod_eq_of_lt n0.isLt)) (by rw [fOP_wo]; decide) (by rw [fOP_wo]; decide)
theorem mdrain (n0 : Stall) (a : SReg) (t : TReg) (f : Fin 8) : Statement (.mdrain n0 a t f) :=
  of_two rfl rfl (wo_lt _ _ _ _ _ _) (by have := f.isLt; omega) ((fS_wo _ _ _ _ _ _).trans (Nat.mod_eq_of_lt n0.isLt)) (by rw [fOP_wo]; decide) (by rw [fOP_wo]; decide)
theorem mzero (n0 : Stall) (t : TReg) : Statement (.mzero n0 t) :=
  of_one rfl rfl (wo_lt _ _ _ _ _ _) ((fS_wo _ _ _ _ _ _).trans (Nat.mod_eq_of_lt n0.isLt)) (by rw [fOP_wo]; decide) (by rw [fOP_wo]; decide)
theorem mstat (n0 : Stall) (d : SReg) (n : Fin 5) : Statement (.mstat n0 d n) :=
  of_one rfl rfl (w3_lt _ _ _ _ _) ((fS_w3 _ _ _ _ _).trans (Nat.mod_eq_of_lt n0.isLt)) (by rw [fOP_w3]; decide) (by rw [fOP_w3]; decide)
theorem lrec (n0 : Stall) (a : SReg) (l : Fin 4) : Statement (.lrec n0 a l) :=
  of_one rfl rfl (wo_lt _ _ _ _ _ _) ((fS_wo _ _ _ _ _ _).trans (Nat.mod_eq_of_lt n0.isLt)) (by rw [fOP_wo]; decide) (by rw [fOP_wo]; decide)
theorem lconf (n0 : Stall) (d : SReg) : Statement (.lconf n0 d) :=
  of_one rfl rfl (w3_lt _ _ _ _ _) ((fS_w3 _ _ _ _ _).trans (Nat.mod_eq_of_lt n0.isLt)) (by rw [fOP_w3]; decide) (by rw [fOP_w3]; decide)
theorem lconfClr (n0 : Stall) (d : SReg) : Statement (.lconfClr n0 d) :=
  of_one rfl rfl (w3_lt _ _ _ _ _) ((fS_w3 _ _ _ _ _).trans (Nat.mod_eq_of_lt n0.isLt)) (by rw [fOP_w3]; decide) (by rw [fOP_w3]; decide)
theorem qnt (n0 : Stall) (d : VReg) (a : VSrc) (b : VSrc) (f : Fin 8) : Statement (.qnt n0 d a b f) :=
  of_two rfl rfl (w3_lt _ _ _ _ _) (w3e_lt _ _ _) ((fS_w3 _ _ _ _ _).trans (Nat.mod_eq_of_lt n0.isLt)) (by rw [fOP_w3]; decide) (by rw [fOP_w3]; decide)
theorem qntScale (n0 : Stall) (d : VReg) (a : VSrc) (c : VReg) (f : Fin 8) : Statement (.qntScale n0 d a c f) :=
  of_two rfl rfl (w3_lt _ _ _ _ _) (w3e_lt _ _ _) ((fS_w3 _ _ _ _ _).trans (Nat.mod_eq_of_lt n0.isLt)) (by rw [fOP_w3]; decide) (by rw [fOP_w3]; decide)
theorem dqnt (n0 : Stall) (d : VReg) (a : VSrc) (b : VSrc) (f : Fin 8) : Statement (.dqnt n0 d a b f) :=
  of_two rfl rfl (w3_lt _ _ _ _ _) (w3e_lt _ _ _) ((fS_w3 _ _ _ _ _).trans (Nat.mod_eq_of_lt n0.isLt)) (by rw [fOP_w3]; decide) (by rw [fOP_w3]; decide)
theorem bscale (n0 : Stall) (d : VReg) (a : VSrc) (f : Fin 8) : Statement (.bscale n0 d a f) :=
  of_two rfl rfl (w3_lt _ _ _ _ _) (w3e_lt _ _ _) ((fS_w3 _ _ _ _ _).trans (Nat.mod_eq_of_lt n0.isLt)) (by rw [fOP_w3]; decide) (by rw [fOP_w3]; decide)
theorem fslot (n0 : Stall) (d : SReg) (f : Fin 8) (h : Bool) : Statement (.fslot n0 d f h) :=
  of_one rfl rfl (w3_lt _ _ _ _ _) ((fS_w3 _ _ _ _ _).trans (Nat.mod_eq_of_lt n0.isLt)) (by rw [fOP_w3]; decide) (by rw [fOP_w3]; decide)
theorem tcount (n0 : Stall) (d : VReg) (a : VSrc) (w : PlaneWidth) : Statement (.tcount n0 d a w) :=
  of_two rfl rfl (w3_lt _ _ _ _ _) (w3e_lt _ _ _) ((fS_w3 _ _ _ _ _).trans (Nat.mod_eq_of_lt n0.isLt)) (by rw [fOP_w3]; decide) (by rw [fOP_w3]; decide)
theorem tnow (n0 : Stall) (d : SReg) : Statement (.tnow n0 d) :=
  of_one rfl rfl (w3_lt _ _ _ _ _) ((fS_w3 _ _ _ _ _).trans (Nat.mod_eq_of_lt n0.isLt)) (by rw [fOP_w3]; decide) (by rw [fOP_w3]; decide)
theorem tget (n0 : Stall) (d : SReg) (a : TReg) : Statement (.tget n0 d a) :=
  of_one rfl rfl (w3_lt _ _ _ _ _) ((fS_w3 _ _ _ _ _).trans (Nat.mod_eq_of_lt n0.isLt)) (by rw [fOP_w3]; decide) (by rw [fOP_w3]; decide)
theorem tset (n0 : Stall) (d : TReg) (a : SReg) : Statement (.tset n0 d a) :=
  of_one rfl rfl (w3_lt _ _ _ _ _) ((fS_w3 _ _ _ _ _).trans (Nat.mod_eq_of_lt n0.isLt)) (by rw [fOP_w3]; decide) (by rw [fOP_w3]; decide)
theorem tmin (n0 : Stall) (d : TReg) (a : TReg) (b : TReg) : Statement (.tmin n0 d a b) :=
  of_one rfl rfl (w3_lt _ _ _ _ _) ((fS_w3 _ _ _ _ _).trans (Nat.mod_eq_of_lt n0.isLt)) (by rw [fOP_w3]; decide) (by rw [fOP_w3]; decide)
theorem tmax (n0 : Stall) (d : TReg) (a : TReg) (b : TReg) : Statement (.tmax n0 d a b) :=
  of_one rfl rfl (w3_lt _ _ _ _ _) ((fS_w3 _ _ _ _ _).trans (Nat.mod_eq_of_lt n0.isLt)) (by rw [fOP_w3]; decide) (by rw [fOP_w3]; decide)
theorem tadd (n0 : Stall) (d : TReg) (a : TReg) (b : SReg) (n : BitVec 16) : Statement (.tadd n0 d a b n) :=
  of_two rfl rfl (w3_lt _ _ _ _ _) (w3e_lt _ _ _) ((fS_w3 _ _ _ _ _).trans (Nat.mod_eq_of_lt n0.isLt)) (by rw [fOP_w3]; decide) (by rw [fOP_w3]; decide)
theorem tsort (n0 : Stall) (d : SReg) (a : TReg) (b : TReg) : Statement (.tsort n0 d a b) :=
  of_two rfl rfl (w3_lt _ _ _ _ _) (w3e_lt _ _ _) ((fS_w3 _ _ _ _ _).trans (Nat.mod_eq_of_lt n0.isLt)) (by rw [fOP_w3]; decide) (by rw [fOP_w3]; decide)
theorem tclr (n0 : Stall) (d : TReg) (l : TReg) : Statement (.tclr n0 d l) :=
  of_one rfl rfl (w3_lt _ _ _ _ _) ((fS_w3 _ _ _ _ _).trans (Nat.mod_eq_of_lt n0.isLt)) (by rw [fOP_w3]; decide) (by rw [fOP_w3]; decide)
theorem trep (n0 : Stall) (d : SReg) : Statement (.trep n0 d) :=
  of_one rfl rfl (w3_lt _ _ _ _ _) ((fS_w3 _ _ _ _ _).trans (Nat.mod_eq_of_lt n0.isLt)) (by rw [fOP_w3]; decide) (by rw [fOP_w3]; decide)
theorem barInit (n0 : Stall) (d : BReg) (a : SReg) (n : Fin 32) : Statement (.barInit n0 d a n) :=
  of_two rfl rfl (wo_lt _ _ _ _ _ _) (by have := n.isLt; omega) ((fS_wo _ _ _ _ _ _).trans (Nat.mod_eq_of_lt n0.isLt)) (by rw [fOP_wo]; decide) (by rw [fOP_wo]; decide)
theorem barArrive (n0 : Stall) (d : BReg) : Statement (.barArrive n0 d) :=
  of_one rfl rfl (wo_lt _ _ _ _ _ _) ((fS_wo _ _ _ _ _ _).trans (Nat.mod_eq_of_lt n0.isLt)) (by rw [fOP_wo]; decide) (by rw [fOP_wo]; decide)
theorem barWait (n0 : Stall) (d : BReg) : Statement (.barWait n0 d) :=
  of_one rfl rfl (wo_lt _ _ _ _ _ _) ((fS_wo _ _ _ _ _ _).trans (Nat.mod_eq_of_lt n0.isLt)) (by rw [fOP_wo]; decide) (by rw [fOP_wo]; decide)
theorem barThen (n0 : Stall) (d : BReg) (off : BitVec 30) : Statement (.barThen n0 d off) :=
  of_two rfl rfl (wo_lt _ _ _ _ _ _) (by have := off.isLt; omega) ((fS_wo _ _ _ _ _ _).trans (Nat.mod_eq_of_lt n0.isLt)) (by rw [fOP_wo]; decide) (by rw [fOP_wo]; decide)
theorem barBytes (n0 : Stall) (d : BReg) (a : SReg) : Statement (.barBytes n0 d a) :=
  of_one rfl rfl (wo_lt _ _ _ _ _ _) ((fS_wo _ _ _ _ _ _).trans (Nat.mod_eq_of_lt n0.isLt)) (by rw [fOP_wo]; decide) (by rw [fOP_wo]; decide)
theorem barPhase (n0 : Stall) (d : SReg) (a : BReg) : Statement (.barPhase n0 d a) :=
  of_one rfl rfl (wo_lt _ _ _ _ _ _) ((fS_wo _ _ _ _ _ _).trans (Nat.mod_eq_of_lt n0.isLt)) (by rw [fOP_wo]; decide) (by rw [fOP_wo]; decide)
theorem ringInit (n0 : Stall) (d : SReg) (a : SReg) (n : Fin 64) (strict : Bool) (size : BitVec 24) : Statement (.ringInit n0 d a n strict size) :=
  of_two rfl rfl (wo_lt _ _ _ _ _ _) (by have := n.isLt; have := size.isLt; have := Bool.toNat_le strict; omega) ((fS_wo _ _ _ _ _ _).trans (Nat.mod_eq_of_lt n0.isLt)) (by rw [fOP_wo]; decide) (by rw [fOP_wo]; decide)
theorem ringFill (n0 : Stall) (a : SReg) : Statement (.ringFill n0 a) :=
  of_one rfl rfl (wo_lt _ _ _ _ _ _) ((fS_wo _ _ _ _ _ _).trans (Nat.mod_eq_of_lt n0.isLt)) (by rw [fOP_wo]; decide) (by rw [fOP_wo]; decide)
theorem ringAwait (n0 : Stall) (d : SReg) (a : SReg) : Statement (.ringAwait n0 d a) :=
  of_one rfl rfl (wo_lt _ _ _ _ _ _) ((fS_wo _ _ _ _ _ _).trans (Nat.mod_eq_of_lt n0.isLt)) (by rw [fOP_wo]; decide) (by rw [fOP_wo]; decide)
theorem ringRelease (n0 : Stall) (a : SReg) : Statement (.ringRelease n0 a) :=
  of_one rfl rfl (wo_lt _ _ _ _ _ _) ((fS_wo _ _ _ _ _ _).trans (Nat.mod_eq_of_lt n0.isLt)) (by rw [fOP_wo]; decide) (by rw [fOP_wo]; decide)
theorem ringState (n0 : Stall) (d : SReg) (a : SReg) : Statement (.ringState n0 d a) :=
  of_one rfl rfl (wo_lt _ _ _ _ _ _) ((fS_wo _ _ _ _ _ _).trans (Nat.mod_eq_of_lt n0.isLt)) (by rw [fOP_wo]; decide) (by rw [fOP_wo]; decide)
theorem mwait (n0 : Stall) (n : BitVec 32) : Statement (.mwait n0 n) :=
  of_two rfl rfl (wo_lt _ _ _ _ _ _) (n.isLt) ((fS_wo _ _ _ _ _ _).trans (Nat.mod_eq_of_lt n0.isLt)) (by rw [fOP_wo]; decide) (by rw [fOP_wo]; decide)
theorem qbindPin (n0 : Stall) (a : SReg) : Statement (.qbindPin n0 a) :=
  of_one rfl rfl (wo_lt _ _ _ _ _ _) ((fS_wo _ _ _ _ _ _).trans (Nat.mod_eq_of_lt n0.isLt)) (by rw [fOP_wo]; decide) (by rw [fOP_wo]; decide)
theorem qbind (n0 : Stall) (a : SReg) : Statement (.qbind n0 a) :=
  of_one rfl rfl (wo_lt _ _ _ _ _ _) ((fS_wo _ _ _ _ _ _).trans (Nat.mod_eq_of_lt n0.isLt)) (by rw [fOP_wo]; decide) (by rw [fOP_wo]; decide)
theorem qpush (n0 : Stall) (d : VReg) (a : SReg) (t : TReg) : Statement (.qpush n0 d a t) :=
  of_one rfl rfl (wo_lt _ _ _ _ _ _) ((fS_wo _ _ _ _ _ _).trans (Nat.mod_eq_of_lt n0.isLt)) (by rw [fOP_wo]; decide) (by rw [fOP_wo]; decide)
theorem qpop (n0 : Stall) (d : VReg) (a : SReg) (t : TReg) : Statement (.qpop n0 d a t) :=
  of_one rfl rfl (wo_lt _ _ _ _ _ _) ((fS_wo _ _ _ _ _ _).trans (Nat.mod_eq_of_lt n0.isLt)) (by rw [fOP_wo]; decide) (by rw [fOP_wo]; decide)
theorem qpeek (n0 : Stall) (d : VReg) (a : SReg) (t : TReg) : Statement (.qpeek n0 d a t) :=
  of_one rfl rfl (wo_lt _ _ _ _ _ _) ((fS_wo _ _ _ _ _ _).trans (Nat.mod_eq_of_lt n0.isLt)) (by rw [fOP_wo]; decide) (by rw [fOP_wo]; decide)
theorem qlen (n0 : Stall) (d : SReg) (a : SReg) : Statement (.qlen n0 d a) :=
  of_one rfl rfl (wo_lt _ _ _ _ _ _) ((fS_wo _ _ _ _ _ _).trans (Nat.mod_eq_of_lt n0.isLt)) (by rw [fOP_wo]; decide) (by rw [fOP_wo]; decide)
theorem bgt (n0 : Stall) (d : SReg) : Statement (.bgt n0 d) :=
  of_one rfl rfl (w3_lt _ _ _ _ _) ((fS_w3 _ _ _ _ _).trans (Nat.mod_eq_of_lt n0.isLt)) (by rw [fOP_w3]; decide) (by rw [fOP_w3]; decide)
theorem dline (n0 : Stall) (d : SReg) : Statement (.dline n0 d) :=
  of_one rfl rfl (w3_lt _ _ _ _ _) ((fS_w3 _ _ _ _ _).trans (Nat.mod_eq_of_lt n0.isLt)) (by rw [fOP_w3]; decide) (by rw [fOP_w3]; decide)
theorem ergr (n0 : Stall) (d : SReg) : Statement (.ergr n0 d) :=
  of_one rfl rfl (w3_lt _ _ _ _ _) ((fS_w3 _ _ _ _ _).trans (Nat.mod_eq_of_lt n0.isLt)) (by rw [fOP_w3]; decide) (by rw [fOP_w3]; decide)
theorem ctrr (n0 : Stall) (d : SReg) (k : EvReg) : Statement (.ctrr n0 d k) :=
  of_one rfl rfl (w3_lt _ _ _ _ _) ((fS_w3 _ _ _ _ _).trans (Nat.mod_eq_of_lt n0.isLt)) (by rw [fOP_w3]; decide) (by rw [fOP_w3]; decide)
theorem ctrcSet (n0 : Stall) (d : EvReg) (a : SReg) (b : SReg) : Statement (.ctrcSet n0 d a b) :=
  of_two rfl rfl (w3_lt _ _ _ _ _) (w3e_lt _ _ _) ((fS_w3 _ _ _ _ _).trans (Nat.mod_eq_of_lt n0.isLt)) (by rw [fOP_w3]; decide) (by rw [fOP_w3]; decide)
theorem ctrcClr (n0 : Stall) (d : EvReg) : Statement (.ctrcClr n0 d) :=
  of_two rfl rfl (w3_lt _ _ _ _ _) (w3e_lt _ _ _) ((fS_w3 _ _ _ _ _).trans (Nat.mod_eq_of_lt n0.isLt)) (by rw [fOP_w3]; decide) (by rw [fOP_w3]; decide)
theorem ctrcStop (n0 : Stall) (d : EvReg) : Statement (.ctrcStop n0 d) :=
  of_two rfl rfl (w3_lt _ _ _ _ _) (w3e_lt _ _ _) ((fS_w3 _ _ _ _ _).trans (Nat.mod_eq_of_lt n0.isLt)) (by rw [fOP_w3]; decide) (by rw [fOP_w3]; decide)
theorem ctrcStart (n0 : Stall) (d : EvReg) : Statement (.ctrcStart n0 d) :=
  of_two rfl rfl (w3_lt _ _ _ _ _) (w3e_lt _ _ _) ((fS_w3 _ _ _ _ _).trans (Nat.mod_eq_of_lt n0.isLt)) (by rw [fOP_w3]; decide) (by rw [fOP_w3]; decide)
theorem smark (n0 : Stall) (a : SReg) (n : BitVec 8) : Statement (.smark n0 a n) :=
  of_one rfl rfl (w3_lt _ _ _ _ _) ((fS_w3 _ _ _ _ _).trans (Nat.mod_eq_of_lt n0.isLt)) (by rw [fOP_w3]; decide) (by rw [fOP_w3]; decide)
theorem powerOnReset : Statement .powerOnReset := of_event rfl rfl
theorem fundamentalReset : Statement .fundamentalReset := of_event rfl rfl
theorem readyBitRise : Statement .readyBitRise := of_event rfl rfl
theorem lifecycleChange : Statement .lifecycleChange := of_event rfl rfl
theorem bootcfgWrite : Statement .bootcfgWrite := of_event rfl rfl
theorem attestationRequest : Statement .attestationRequest := of_event rfl rfl
theorem attestationReportSigned : Statement .attestationReportSigned := of_event rfl rfl
theorem mailboxDoorbellSet : Statement .mailboxDoorbellSet := of_event rfl rfl
theorem mailboxDoorbellClear : Statement .mailboxDoorbellClear := of_event rfl rfl
theorem hostMemoryAccess : Statement .hostMemoryAccess := of_event rfl rfl
theorem hostQueuePush : Statement .hostQueuePush := of_event rfl rfl
theorem peerRequest : Statement .peerRequest := of_event rfl rfl
theorem peerRefusal : Statement .peerRefusal := of_event rfl rfl
theorem hostCompletion : Statement .hostCompletion := of_event rfl rfl
theorem pathAllowanceOverrun : Statement .pathAllowanceOverrun := of_event rfl rfl
theorem fabricLinkReplay : Statement .fabricLinkReplay := of_event rfl rfl
theorem dieLinkReplay : Statement .dieLinkReplay := of_event rfl rfl
theorem fabricLinkDown : Statement .fabricLinkDown := of_event rfl rfl
theorem fabricLinkUp : Statement .fabricLinkUp := of_event rfl rfl
theorem fabricLinkRetrainTimeout : Statement .fabricLinkRetrainTimeout := of_event rfl rfl
theorem ptpEventTimestamp : Statement .ptpEventTimestamp := of_event rfl rfl
theorem instructionFetchFill : Statement .instructionFetchFill := of_event rfl rfl
theorem clauseHeader : Statement .clauseHeader := of_event rfl rfl
theorem fairnessTimerExpiry : Statement .fairnessTimerExpiry := of_event rfl rfl
theorem recordWriteDone : Statement .recordWriteDone := of_event rfl rfl
theorem relaunch : Statement .relaunch := of_event rfl rfl
theorem relaunchComplete : Statement .relaunchComplete := of_event rfl rfl
theorem wakeTimeReached : Statement .wakeTimeReached := of_event rfl rfl
theorem mwaitTimeout : Statement .mwaitTimeout := of_event rfl rfl
theorem detachedTimerSettle : Statement .detachedTimerSettle := of_event rfl rfl
theorem probePass : Statement .probePass := of_event rfl rfl
theorem requestLanding : Statement .requestLanding := of_event rfl rfl
theorem requestBreak : Statement .requestBreak := of_event rfl rfl
theorem heldResolution : Statement .heldResolution := of_event rfl rfl
theorem heldConvertClass3 : Statement .heldConvertClass3 := of_event rfl rfl
theorem stewardLaunchSubmit : Statement .stewardLaunchSubmit := of_event rfl rfl
theorem dispatchTake : Statement .dispatchTake := of_event rfl rfl
theorem crewPlacement : Statement .crewPlacement := of_event rfl rfl
theorem affinityFallback : Statement .affinityFallback := of_event rfl rfl
theorem crewRetire : Statement .crewRetire := of_event rfl rfl
theorem partitionZeroDone : Statement .partitionZeroDone := of_event rfl rfl
theorem l1cfgComplete : Statement .l1cfgComplete := of_event rfl rfl
theorem channelTakeCommand : Statement .channelTakeCommand := of_event rfl rfl
theorem copyRowLanding : Statement .copyRowLanding := of_event rfl rfl
theorem lapidaryOpStart : Statement .lapidaryOpStart := of_event rfl rfl
theorem lapidaryOpComplete : Statement .lapidaryOpComplete := of_event rfl rfl
theorem storePerformed : Statement .storePerformed := of_event rfl rfl
theorem atomicPerformed : Statement .atomicPerformed := of_event rfl rfl
theorem l2VictimWriteback : Statement .l2VictimWriteback := of_event rfl rfl
theorem writeThroughPerform : Statement .writeThroughPerform := of_event rfl rfl
theorem mscSectorFill : Statement .mscSectorFill := of_event rfl rfl
theorem hbmRefresh : Statement .hbmRefresh := of_event rfl rfl
theorem stackTempCrossing : Statement .stackTempCrossing := of_event rfl rfl
theorem eccError : Statement .eccError := of_event rfl rfl
theorem scrub : Statement .scrub := of_event rfl rfl
theorem hbmDeadMark : Statement .hbmDeadMark := of_event rfl rfl
theorem hbmDeadLoad : Statement .hbmDeadLoad := of_event rfl rfl
theorem queueUnitRequest : Statement .queueUnitRequest := of_event rfl rfl
theorem queueRefillLanding : Statement .queueRefillLanding := of_event rfl rfl
theorem queueSwapIn : Statement .queueSwapIn := of_event rfl rfl
theorem queueSwapInDone : Statement .queueSwapInDone := of_event rfl rfl
theorem budgetExhausted : Statement .budgetExhausted := of_event rfl rfl
theorem ctxSwitchIn : Statement .ctxSwitchIn := of_event rfl rfl
theorem ctxSwitchOut : Statement .ctxSwitchOut := of_event rfl rfl
theorem contextBankExchange : Statement .contextBankExchange := of_event rfl rfl
theorem lapidaryRestore : Statement .lapidaryRestore := of_event rfl rfl
theorem scratchpadSpill : Statement .scratchpadSpill := of_event rfl rfl
theorem ctxKill : Statement .ctxKill := of_event rfl rfl
theorem ctxKillCrew : Statement .ctxKillCrew := of_event rfl rfl
theorem ctxResumeGang : Statement .ctxResumeGang := of_event rfl rfl
theorem ctxMigrateCrew : Statement .ctxMigrateCrew := of_event rfl rfl
theorem ctxRaiseBudget : Statement .ctxRaiseBudget := of_event rfl rfl
theorem ctxRevokeRecord : Statement .ctxRevokeRecord := of_event rfl rfl
theorem ctxReinstateRecord : Statement .ctxReinstateRecord := of_event rfl rfl
theorem revokeDone : Statement .revokeDone := of_event rfl rfl
theorem hangWatchdogExpiry : Statement .hangWatchdogExpiry := of_event rfl rfl
theorem spillWatchdogExpiry : Statement .spillWatchdogExpiry := of_event rfl rfl
theorem thermalThresholdCrossing : Statement .thermalThresholdCrossing := of_event rfl rfl
theorem migrationRefused : Statement .migrationRefused := of_event rfl rfl
theorem migrationMoveBegin : Statement .migrationMoveBegin := of_event rfl rfl
theorem migrationRemap : Statement .migrationRemap := of_event rfl rfl
theorem tokenPeriodBoundary : Statement .tokenPeriodBoundary := of_event rfl rfl
theorem arbiterRound : Statement .arbiterRound := of_event rfl rfl
theorem throttle : Statement .throttle := of_event rfl rfl
theorem pwrStatLicWrite : Statement .pwrStatLicWrite := of_event rfl rfl
theorem tokOffer : Statement .tokOffer := of_event rfl rfl
theorem tokenOfferReceived : Statement .tokenOfferReceived := of_event rfl rfl
theorem tokenAckReceived : Statement .tokenAckReceived := of_event rfl rfl
theorem tokenRefuseReceived : Statement .tokenRefuseReceived := of_event rfl rfl
theorem tokenCommitReceived : Statement .tokenCommitReceived := of_event rfl rfl
theorem clkStepArm : Statement .clkStepArm := of_event rfl rfl
theorem frequencyStep : Statement .frequencyStep := of_event rfl rfl
theorem frequencyHoldEnd : Statement .frequencyHoldEnd := of_event rfl rfl
theorem timeAdjSlew : Statement .timeAdjSlew := of_event rfl rfl
theorem timeAdjStep : Statement .timeAdjStep := of_event rfl rfl
theorem forwardStepApply : Statement .forwardStepApply := of_event rfl rfl
theorem brkcRead : Statement .brkcRead := of_event rfl rfl
theorem errcRead : Statement .errcRead := of_event rfl rfl
theorem contStatRead : Statement .contStatRead := of_event rfl rfl
theorem contOvfRead : Statement .contOvfRead := of_event rfl rfl
theorem trcCntRead : Statement .trcCntRead := of_event rfl rfl
theorem registerWrite : Statement .registerWrite := of_event rfl rfl
theorem plpackLastWrite : Statement .plpackLastWrite := of_event rfl rfl
theorem preloadDone : Statement .preloadDone := of_event rfl rfl
theorem spillDone : Statement .spillDone := of_event rfl rfl
theorem sensorReadsBelowTherm : Statement .sensorReadsBelowTherm := of_event rfl rfl

end Sys2Proof.Laws.Encoding
end

