-- ==== Sys2Proof/Laws/Registers.lean ====
section
/-!
SUPPORT. Reads and writes of registers (R24, R25): what a write gives, and that every other register, lane and bit reads as
before.
-/
namespace Sys2Proof.Machine

/-! ## Masks and lanes -/

theorem maskFold_lt (f : Nat → Bool) (n : Nat) :
    (List.range n).foldl (fun n i => if f i then n + 2 ^ i else n) 0 < 2 ^ n := by
  induction n with
  | zero => simp
  | succ n ih =>
    rw [List.range_succ, List.foldl_append]
    simp only [List.foldl_cons, List.foldl_nil]
    have := Nat.pow_succ 2 n
    split <;> omega

theorem maskFold_testBit (f : Nat → Bool) (n i : Nat) :
    ((List.range n).foldl (fun n i => if f i then n + 2 ^ i else n) 0).testBit i = (decide (i < n) && f i) := by
  induction n with
  | zero => simp
  | succ n ih =>
    rw [List.range_succ, List.foldl_append]
    simp only [List.foldl_cons, List.foldl_nil]
    have hlt := maskFold_lt f n
    generalize (List.range n).foldl (fun n i => if f i then n + 2 ^ i else n) 0 = a at ih hlt ⊢
    by_cases hf : f n = true
    · rw [if_pos hf, Nat.add_comm]
      rcases Nat.lt_trichotomy i n with h | h | h
      · rw [Nat.testBit_two_pow_add_gt h, ih]
        simp [h, Nat.lt_succ_of_lt h]
      · subst h
        rw [Nat.testBit_two_pow_add_eq, ih]
        simp [hf]
      · have : 2 ^ n + a < 2 ^ i := by
          have h1 : 2 ^ (n + 1) ≤ 2 ^ i := Nat.pow_le_pow_right (by decide) h
          have h2 := Nat.pow_succ 2 n
          omega
        rw [Nat.testBit_lt_two_pow this]
        simp [show ¬ i < n + 1 by omega]
    · rw [if_neg hf, ih]
      rcases Nat.lt_trichotomy i n with h | h | h
      · simp [h, Nat.lt_succ_of_lt h]
      · subst h; simp [hf]
      · simp [Nat.not_lt_of_lt h, show ¬ i < n + 1 by omega]

/-- Bit `l` of a mask made from a test of each lane. -/
theorem getLsbD_maskOf (f : Nat → Bool) (l : Nat) : (maskOf f).getLsbD l = (decide (l < 32) && f l) := by
  unfold maskOf
  rw [BitVec.getLsbD_ofNat, maskFold_testBit]
  cases decide (l < 32) <;> simp

theorem vget_ofFn {n : Nat} {α : Type} (f : Fin (n + 1) → α) (l : Nat) (h : l < n + 1) :
    vget (Vector.ofFn f) l = f ⟨l, h⟩ := by
  unfold vget
  have : min l n = l := by omega
  simp [this]

theorem vget_lt {n : Nat} {α : Type} (v : Vector α (n + 1)) (l : Nat) (h : l < n + 1) : vget v l = v[l] := by
  unfold vget
  have : min l n = l := by omega
  simp [this]

theorem vget_mergeLanes (m : Mask) (old : Lanes) (f : Nat → Word) (l : Nat) (h : l < 32) :
    vget (mergeLanes m old f) l = if m.getLsbD l then f l else vget old l := by
  unfold mergeLanes
  rw [vget_ofFn _ _ h, vget_lt old l h]
  rfl

/-! ## Scalar registers -/

theorem find?_cons_live (p q : Pending → Bool) (ps : List Pending) (hq : ∀ x, p x = true → q x = true) :
    (ps.filter q).find? p = ps.find? p := by
  induction ps with
  | nil => rfl
  | cons x xs ih =>
    by_cases h : q x = true
    · rw [List.filter_cons_of_pos h, List.find?_cons, List.find?_cons, ih]
    · have hp : p x = false := by
        cases hx : p x with
        | false => rfl
        | true => exact absurd (hq x hx) h
      rw [List.filter_cons_of_neg h, ih, List.find?_cons, hp]

theorem livePend_find? (c : Nat) (p : Pending → Bool) (ps : List Pending) (hp : ∀ x, p x = true → Pending.live c x = true) :
    (livePend c ps).find? p = ps.find? p := find?_cons_live p _ ps hp

theorem openS_live {n : SReg} {c k : Nat} (h : c ≤ k) (x : Pending) (hx : Pending.openS n k x = true) :
    Pending.live c x = true := by
  cases x <;> simp [Pending.openS, Pending.live] at hx ⊢; omega
theorem openV_live {n : VReg} {l c k : Nat} (h : c ≤ k) (x : Pending) (hx : Pending.openV n l k x = true) :
    Pending.live c x = true := by
  cases x <;> simp [Pending.openV, Pending.live] at hx ⊢; omega
theorem openP_live {n : PReg} {l c k : Nat} (h : c ≤ k) (x : Pending) (hx : Pending.openP n l k x = true) :
    Pending.live c x = true := by
  cases x <;> simp [Pending.openP, Pending.live] at hx ⊢; omega

theorem lateS_none {g : Gang} {n : SReg} {c t : Nat} (h : ¬ dueS g n t) : (livePend c g.pend).any (Pending.lateS n t) = false := by
  rw [List.any_eq_false]
  intro x hx hl
  have hx := (List.mem_filter.mp hx).1
  cases x with
  | s k due old =>
    simp only [Pending.lateS, Bool.and_eq_true, decide_eq_true_eq] at hl
    obtain ⟨rfl, hl⟩ := hl
    exact h ⟨due, old, hx, hl⟩
  | v => simp [Pending.lateS] at hl
  | p => simp [Pending.lateS] at hl
theorem lateV_none {g : Gang} {n : VReg} {l c t : Nat} (h : ¬ dueV g n l t) :
    (livePend c g.pend).any (Pending.lateV n l t) = false := by
  rw [List.any_eq_false]
  intro x hx hl
  have hx := (List.mem_filter.mp hx).1
  cases x with
  | v k due m old =>
    simp only [Pending.lateV, Bool.and_eq_true, decide_eq_true_eq] at hl
    obtain ⟨⟨rfl, hl⟩, hm⟩ := hl
    exact h ⟨due, m, old, hx, hm, hl⟩
  | s => simp [Pending.lateV] at hl
  | p => simp [Pending.lateV] at hl
theorem lateP_none {g : Gang} {n : PReg} {l c t : Nat} (h : ¬ dueP g n l t) :
    (livePend c g.pend).any (Pending.lateP n l t) = false := by
  rw [List.any_eq_false]
  intro x hx hl
  have hx := (List.mem_filter.mp hx).1
  cases x with
  | p k due m old =>
    simp only [Pending.lateP, Bool.and_eq_true, decide_eq_true_eq] at hl
    obtain ⟨⟨rfl, hl⟩, hm⟩ := hl
    exact h ⟨due, m, old, hx, hm, hl⟩
  | s => simp [Pending.lateP] at hl
  | v => simp [Pending.lateP] at hl

/-- A write of a scalar register that no earlier result overlaps. -/
theorem Gang.writeS_s (g : Gang) (f c lat : Nat) (n : SReg) (v : DWord) (hn : ¬ dueS g n (c + lat)) :
    (g.writeS f c lat n v).s = g.s.set n v := by
  unfold Gang.writeS
  simp only [lateS_none hn, Bool.false_and, Bool.false_eq_true, if_false]

/-- A write of a scalar register, with no condition: the new value stands there, or the old one where an earlier result is
due no sooner (R25). -/
theorem Gang.writeS_either (g : Gang) (f c lat : Nat) (n : SReg) (v : DWord) :
    ∃ u, (u = v ∨ u = g.s[n]) ∧ (g.writeS f c lat n v).s = g.s.set n u ∧ (g.writeS f c lat n v).v = g.v ∧
    (g.writeS f c lat n v).p = g.p ∧ (g.writeS f c lat n v).pend = .s n (c + lat) g.s[n] :: livePend c g.pend := by
  unfold Gang.writeS
  dsimp only
  refine ⟨_, ?_, rfl, rfl, rfl, rfl⟩
  split
  · exact .inr rfl
  · exact .inl rfl

theorem Gang.writeS_rest (g : Gang) (f c lat : Nat) (n : SReg) (v : DWord) :
    { g.writeS f c lat n v with s := g.s, v := g.v, p := g.p, pend := g.pend } = g := rfl

theorem readS_congr (g : Gang) (x : Gang) (f c : Nat) (n : SReg) (h1 : x.s = g.s) (h2 : x.pend = g.pend) :
    x.readS f c n = g.readS f c n := by unfold Gang.readS; rw [h1, h2]
theorem readV_congr (g : Gang) (x : Gang) (f c : Nat) (n : VReg) (l : Nat) (h1 : x.v = g.v) (h2 : x.pend = g.pend) :
    x.readV f c n l = g.readV f c n l := by unfold Gang.readV; rw [h1, h2]
theorem readP_congr (g : Gang) (x : Gang) (f c : Nat) (n : PReg) (h1 : x.p = g.p) (h2 : x.pend = g.pend) :
    x.readP f c n = g.readP f c n := by unfold Gang.readP; rw [h1, h2]

theorem readSrc_congr (g : Gang) (x : Gang) (f c : Nat) (a : VSrc) (l : Nat) (h1 : x.s = g.s) (h2 : x.v = g.v)
    (h3 : x.pend = g.pend) : x.readSrc f c a l = g.readSrc f c a l := by
  unfold Gang.readSrc
  cases a with
  | v n => exact readV_congr g x f c n l h2 h3
  | s n => simp only [readS_congr g x f c n h1 h3]

/-- The register that a word has written is read as written once its latency is over. -/
theorem readS_written {x : Gang} {n : SReg} {due : Nat} {old v : DWord} {ps : List Pending}
    (hp : x.pend = .s n due old :: ps) (hv : x.s[n] = v) (hd : ∀ d o, .s n d o ∈ ps → d < due) (f k : Nat) (hk : due ≤ k) :
    x.readS f k n = v := by
  have : x.pend.find? (Pending.openS n k) = none := by
    rw [List.find?_eq_none, hp]
    intro q hq hx
    cases q with
    | s j d o =>
      simp only [Pending.openS, Bool.and_eq_true, decide_eq_true_eq] at hx
      obtain ⟨rfl, hx⟩ := hx
      rcases List.mem_cons.mp hq with h | h
      · cases h; omega
      · have := hd d o h; omega
    | v => simp [Pending.openS] at hx
    | p => simp [Pending.openS] at hx
  unfold Gang.readS
  rw [this]; exact hv

/-- Registers that a word has not written keep what they hold and are read as before. -/
theorem keepsS_write {g y : Gang} {c due : Nat} {n : SReg} {u old : DWord} (hs : y.s = g.s.set n u)
    (hp : y.pend = .s n due old :: livePend c g.pend) : KeepsS g y c (fun m => m == n) := by
  intro m hm
  have hne : m ≠ n := by simpa using hm
  have hval : y.s[m] = g.s[m] := by
    simp only [hs]; simp [Fin.getElem_fin, Vector.getElem_set, Fin.val_inj, Ne.symm hne]
  refine ⟨hval, fun f k hk => ?_⟩
  have hfind : y.pend.find? (Pending.openS m k) = g.pend.find? (Pending.openS m k) := by
    rw [hp, List.find?_cons_of_neg (by simp [Pending.openS, Ne.symm hne])]
    exact livePend_find? c _ _ (openS_live hk)
  unfold Gang.readS
  rw [hfind, hval]

/-- A list of results to come that differs in one entry of another kind reads the same. -/
theorem keepsS_other {g y : Gang} {c : Nat} {q : Pending} (hs : y.s = g.s) (hp : y.pend = q :: livePend c g.pend)
    (hq : ∀ n k, Pending.openS n k q = false) : KeepsS g y c noneS := by
  intro m _
  refine ⟨by rw [hs], fun f k hk => ?_⟩
  have hfind : y.pend.find? (Pending.openS m k) = g.pend.find? (Pending.openS m k) := by
    rw [hp, List.find?_cons_of_neg (by simp [hq])]
    exact livePend_find? c _ _ (openS_live hk)
  unfold Gang.readS
  rw [hfind, hs]
theorem keepsV_other {g y : Gang} {c : Nat} {q : Pending} (hs : y.v = g.v) (hp : y.pend = q :: livePend c g.pend)
    (hq : ∀ n l k, Pending.openV n l k q = false) : KeepsV g y c noneV := by
  intro m l _ _
  refine ⟨by rw [hs], fun f k hk => ?_⟩
  have hfind : y.pend.find? (Pending.openV m l k) = g.pend.find? (Pending.openV m l k) := by
    rw [hp, List.find?_cons_of_neg (by simp [hq])]
    exact livePend_find? c _ _ (openV_live hk)
  unfold Gang.readV
  rw [hfind, hs]
theorem keepsP_other {g y : Gang} {c : Nat} {q : Pending} (hs : y.p = g.p) (hp : y.pend = q :: livePend c g.pend)
    (hq : ∀ n l k, Pending.openP n l k q = false) : KeepsP g y c noneP := by
  intro m l hl _
  refine ⟨by rw [hs], fun f k hk => ?_⟩
  have hfind : ∀ l, y.pend.find? (Pending.openP m l k) = g.pend.find? (Pending.openP m l k) := fun l => by
    rw [hp, List.find?_cons_of_neg (by simp [hq])]
    exact livePend_find? c _ _ (openP_live hk)
  unfold Gang.readP
  simp only [hfind, hs]

/-! ## Vector registers -/

/-- A write of a vector register: what stands in its lanes. -/
theorem Gang.writeV_lane (g : Gang) (f c lat : Nat) (n : VReg) (m : Mask) (v : Nat → Word) (l : Nat) (hl : l < 32)
    (hn : ¬ dueV g n l (c + lat)) :
    vget (g.writeV f c lat n m v).v[n] l = if m.getLsbD l then v l else vget g.v[n] l := by
  unfold Gang.writeV
  simp only [Fin.getElem_fin, Vector.getElem_set_self]
  rw [vget_mergeLanes _ _ _ _ hl]
  simp only [lateV_none hn, Bool.false_and, Bool.false_eq_true, if_false]

/-- Lanes that a word has not written, and other registers. -/
theorem Gang.keepsV_writeV (g : Gang) (f c lat : Nat) (n : VReg) (m : Mask) (v : Nat → Word) {y : Gang}
    (hv : y.v = (g.writeV f c lat n m v).v) (hp : y.pend = .v n (c + lat) m g.v[n] :: livePend c g.pend) :
    KeepsV g y c (fun k l => k == n && m.getLsbD l) := by
  intro k l hl hb
  have hval : vget y.v[k] l = vget g.v[k] l := by
    rw [hv]
    unfold Gang.writeV
    by_cases hk : k = n
    · subst hk
      have hm : m.getLsbD l = false := by simpa using hb
      simp only [Fin.getElem_fin, Vector.getElem_set_self]
      rw [vget_mergeLanes _ _ _ _ hl]
      simp [hm]
    · simp [Fin.getElem_fin, Vector.getElem_set, Fin.val_inj, Ne.symm hk]
  refine ⟨hval, fun f k' hk' => ?_⟩
  have hfind : y.pend.find? (Pending.openV k l k') = g.pend.find? (Pending.openV k l k') := by
    rw [hp, List.find?_cons_of_neg ?_]
    · exact livePend_find? c _ _ (openV_live hk')
    · simp only [Pending.openV, Bool.and_eq_true, decide_eq_true_eq, not_and, and_imp]
      rintro rfl - hm
      simp [hm] at hb
  unfold Gang.readV
  rw [hfind, hval]

/-- A lane that a word has written is read as written once its latency is over. -/
theorem readV_written {x : Gang} {n : VReg} {due l : Nat} {m : Mask} {old : Lanes} {v : Word} {ps : List Pending}
    (hp : x.pend = .v n due m old :: ps) (hv : vget x.v[n] l = v)
    (hd : ∀ d q o, .v n d q o ∈ ps → q.getLsbD l = true → d < due) (f k : Nat) (hk : due ≤ k) : x.readV f k n l = v := by
  have : x.pend.find? (Pending.openV n l k) = none := by
    rw [List.find?_eq_none, hp]
    intro q hq hx
    cases q with
    | v j d q o =>
      simp only [Pending.openV, Bool.and_eq_true, decide_eq_true_eq] at hx
      obtain ⟨⟨rfl, hx⟩, hm⟩ := hx
      rcases List.mem_cons.mp hq with h | h
      · cases h; omega
      · have := hd d q o h hm; omega
    | s => simp [Pending.openV] at hx
    | p => simp [Pending.openV] at hx
  unfold Gang.readV
  rw [this]; exact hv

/-! ## Predicate registers -/

/-- A write of a predicate register: its bits. -/
theorem Gang.writeP_bit (g : Gang) (f c lat : Nat) (n : PReg) (m v : Mask) (l : Nat) (hl : l < 32)
    (hn : ¬ dueP g n l (c + lat)) :
    (g.writeP f c lat n m v).p[n].getLsbD l = if m.getLsbD l then v.getLsbD l else g.p[n].getLsbD l := by
  unfold Gang.writeP
  simp only [Fin.getElem_fin, Vector.getElem_set_self]
  rw [getLsbD_maskOf]
  simp only [hl, decide_true, Bool.true_and, lateP_none hn, Bool.false_and, Bool.false_eq_true, if_false]

theorem Gang.keepsP_writeP (g : Gang) (f c lat : Nat) (n : PReg) (m v : Mask) {y : Gang}
    (hv : y.p = (g.writeP f c lat n m v).p) (hp : y.pend = .p n (c + lat) m g.p[n] :: livePend c g.pend) :
    KeepsP g y c (fun k l => k == n && m.getLsbD l) := by
  intro k l hl hb
  have hval : y.p[k].getLsbD l = g.p[k].getLsbD l := by
    rw [hv]
    unfold Gang.writeP
    by_cases hk : k = n
    · subst hk
      have hm : m.getLsbD l = false := by simpa using hb
      simp only [Fin.getElem_fin, Vector.getElem_set_self]
      rw [getLsbD_maskOf, hm]
      simp [hl]
    · simp [Fin.getElem_fin, Vector.getElem_set, Fin.val_inj, Ne.symm hk]
  refine ⟨hval, fun f k' hk' => ?_⟩
  have hfind : y.pend.find? (Pending.openP k l k') = g.pend.find? (Pending.openP k l k') := by
    rw [hp, List.find?_cons_of_neg ?_]
    · exact livePend_find? c _ _ (openP_live hk')
    · simp only [Pending.openP, Bool.and_eq_true, decide_eq_true_eq, not_and, and_imp]
      rintro rfl - hm
      simp [hm] at hb
  unfold Gang.readP
  rw [getLsbD_maskOf, getLsbD_maskOf, hfind, hval]

theorem readP_written {x : Gang} {n : PReg} {due l : Nat} {m old : Mask} {b : Bool} {ps : List Pending} (hl : l < 32)
    (hp : x.pend = .p n due m old :: ps) (hv : x.p[n].getLsbD l = b)
    (hd : ∀ d q o, .p n d q o ∈ ps → q.getLsbD l = true → d < due) (f k : Nat) (hk : due ≤ k) :
    (x.readP f k n).getLsbD l = b := by
  have : x.pend.find? (Pending.openP n l k) = none := by
    rw [List.find?_eq_none, hp]
    intro q hq hx
    cases q with
    | p j d q o =>
      simp only [Pending.openP, Bool.and_eq_true, decide_eq_true_eq] at hx
      obtain ⟨⟨rfl, hx⟩, hm⟩ := hx
      rcases List.mem_cons.mp hq with h | h
      · cases h; omega
      · have := hd d q o h hm; omega
    | s => simp [Pending.openP] at hx
    | v => simp [Pending.openP] at hx
  unfold Gang.readP
  rw [getLsbD_maskOf, this]
  simpa [hl] using hv

end Sys2Proof.Machine
end

