-- ==== Sys2Proof/Laws/Results.lean ====
section
/-!
SUPPORT. Words with one fixed-latency result: a scalar register, the active lanes of a vector register, bits of a predicate
register.
-/
namespace Sys2Proof.Machine

variable {w : WordSpec} {s : State} {g : Gang} {e : Entry} {c : Clause}

/-- A word that writes one scalar register. -/
theorem runPure_scalar (lat : Nat) (d : SReg) (val : Nat → Nat → Gang → DWord) {v : DWord}
    (hi : s.issuing = some (g, e, c)) (ht : s.wordTrap g w = none)
    (hv : ∀ x : Gang, x.s = g.s → x.v = g.v → x.p = g.p → x.pend = g.pend → SameRest g x → x.sel = g.sel →
      val s.own.free (s.clock g.core) x = v) :
    ∃ t, runPure w (fun f k x => x.writeS f k lat d (val f k x)) s = .next t ∧
      (e.mask ≠ 0 → ScalarResult s t g lat d v) := by
  obtain ⟨t, n, ht, h⟩ := runPure_law (f := fun f k x => x.writeS f k lat d (val f k x)) hi ht fun _ _ _ => rfl
  refine ⟨t, ht, fun he => ?_⟩
  obtain ⟨h1, y, hy, hr, es, ev, ep, epd⟩ := h he
  have hval := hv (({ g with fair := n } : Gang).advance (s.clock g.core) w.stall w.ext) rfl rfl rfl rfl rfl rfl
  simp only [hval] at es ev ep epd
  have hpend : y.pend = .s d (s.clock g.core + lat) g.s[d] :: livePend (s.clock g.core) g.pend := epd
  have es' : y.s = (g.writeS s.own.free (s.clock g.core) lat d v).s := es
  obtain ⟨u, hu, e1, -, -, -⟩ := Gang.writeS_either g s.own.free (s.clock g.core) lat d v
  have hys : y.s = g.s.set d u := es'.trans e1
  refine ⟨h1, y, hy, hr, keepsS_write hys hpend, keepsV_other ev hpend fun _ _ _ => rfl,
    keepsP_other ep hpend fun _ _ _ => rfl, ?_, fun hd f k hk => ?_⟩
  · by_cases hd : dueS g d (s.clock g.core + lat)
    · rcases hu with rfl | hu
      · left; simp [hys]
      · right; exact ⟨by simp [hys, hu], hd⟩
    · left
      rw [es', Gang.writeS_s _ _ _ _ _ _ hd]
      simp
  · refine readS_written hpend ?_ (fun d' o ho => ?_) f k hk
    · rw [es', Gang.writeS_s _ _ _ _ _ _ hd]
      simp
    · refine Nat.lt_of_not_le fun hle => hd ⟨d', o, (List.mem_filter.mp ho).1, hle⟩

/-- A word that writes the lanes of a mask of one vector register. -/
theorem runPure_vector (lat : Nat) (d : VReg) (m : Mask) (mask : Gang → Mask) (val : Nat → Nat → Gang → Nat → Word)
    {v : Nat → Word} (hi : s.issuing = some (g, e, c)) (ht : s.wordTrap g w = none)
    (hm : ∀ x : Gang, x.sel = g.sel → mask x = m)
    (hv : ∀ x : Gang, x.s = g.s → x.v = g.v → x.p = g.p → x.pend = g.pend → SameRest g x → x.sel = g.sel →
      val s.own.free (s.clock g.core) x = v) :
    ∃ t, runPure w (fun f k x => x.writeV f k lat d (mask x) (val f k x)) s = .next t ∧
      (e.mask ≠ 0 → VectorResult s t g lat d m v) := by
  obtain ⟨t, n, ht, h⟩ := runPure_law (f := fun f k x => x.writeV f k lat d (mask x) (val f k x)) hi ht fun _ _ _ => rfl
  refine ⟨t, ht, fun he => ?_⟩
  obtain ⟨h1, y, hy, hr, es, ev, ep, epd⟩ := h he
  have hval := hv (({ g with fair := n } : Gang).advance (s.clock g.core) w.stall w.ext) rfl rfl rfl rfl rfl rfl
  have hmask := hm (({ g with fair := n } : Gang).advance (s.clock g.core) w.stall w.ext) rfl
  simp only [hval, hmask] at es ev ep epd
  have hpend : y.pend = .v d (s.clock g.core + lat) m g.v[d] :: livePend (s.clock g.core) g.pend := epd
  have ev' : y.v = (g.writeV s.own.free (s.clock g.core) lat d m v).v := ev
  refine ⟨h1, y, hy, hr, keepsS_other es hpend fun _ _ => rfl, Gang.keepsV_writeV g _ _ _ _ _ _ ev' hpend,
    keepsP_other ep hpend fun _ _ _ => rfl, fun l hl hml => ⟨?_, fun hd f k hk => ?_⟩⟩
  · by_cases hd : dueV g d l (s.clock g.core + lat)
    · have hlane : vget y.v[d] l = v l ∨ vget y.v[d] l = vget g.v[d] l := by
        rw [ev']
        unfold Gang.writeV
        simp only [Fin.getElem_fin, Vector.getElem_set_self]
        rw [vget_mergeLanes _ _ _ _ hl, if_pos hml]
        split
        · exact .inr rfl
        · exact .inl rfl
      exact hlane.imp id fun h => ⟨h, hd⟩
    · left
      rw [ev', Gang.writeV_lane _ _ _ _ _ _ _ _ hl hd, if_pos hml]
  · refine readV_written hpend ?_ (fun d' q o ho hq => ?_) f k hk
    · rw [ev', Gang.writeV_lane _ _ _ _ _ _ _ _ hl hd, if_pos hml]
    · exact Nat.lt_of_not_le fun hle => hd ⟨d', q, o, (List.mem_filter.mp ho).1, hq, hle⟩

/-- A word that writes the bits of a mask of one predicate register. -/
theorem runPure_pred (lat : Nat) (d : PReg) (m : Mask) (mask : Gang → Mask) (val : Nat → Nat → Gang → Mask)
    {v : Mask} (hi : s.issuing = some (g, e, c)) (ht : s.wordTrap g w = none)
    (hm : ∀ x : Gang, x.sel = g.sel → mask x = m)
    (hv : ∀ x : Gang, x.s = g.s → x.v = g.v → x.p = g.p → x.pend = g.pend → SameRest g x → x.sel = g.sel →
      val s.own.free (s.clock g.core) x = v) :
    ∃ t, runPure w (fun f k x => x.writeP f k lat d (mask x) (val f k x)) s = .next t ∧
      (e.mask ≠ 0 → PredResult s t g lat d m fun l => v.getLsbD l) := by
  obtain ⟨t, n, ht, h⟩ := runPure_law (f := fun f k x => x.writeP f k lat d (mask x) (val f k x)) hi ht fun _ _ _ => rfl
  refine ⟨t, ht, fun he => ?_⟩
  obtain ⟨h1, y, hy, hr, es, ev, ep, epd⟩ := h he
  have hval := hv (({ g with fair := n } : Gang).advance (s.clock g.core) w.stall w.ext) rfl rfl rfl rfl rfl rfl
  have hmask := hm (({ g with fair := n } : Gang).advance (s.clock g.core) w.stall w.ext) rfl
  simp only [hval, hmask] at es ev ep epd
  have hpend : y.pend = .p d (s.clock g.core + lat) m g.p[d] :: livePend (s.clock g.core) g.pend := epd
  have ep' : y.p = (g.writeP s.own.free (s.clock g.core) lat d m v).p := ep
  refine ⟨h1, y, hy, hr, keepsS_other es hpend fun _ _ => rfl, keepsV_other ev hpend fun _ _ _ => rfl,
    Gang.keepsP_writeP g _ _ _ _ _ _ ep' hpend, fun l hl hml => ⟨?_, fun hd f k hk => ?_⟩⟩
  · by_cases hd : dueP g d l (s.clock g.core + lat)
    · have hlane : y.p[d].getLsbD l = v.getLsbD l ∨ y.p[d].getLsbD l = g.p[d].getLsbD l := by
        rw [ep']
        unfold Gang.writeP
        simp only [Fin.getElem_fin, Vector.getElem_set_self]
        rw [getLsbD_maskOf, if_pos hml]
        simp only [hl, decide_true, Bool.true_and]
        split
        · exact .inr rfl
        · exact .inl rfl
      exact hlane.imp id fun h => ⟨h, hd⟩
    · left
      rw [ep', Gang.writeP_bit _ _ _ _ _ _ _ _ hl hd, if_pos hml]
  · refine readP_written hl hpend ?_ (fun d' q o ho hq => ?_) f k hk
    · rw [ep', Gang.writeP_bit _ _ _ _ _ _ _ _ hl hd, if_pos hml]
    · exact Nat.lt_of_not_le fun hle => hd ⟨d', q, o, (List.mem_filter.mp ho).1, hq, hle⟩

end Sys2Proof.Machine
end

