-- ==== Sys2Proof/Laws/Stored.lean ====
section
/-!
SUPPORT. What the shared writes of device memory do to it: which write bytes, and that the canonical form stays.
-/
namespace Sys2Proof.Machine

/-- A fold of operations that leave memory as it is leaves it as it is. -/
theorem State.foldl_mem {α : Type} {f : State → α → State} (hf : ∀ s x, (f s x).mem = s.mem) (xs : List α) (s : State) :
    (xs.foldl f s).mem = s.mem := by
  induction xs generalizing s with
  | nil => rfl
  | cons x xs ih => rw [List.foldl_cons, ih, hf]

/-- A fold of operations that keep the canonical form keeps it. -/
theorem State.foldl_wf {α : Type} {f : State → α → State}
    (hf : ∀ s x, Memory.wf s.mem = true → Memory.wf (f s x).mem = true) (xs : List α) (s : State)
    (h : Memory.wf s.mem = true) : Memory.wf (xs.foldl f s).mem = true := by
  induction xs generalizing s with
  | nil => exact h
  | cons x xs ih => exact ih _ (hf s x h)

/-- Doublewords written one after another keep the canonical form. -/
theorem Memory.wf_memDWords {m : List Host.Cell} (a : Nat) (ds : List DWord) (h : Memory.wf m = true) :
    Memory.wf (memDWords m a ds) = true := by
  induction ds generalizing m a with
  | nil => exact h
  | cons d ds ih => exact ih (a + 8) (Memory.wf_memSetDWord a d h)

/-- A record that becomes eligible changes no memory. -/
theorem State.makeEligible_mem (s : State) (k : GangKey) (key : Tick) : (s.makeEligible k key).mem = s.mem := by
  unfold makeEligible
  split
  · split <;> rfl
  · rfl

/-- Monitors that are hit change no memory. -/
theorem State.hitMonitors_mem (s : State) (p : CoreId → Monitor → Bool) : (s.hitMonitors p).mem = s.mem := by
  unfold hitMonitors
  split
  · rfl
  · refine foldl_mem (fun t k => ?_) _ _
    dsimp only
    split
    · rfl
    · rw [foldl_mem (fun u m => ?_)]
      · rfl
      · split
        · split
          · exact makeEligible_mem ..
          · rfl
        · rfl

/-- Nor does the search for the monitors on written bytes. -/
@[simp] theorem State.hitWritten_mem (s : State) (bs : List (Nat × List Byte)) : (s.hitWritten bs).mem = s.mem :=
  s.hitMonitors_mem _

/-- What the hub writes of its own is in memory. -/
@[simp] theorem State.hubWords_mem (s : State) (a : Nat) (ds : List DWord) : (s.hubWords a ds).mem = memDWords s.mem a ds :=
  hitWritten_mem ..

/-- Bytes written at the home slice of their line are in memory (R299). -/
@[simp] theorem State.writeHome_mem (s : State) (home : Home) (line : Nat) (ctype : Byte) (bs : List (Nat × List Byte)) :
    (s.writeHome home line ctype bs).mem = bs.foldl (fun m x => memWrite m x.1 x.2) s.mem := by
  cases home <;> exact hitWritten_mem ..

/-- A write-through is booked; it changes no memory of its own (R310). -/
@[simp] theorem State.writeThrough_mem (s : State) (home : Home) (line : Nat) : (s.writeThrough home line).mem = s.mem := by
  cases home
  case cap =>
    unfold writeThrough
    split
    · split
      split <;> simp only [schedule, scheduleTask, setAgenda_mem, setHier_mem]
    · rename_i no
      exact (no _ _ rfl).elim
  all_goals rfl

/-- A line that leaves L2 keeps the canonical form. -/
theorem State.wf_leaveL2 {s : State} (l : L2Line) (h : Memory.wf s.mem = true) : Memory.wf (s.leaveL2 l).mem = true := by
  unfold leaveL2
  split
  · exact h
  · simp only [setMem_mem]
    exact Memory.wf_memWrite _ _ h

/-- So does what a victim brings about. -/
theorem State.wf_victimGoes {s : State} (sl : Fin 64) (w : Way) (h : Memory.wf s.mem = true) :
    Memory.wf (s.victimGoes sl w).mem = true := by
  have h1 : Memory.wf (match w.clean with
      | some v => if s.isDead v.addr then s.setMem (memZero s.mem v.addr 128) else s.leaveL2 v
      | none => s).mem = true := by
    split
    · split
      · exact Memory.wf_memZero _ _ h
      · exact wf_leaveL2 _ h
    · exact h
  unfold victimGoes
  dsimp only
  split
  · exact h1
  · exact h1

/-- What the steward writes through a home slice keeps the canonical form (R405). -/
theorem State.wf_storeLine {s : State} (home : Home) (line : Nat) (ctype : Byte) (bs : List (Nat × List Byte))
    (h : Memory.wf s.mem = true) : Memory.wf (s.storeLine home line ctype bs).mem = true := by
  have hw : ∀ t : State, Memory.wf t.mem = true →
      Memory.wf ((t.writeHome home line ctype bs).writeThrough home line).mem = true := fun t ht => by
    rw [writeThrough_mem, writeHome_mem]
    exact Memory.wf_foldl _ (fun m x hm => Memory.wf_memWrite _ _ hm) ht
  cases home
  case hbm => exact hw _ (wf_victimGoes _ _ h)
  case cap => exact hw _ (wf_victimGoes _ _ h)
  all_goals exact h

/-- Of the zeros of a page (R405). -/
theorem State.wf_zeroPage {s : State} (c : Ctx) (va : Nat) (b : Vector DWord 8) (h : Memory.wf s.mem = true) :
    Memory.wf (s.zeroPage c va b).mem = true := by
  unfold zeroPage
  split
  · exact h
  · refine foldl_wf (fun t i ht => ?_) _ _ h
    dsimp only
    split
    · exact ht
    · exact wf_storeLine _ _ _ _ ht

/-- Of the pages requested under a ticket (R405). -/
theorem State.wf_zeroPages {s : State} (ticket : Word) (h : Memory.wf s.mem = true) : Memory.wf (s.zeroPages ticket).mem = true := by
  refine foldl_wf (fun t x ht => ?_) _ _ h
  split
  · exact ht
  · refine foldl_wf (fun u p hu => ?_) _ _ ht
    split
    · exact wf_zeroPage _ _ _ hu
    · exact hu

/-- L1 is not memory. -/
@[simp] theorem State.l1Drop_mem (s : State) (k : CoreId) (line : Nat) : (s.l1Drop k line).mem = s.mem := rfl

/-- What the loader writes to the capacity tier keeps the canonical form (R407). -/
theorem State.wf_loadCap {s : State} (ch : Fin 32) (line at_ : Nat) (bs : List Byte) (h : Memory.wf s.mem = true) :
    Memory.wf (s.loadCap ch line at_ bs).mem = true := by
  have h1 : Memory.wf (match s.hier.line? line with
      | some l => (s.setHier (s.hier.dropLine line)).leaveL2 l
      | none => s).mem = true := by
    split
    · exact wf_leaveL2 _ h
    · exact h
  have h2 : ∀ t : State, Memory.wf t.mem = true → Memory.wf (if t.csize = 0 then t
      else if (t.hier.sector (sectorOf t.csize ch line).1).valid &&
          (t.hier.sector (sectorOf t.csize ch line).1).tag = BitVec.ofNat 4 (sectorOf t.csize ch line).2 then
        t.setHier (t.hier.putSector { t.hier.sector (sectorOf t.csize ch line).1 with valid := false, dirty := false })
      else t).mem = true := fun t ht => by
    split
    · exact ht
    · split
      · exact ht
      · exact ht
  unfold loadCap
  rw [hitWritten_mem]
  refine Memory.wf_memWrite _ _ (h2 _ ?_)
  rw [foldl_mem fun t k => l1Drop_mem t k line]
  exact h1

/-- And so does all that the loader places (R405, R407). -/
theorem State.wf_loadData {s : State} (c : Ctx) (ps : List (Nat × Nat)) (bs : List Byte) (h : Memory.wf s.mem = true) :
    Memory.wf (s.loadData c ps bs).mem = true := by
  induction ps generalizing s bs with
  | nil => exact h
  | cons p ps ih =>
    refine ih _ ?_
    split
    · exact h
    · refine foldl_wf (fun t l ht => ?_) _ _ h
      dsimp only
      split
      · exact ht
      · split
        · exact wf_loadCap _ _ _ _ ht
        · exact wf_storeLine _ _ _ _ ht

end Sys2Proof.Machine
end

