-- ==== Sys2Proof/Machine/Window.lean ====
section
/-!
DEFINITION. What a read of a control register returns (R388, R389, R391 to R394, R399 to R403), for reads without an effect. The
reads that clear have rows of their own.
-/
namespace Sys2Proof.Machine

/-- The image of PWR_STAT (R367): LIC as written, EFF and NET of the period. -/
def Power.image (w : Power) : DWord :=
  BitVec.ofNat 64 (w.eff.toNat * 2 ^ 32 + w.net.toNat * 2 ^ 16 + w.licNext.toNat)

/-- The registers at READY, LC, ATT and MEAS0 to MEAS7 (R400 to R403), at their offset from READY. -/
def Sys.readyRead (y : Sys) (off : Nat) : DWord :=
  match off with
  | 0x00 => y.ready
  | 0x08 => y.lc.zeroExtend 64
  | 0x10 => y.att
  | _ => if 0x100 ≤ off && off < 0x300 then BitVec.ofNat 64 ((vget y.meas ((off - 0x100) / 64)).toNat / 2 ^ (8 * (off % 64))) else 0

/-- 64 skip bits of a stack (R392). -/
def skipRead (skip : List Nat) (r : Nat) : DWord :=
  BitVec.ofNat 64 ((skip.filter fun b => b / 64 = r).foldl (fun n b => n ||| 2 ^ (b % 64)) 0)

/-- The register arrays of the hub (R392). -/
def State.arraysRead (s : State) (off : Nat) : DWord :=
  match regIndex 0x100 12 off, regIndex 0x200 256 off, regIndex 0x1000 16 off, regIndex 0x2000 256 off with
  | some l, _, _, _ => s.sys.fabAlw[l].zeroExtend 64
  | _, some p, _, _ => s.sys.route[p].zeroExtend 64
  | _, _, some k, _ => s.hier.stks[k].deadReg
  | _, _, _, some c => BitVec.ofNat 64 ((s.core c).temp.toNat * 2 ^ 8 + (s.core c).limit.toNat)
  | _, _, _, _ =>
    if 0x20000 ≤ off && off < 0x40000 && off % 0x2000 / 8 < 768 then
      skipRead (vget s.hier.stks ((off - 0x20000) / 0x2000)).skip (off % 0x2000 / 8)
    else if 0x3F0000 ≤ off then s.sys.readyRead (off - 0x3F0000) else 0

/-- A read of a hub register (R392); an offset that holds no register reads zero (R391). -/
def State.readHub (s : State) (off : Nat) : DWord :=
  match off with
  | 0x00 => s.sys.bootNext
  | 0x08 => s.sys.ctxCmd
  | 0x10 => s.sys.ctxArg0
  | 0x18 => s.sys.ctxArg1
  | 0x20 => s.power.image
  | 0x28 => s.power.offer
  | 0x30 => s.power.tokLog
  | 0x38 => s.power.tokWr.zeroExtend 64
  | 0x40 => s.power.engTbl
  | 0x48 => s.power.unattr
  | 0x50 => s.time.clkGrp.zeroExtend 64
  | 0x58 => s.time.clkStep
  | 0x60 => s.time.timeAdj
  | 0x68 => s.time.timeLog
  | 0x70 => s.time.timeWr
  | 0x78 => s.sys.fabId.zeroExtend 64
  | 0x80 => s.sys.hostAlw.zeroExtend 64
  | 0x88 => s.sys.errLog
  | 0x90 => s.sys.errWr
  | _ => s.arraysRead off

/-- EVSEL of a counter (R393). -/
def Counter.selImage (e : Counter) : DWord :=
  BitVec.ofNat 64 (e.sel.toNat + (if e.run then 2 ^ 62 else 0))
/-- EVCNT of a counter (R393). -/
def Counter.cntImage (e : Counter) : DWord :=
  BitVec.ofNat 64 (e.count.toNat + (if e.ovf then 2 ^ 63 else 0))

/-- A read of a core's window (R393): zero while no context is active. -/
def State.readCore (s : State) (k : CoreId) (off : Nat) : DWord :=
  let t := (s.cc k).trc
  if !s.windowOpen k then 0
  else match off with
  | 0x80 => t.base
  | 0x88 => t.ctl
  | 0x90 => joinWords t.writes t.drops
  | 0x98 => t.read.zeroExtend 64
  | _ => match regIndex 0x100 32 off with
    | some i => let e := vget (s.cc k).ev (i.val / 2); if i.val % 2 = 0 then e.selImage else e.cntImage
    | none => 0

/-- A read of a mailbox word in a tick (R389): the doorbell, as it stood before the clears of that tick (R6), or message bytes. -/
def Mailbox.read (b : Mailbox) (now off : Nat) : Word :=
  if off = 0 then (if b.clrAt = now + 1 then b.was else b.bell) else memWord b.msg off

end Sys2Proof.Machine
end

