-- ==== Sys2Proof/Tests/Slice0.lean ====
section
/-!
SUPPORT. Tests of the model: words written out from the encodings of the spec, terms that `wellFormed` refuses, one-step tests,
and for each claim with hypotheses a state and operands that meet them.
-/
namespace Sys2Proof.Tests

open Machine

/-! ## A small state: one context, one crew with a partition, one gang mid-clause -/

def key0 : GangKey := ⟨1, 0, 3⟩
def e0 : Entry := ⟨0x1000, 5, 0x8000000F⟩
def c0 : Clause := ⟨0x1000, 0x1004, 2, .uni⟩
/-- Scalar registers: sN holds N. -/
def s0 : Vector DWord 64 := Vector.ofFn fun n => BitVec.ofNat 64 n.val
/-- Vector registers: lane l of vN holds 1000 N + l. -/
def v0 : Vector Lanes 192 := Vector.ofFn fun n => Vector.ofFn fun l => BitVec.ofNat 32 (1000 * n.val + l.val)
def g0 : Gang :=
  { key := key0, ctx := 7, core := 2, place := .slot 1 4, role := .general, live := 12, s := s0, v := v0
    p := Vector.ofFn fun n => if n.val = 0 then 0xFFFFFFFF else BitVec.ofNat 32 n.val, t := Vector.replicate 16 TimeReg.reset
    front := [], sel := some e0, clause := some c0, lastPc := none, rotPoint := false, fair := 0, rotPend := false, round := none
    trap := none, hmask := 0, strict := none, budgeted := false, timedOut := false, readyAt := 0, wait := false, stall := 0
    probing := none, opnd := 0, block := [], marks := [], probeAt := (0, 0), pend := [], fences := [], obsT := Vector.replicate 16 0, obs := 0
    hd := Rec.reset }
def crew0 : Crew :=
  { key := ⟨1, 0⟩, ctx := 7, index := 4, core := 2, partBase := 4096, partLen := 8192, bars := 4
    bind := Vector.ofFn fun n => 16 * n.val, regs := [], reserve := 0, mig := none, killed := false, resident := true, held := false }
/-- Memory that holds doublewords at ascending addresses. -/
def cells (xs : List (Nat × Nat)) : List Host.Cell :=
  (xs.flatMap fun x => (List.range 8).map fun i => (x.1 + i, BitVec.ofNat 8 (x.2 / 256 ^ i))).filter fun c => c.2 != 0
/-- HANDLER 0x4000; buffer records 1 (HBM, all rights), 2 (host, read and write),
3 (HBM, read only), 4 (an absent page), 5 (the same, pageable), 6 (write only); queue descriptors 1 (a data
queue of 64 records), 2 (a dispatch queue) and 3 (open to the host). -/
def dws0 : List (Nat × Nat) :=
  [(0x8000, 0x4000),
   (0x10040, 0x200000), (0x10048, 0x1000), (0x10050, 7 * 2 ^ 52 + 2 ^ 51 + 7 * 2 ^ 44 + 1),
   (0x10080, 0x200000), (0x10088, 0x1000), (0x10090, 7 * 2 ^ 52 + 2 ^ 51 + 3 * 2 ^ 44 + 2 * 2 ^ 40),
   (0x100C0, 0x200000), (0x100C8, 0x1000), (0x100D0, 7 * 2 ^ 52 + 2 ^ 51 + 2 ^ 44 + 1),
   (0x10100, 0x900000), (0x10108, 0x1000), (0x10110, 7 * 2 ^ 52 + 2 ^ 51 + 7 * 2 ^ 44 + 1),
   (0x10140, 0x900000), (0x10148, 0x1000), (0x10150, 7 * 2 ^ 52 + 2 ^ 51 + 2 ^ 50 + 7 * 2 ^ 44 + 1),
   (0x10180, 0x200000), (0x10188, 0x1000), (0x10190, 7 * 2 ^ 52 + 2 ^ 51 + 2 ^ 45 + 1),
   (0x20040, 0x50000), (0x20048, 7 * 2 ^ 52 + 2 ^ 51 + 6 * 2 ^ 40), (0x20080, 0x60000), (0x20088, 7 * 2 ^ 52 + 2 ^ 51 + 2 ^ 50 + 6 * 2 ^ 40),
   (0x200C0, 0x70000), (0x200C8, 7 * 2 ^ 52 + 2 ^ 51 + 2 ^ 49 + 6 * 2 ^ 40)]
/-- The record of the context (R349): running, id 7, buffer table at 0x10000, queue table at 0x20000, rings from 0x30000, save areas from
0x1000000. -/
def ctx0 : Ctx :=
  { id := 7, record := #v[0x2007000000004000, 0x100000, 0x0040000000010000, 0x0040000000020000, 0x0040000000030000, 0x00A0000000800000,
                          0x0040000000040000, 0x1000000, 0x10, 0, 0, 0, 0, 0, 0, 0]
    addr := 0x8000, map := Vector.ofFn id, revoked := [], pages := [], killing := false, resolved := [] }
/-- Core 2 runs the context; its TLB translates the page at 0x200000 to 0x600000 and its record cache holds the records. -/
def core0 : Core :=
  { Core.reset with active := some 7, tlb := [⟨7, 0x200000, 0x600000, 16, true, 0, 0⟩], recs := (List.range 7).map fun h => ⟨7, h, 0⟩ }
def st (g : Gang) (c : Crew) : State :=
  { State.reset with gangs := [g], crews := [c], ctxs := [ctx0], mem := cells dws0
                     cores := State.reset.cores.set 2 core0
                     sys := { State.reset.sys with ready := 0x000000FFFFFFFFF8 }
                     own := { State.reset.own with cur := g.key } }
def w0 : State := st g0 crew0

set_option maxRecDepth 100000
set_option Elab.async false

/-- A word that the issuing gang, of a general role, may issue: it has all registers and no checking scoreboard. -/
theorem ready_at {s : State} {g : Gang} {e : Entry} {c : Clause} (h : s.issuing = some (g, e, c)) (hr : g.role = .general)
    (ha : s.alloc g = 192) (hc : checks s g = false) (kind : WordKind) (rd wr : List RegRef) : Obl.Ready s g e c kind rd wr := by
  refine ⟨h, ?_, ?_, ?_, ?_⟩
  · rw [hr]; cases kind <;> rfl
  · intro n _; rw [ha]; exact n.isLt
  · intro h; rw [hc] at h; cases h
  · intro h; rw [hc] at h; cases h
/-- The same for a gang of no listed slice. -/
theorem ready_of {s : State} {g : Gang} {e : Entry} {c : Clause} (h : s.issuing = some (g, e, c)) (hr : g.role = .general)
    (hs : s.slices = []) (kind : WordKind) (rd wr : List RegRef) : Obl.Ready s g e c kind rd wr := by
  have hl : ∀ l, s.slice? l = none := by intro l; simp [State.slice?, hs]
  exact ready_at h hr (by simp only [State.alloc, hl]) (by simp only [checks, hl]) kind rd wr

theorem witness_ready (kind : WordKind) (rd wr : List RegRef) : Obl.Ready w0 g0 e0 c0 kind rd wr ∧ e0.mask ≠ 0 :=
  ⟨ready_of rfl rfl rfl kind rd wr, by decide⟩
theorem witness_no_handler : g0.inHandler = false ∧ w0.handlerOf g0 ≠ 0 := by decide +kernel

/-! ## Ill-formed terms, one for each check -/

def op0 : MemOp := ⟨.v 4, .v 1, 1, .b32, 4, false, 0, .dev, .plain, 0⟩
def sp0 : MemOp := ⟨.v 4, .v 1, 1, .b32, 0, false, 0, .crew, .plain, 0⟩
def zr0 : MemOp := ⟨.s 4, .s 0, 1, .b8, 4, false, 0, .gang, .plain, 7⟩
def wt0 : MemOp := ⟨.v 0, .s 9, 0, .b32, 6, false, 0, .dev, .plain, 0⟩

theorem test_wellFormed_terms : ∀ i ∈ ([.ld 0 op0, .st 0 op0, .atomAdd 0 op0, .redAdd 0 op0, .lds 0 sp0, .atomsCas 0 sp0, .bchk 0 zr0,
    .bmeta 0 zr0, .watch 0 wt0, .pf 0 { zr0 with data := .v 0, t := 0, imm := 256 }] : List Instr), wellFormed i = true := by decide

theorem test_illFormed_memory : ∀ i ∈ ([
    .ld 0 { op0 with sem := .rel }, .ld 0 { op0 with data := .v 5, w := .b64 }, .ld 0 { op0 with data := .v 190, w := .b128 },
    .ld 0 { op0 with data := .s 63, w := .b128 }, .st 0 { op0 with sem := .acq }, .st 0 { op0 with sem := .acqRel },
    .pf 0 { zr0 with data := .v 1, t := 0 }, .pf 0 { zr0 with data := .v 0 }, .pf 0 { zr0 with data := .v 0, t := 0, w := .b16 },
    .pf 0 { zr0 with data := .v 0, t := 0, sc := .crew }, .bchk 0 { zr0 with data := .v 4 }, .bchk 0 { zr0 with sem := .acq },
    .bchk 0 { zr0 with after := true }, .bchk 0 { zr0 with afterT := 1 }, .bmeta 0 { zr0 with off := .s 1 },
    .bmeta 0 { zr0 with w := .b32 }, .bmeta 0 { zr0 with imm := 8 }, .bmeta 0 { zr0 with data := .v 4 }] : List Instr),
    wellFormed i = false := by decide

theorem test_illFormed_scratch : ∀ i ∈ ([
    .lds 0 { sp0 with h := 1 }, .lds 0 { sp0 with sc := .dev }, .lds 0 { sp0 with sem := .rel }, .sts 0 { sp0 with sem := .acq },
    .sts 0 { sp0 with data := .v 1, w := .b64 }, .atomsAdd 0 { sp0 with w := .b64 }, .atomsAdd 0 { sp0 with data := .v 191 },
    .atomsCas 0 { sp0 with data := .s 62 }, .atomsCas 0 { sp0 with sc := .span }, .watch 0 { wt0 with data := .v 1 },
    .watch 0 { wt0 with t := 1 }, .watch 0 { wt0 with w := .b16 }, .watch 0 { wt0 with sem := .acq }, .watch 0 { wt0 with sc := .sys }] :
    List Instr), wellFormed i = false := by decide

theorem test_illFormed_atomics : ∀ i ∈ ([
    .atomAdd 0 { op0 with w := .b16 }, .atomMin 0 { op0 with data := .v 191 }, .atomMax 0 { op0 with w := .b8 }, .atomAnd 0 { op0 with w := .b128 },
    .atomOr 0 { op0 with w := .i8 }, .atomXor 0 { op0 with w := .i16 }, .atomXchg 0 { op0 with data := .v 189, w := .b64 },
    .atomInc 0 { op0 with data := .s 63 }, .atomCas 0 { op0 with data := .v 190 }, .atomFadd 0 { op0 with w := .b64 },
    .redAdd 0 { op0 with sem := .acq }, .redMin 0 { op0 with w := .b16 }, .redMax 0 { op0 with data := .v 3, w := .b64 },
    .redFadd 0 { op0 with w := .b64 }] : List Instr), wellFormed i = false := by decide

theorem test_illFormed_fields : ∀ i ∈ ([
    .yieldAll 0 none 0, .yieldAny 0 none 0, .yieldAt 0 none 5, .sbfx 0 1 2 true ⟨60, 4⟩, .sbfi 0 1 2 ⟨1, 63⟩, .vbfx 0 1 (.v 2) false ⟨31, 1⟩,
    .vbfi 0 1 (.v 2) ⟨32, 0⟩, .scmp 0 1 2 3 .ord false, .scmp 0 1 2 3 .unord true, .vcmp 0 1 (.v 2) (.v 3) .ord false,
    .vcmp 0 1 (.v 2) (.v 3) .unord false, .cvt 0 1 (.v 2) .rn false .f32 .f32, .tsort 0 1 5 4, .tclr 0 5 4, .ringInit 0 1 2 0 false 0,
    .qntScale 0 1 (.v 2) 1 0] : List Instr), wellFormed i = false := by decide

theorem test_wellFormed_edges : ∀ i ∈ ([
    .yieldAll 0 none 1, .yieldAny 0 (some 0) 0, .sbfx 0 1 2 true ⟨60, 3⟩, .vbfi 0 1 (.v 2) ⟨31, 0⟩, .tsort 0 1 5 5, .tclr 0 0 15,
    .ld 0 { op0 with data := .v 188, w := .b128 }, .atomCas 0 { op0 with data := .v 189 }] : List Instr), wellFormed i = true := by decide

/-! ## Memories in canonical form -/

theorem ok_reset : MemoryOk State.reset := by
  refine ⟨rfl, fun k => ?_⟩
  simp [State.core, State.reset]; rfl
theorem ok_core {s : State} {m : List Host.Cell} (k : CoreId) (x : Core) (h : MemoryOk s) (hx : Memory.wf x.spad = true) (hm : Memory.wf m = true) :
    MemoryOk { s with mem := m, cores := s.cores.set k x } := by
  refine ⟨hm, fun j => ?_⟩
  have := h.2 j
  simp only [State.core, Fin.getElem_fin, Vector.getElem_set] at this ⊢
  split <;> assumption
theorem ok_dws0 : Memory.wf (cells dws0) = true := by decide +kernel
theorem ok_st (g : Gang) (c : Crew) : MemoryOk (st g c) := ok_core (s := State.reset) 2 core0 ok_reset rfl ok_dws0
theorem ok_setCore {s : State} (k : CoreId) (x : Core) (h : MemoryOk s) (hx : Memory.wf x.spad = true) : MemoryOk (s.setCore k x) :=
  ok_core k x h hx h.1
theorem ok_setCc {s : State} (k : CoreId) (x : CoreCtx) (h : MemoryOk s) : MemoryOk (s.setCc k x) := ok_setCore k _ h (h.2 k)

/-! ## Registers: UNI and VEC -/

/-- The state with s1, s2, s3 and s9 given. -/
def uniState (a b c : DWord) : State :=
  st { g0 with s := (((s0.set 1 a).set 2 b).set 3 c).set 9 0x1111222233334444 } crew0
/-- What s9 holds after one word. -/
def uniRun (x : Instr × DWord × DWord × DWord) : Option DWord :=
  match exec x.1 (uniState x.2.1 x.2.2.1 x.2.2.2) with
  | .next t => (t.gang? key0).map fun g => g.s[(9 : SReg)]
  | _ => none
/-- The state with every lane of v1, v2, v3 and v9 given. -/
def vecState (a b c : Word) : State :=
  st { g0 with v := (((v0.set 1 (Vector.replicate 32 a)).set 2 (Vector.replicate 32 b)).set 3 (Vector.replicate 32 c)).set 9
                 (Vector.replicate 32 0x11112222) } crew0
/-- What an active and an inactive lane of v9 hold after one word. -/
def vecRun (x : Instr × Word × Word × Word) : Option (Word × Word) :=
  match exec x.1 (vecState x.2.1 x.2.2.1 x.2.2.2) with
  | .next t => (t.gang? key0).map fun g => ((g.v[(9 : VReg)])[(31 : Fin 32)], (g.v[(9 : VReg)])[(4 : Fin 32)])
  | _ => none
/-- What a predicate register holds after one word: bits of lanes 0 to 4 and 31. -/
def predRun (x : Instr × Word × Word) (n : PReg) : Option Mask :=
  match exec x.1 (vecState x.2.1 x.2.2 0) with
  | .next t => (t.gang? key0).map fun g => g.p[n]
  | _ => none
/-- What v9 holds after one word of the small state. -/
def laneRun (i : Instr) (l : Fin 32) : Option Word :=
  match exec i w0 with
  | .next t => (t.gang? key0).map fun g => (g.v[(9 : VReg)])[l]
  | _ => none

def uniForms : List Instr := [.smov 0 9 1, .sli 0 9 5, .sadd 0 9 1 2, .ssub 0 9 1 2, .saddi 0 9 1 3, .smul 0 9 1 2, .smulhI 0 9 1 2,
  .smulhN 0 9 1 2, .sand 0 9 1 2, .sor 0 9 1 2, .sxor 0 9 1 2, .snot 0 9 1, .sshl 0 9 1 2, .sshr 0 9 1 2, .ssra 0 9 1 2, .sminI 0 9 1 2,
  .sminN 0 9 1 2, .smaxI 0 9 1 2, .smaxN 0 9 1 2, .sclz 0 9 1, .spop 0 9 1, .sbfx 0 9 1 true ⟨0, 63⟩, .sbfi 0 9 1 ⟨63, 0⟩,
  .scmp 0 9 1 2 .ge true, .ssel 0 9 1 2 3]
/-- O1: each UNI word meets the hypotheses. -/
theorem witness_UniResults : ∀ i ∈ uniForms, wellFormed i = true ∧ ∃ d as v, Obl.uni (Obl.rs w0 g0) i = some (d, as, v) ∧
    Obl.Ready w0 g0 e0 c0 .free (as.map .s) [.s d] := by
  have h : ∀ i ∈ uniForms, wellFormed i = true ∧ (Obl.uni (Obl.rs w0 g0) i).isSome = true := by decide +kernel
  intro i hi
  obtain ⟨hw, ho⟩ := h i hi
  obtain ⟨⟨d, as, v⟩, hx⟩ := Option.isSome_iff_exists.mp ho
  exact ⟨hw, d, as, v, hx, ready_of rfl rfl rfl _ _ _⟩

/-- Values by hand from R149 to R153: the wraps, signs and field ends. -/
theorem test_uni_values : ∀ x ∈ ([
    ((.smov 0 9 1, 5, 0, 0), 5), ((.sli 0 9 0xFFFFFFFF, 0, 0, 0), 0xFFFFFFFFFFFFFFFF), ((.slih 0 9 0xDEADBEEF, 0, 0, 0), 0xDEADBEEF33334444),
    ((.sadd 0 9 1 2, 0xFFFFFFFFFFFFFFFF, 2, 0), 1), ((.ssub 0 9 1 2, 1, 2, 0), 0xFFFFFFFFFFFFFFFF), ((.saddi 0 9 1 0xFF, 0, 0, 0), 0xFFFFFFFFFFFFFFFF),
    ((.smul 0 9 1 2, 0x8000000000000001, 2, 0), 2), ((.smulhI 0 9 1 2, 0xFFFFFFFFFFFFFFFF, 2, 0), 0xFFFFFFFFFFFFFFFF),
    ((.smulhN 0 9 1 2, 0xFFFFFFFFFFFFFFFF, 2, 0), 1), ((.sand 0 9 1 2, 0xF0F0, 0xFF00, 0), 0xF000), ((.sor 0 9 1 2, 0xF0F0, 0xFF00, 0), 0xFFF0),
    ((.sxor 0 9 1 2, 0xF0F0, 0xFF00, 0), 0x0FF0), ((.snot 0 9 1, 0, 0, 0), 0xFFFFFFFFFFFFFFFF), ((.sshl 0 9 1 2, 1, 65, 0), 2),
    ((.sshr 0 9 1 2, 0x8000000000000000, 63, 0), 1), ((.ssra 0 9 1 2, 0x8000000000000000, 63, 0), 0xFFFFFFFFFFFFFFFF)] :
    List ((Instr × DWord × DWord × DWord) × DWord)), uniRun x.1 = some x.2 := by decide +kernel
theorem test_uni_values_2 : ∀ x ∈ ([
    ((.sminI 0 9 1 2, 0xFFFFFFFFFFFFFFFF, 1, 0), 0xFFFFFFFFFFFFFFFF), ((.sminN 0 9 1 2, 0xFFFFFFFFFFFFFFFF, 1, 0), 1),
    ((.smaxI 0 9 1 2, 0xFFFFFFFFFFFFFFFF, 1, 0), 1), ((.smaxN 0 9 1 2, 0xFFFFFFFFFFFFFFFF, 1, 0), 0xFFFFFFFFFFFFFFFF),
    ((.sclz 0 9 1, 1, 0, 0), 63), ((.sclz 0 9 1, 0, 0, 0), 64), ((.spop 0 9 1, 0xFF, 0, 0), 8), ((.sbfx 0 9 1 true ⟨8, 7⟩, 0xFE00, 0, 0), 0xFFFFFFFFFFFFFFFE),
    ((.sbfx 0 9 1 false ⟨8, 7⟩, 0xFE00, 0, 0), 0xFE), ((.sbfi 0 9 1 ⟨8, 7⟩, 0xAB, 0, 0), 0x111122223333AB44),
    ((.scmp 0 9 1 2 .lt true, 0xFFFFFFFFFFFFFFFF, 1, 0), 1), ((.scmp 0 9 1 2 .lt false, 0xFFFFFFFFFFFFFFFF, 1, 0), 0),
    ((.ssel 0 9 1 2 3, 7, 8, 0), 8), ((.ssel 0 9 1 2 3, 7, 8, 2), 7)] :
    List ((Instr × DWord × DWord × DWord) × DWord)), uniRun x.1 = some x.2 := by decide +kernel

def vecForms : List Instr := [.vmov 0 9 (.v 1), .vli 0 9 5, .vadd 0 9 (.v 1) (.v 2), .vsub 0 9 (.v 1) (.s 2), .vaddi 0 9 (.v 1) 3, .vmul 0 9 (.v 1) (.v 2),
  .vmulhI 0 9 (.v 1) (.v 2), .vmulhN 0 9 (.v 1) (.v 2), .vmad 0 9 (.v 1) (.v 2) (.v 3), .vand 0 9 (.v 1) (.v 2), .vor 0 9 (.v 1) (.v 2),
  .vxor 0 9 (.v 1) (.v 2), .vnot 0 9 (.v 1), .vshl 0 9 (.v 1) (.v 2), .vshr 0 9 (.v 1) (.v 2), .vsra 0 9 (.v 1) (.v 2), .vmin 0 9 (.v 1) (.v 2) true,
  .vmax 0 9 (.v 1) (.v 2) false, .vabs 0 9 (.v 1), .vclz 0 9 (.v 1), .vpop 0 9 (.v 191), .vbfx 0 9 (.v 1) true ⟨0, 31⟩, .vbfi 0 9 (.v 1) ⟨31, 0⟩,
  .vsel 0 9 (.v 1) (.v 2) 1, .vlane 0 191, .pget 0 9 1]
theorem witness_VecIntegerResults : ∀ i ∈ vecForms, wellFormed i = true ∧ ∃ d rd v, Obl.vecInt (Obl.rv w0 g0) (Obl.rp w0 g0) i = some (d, rd, v) ∧
    Obl.Ready w0 g0 e0 c0 .vec rd [.v d] := by
  have h : ∀ i ∈ vecForms, wellFormed i = true ∧ (Obl.vecInt (Obl.rv w0 g0) (Obl.rp w0 g0) i).isSome = true := by decide +kernel
  intro i hi
  obtain ⟨hw, ho⟩ := h i hi
  obtain ⟨⟨d, as, v⟩, hx⟩ := Option.isSome_iff_exists.mp ho
  exact ⟨hw, d, as, v, hx, ready_of rfl rfl rfl _ _ _⟩

/-- Values by hand from R144 and R154 to R158: lane 31 is active, lane 4 is not. -/
theorem test_vec_values : ∀ x ∈ ([
    ((.vmov 0 9 (.v 1), 5, 0, 0), 5), ((.vli 0 9 0xABCD0123, 0, 0, 0), 0xABCD0123), ((.vadd 0 9 (.v 1) (.v 2), 0xFFFFFFFF, 2, 0), 1),
    ((.vsub 0 9 (.v 1) (.s 2), 1, 0, 0), 0xFFFFFFFF), ((.vaddi 0 9 (.v 1) 0x80, 0, 0, 0), 0xFFFFFF80), ((.vmul 0 9 (.v 1) (.v 2), 0x80000001, 2, 0), 2),
    ((.vmulhI 0 9 (.v 1) (.v 2), 0xFFFFFFFF, 2, 0), 0xFFFFFFFF), ((.vmulhN 0 9 (.v 1) (.v 2), 0xFFFFFFFF, 2, 0), 1),
    ((.vmad 0 9 (.v 1) (.v 2) (.v 3), 3, 5, 0xFFFFFFFF), 14), ((.vand 0 9 (.v 1) (.v 2), 0xF0F0, 0xFF00, 0), 0xF000),
    ((.vor 0 9 (.v 1) (.v 2), 0xF0F0, 0xFF00, 0), 0xFFF0), ((.vxor 0 9 (.v 1) (.v 2), 0xF0F0, 0xFF00, 0), 0x0FF0), ((.vnot 0 9 (.v 1), 0, 0, 0), 0xFFFFFFFF),
    ((.vshl 0 9 (.v 1) (.v 2), 1, 33, 0), 2), ((.vshr 0 9 (.v 1) (.v 2), 0x80000000, 31, 0), 1), ((.vsra 0 9 (.v 1) (.v 2), 0x80000000, 31, 0), 0xFFFFFFFF),
    ((.vmin 0 9 (.v 1) (.v 2) true, 0xFFFFFFFF, 1, 0), 0xFFFFFFFF), ((.vmin 0 9 (.v 1) (.v 2) false, 0xFFFFFFFF, 1, 0), 1),
    ((.vmax 0 9 (.v 1) (.v 2) true, 0xFFFFFFFF, 1, 0), 1), ((.vabs 0 9 (.v 1), 0xFFFFFFFE, 0, 0), 2), ((.vabs 0 9 (.v 1), 0x80000000, 0, 0), 0x80000000),
    ((.vclz 0 9 (.v 1), 1, 0, 0), 31), ((.vpop 0 9 (.v 1), 0xF0F0, 0, 0), 8), ((.vbfx 0 9 (.v 1) true ⟨8, 7⟩, 0xFE00, 0, 0), 0xFFFFFFFE),
    ((.vbfi 0 9 (.v 1) ⟨8, 7⟩, 0xAB, 0, 0), 0x1111AB22), ((.vlane 0 9, 0, 0, 0), 31), ((.pget 0 9 3, 0, 0, 0), 3)] :
    List ((Instr × Word × Word × Word) × Word)), vecRun x.1 = some (x.2, 0x11112222) := by decide +kernel
theorem test_vsel : vecRun (.vsel 0 9 (.v 1) (.v 2) 1, 7, 8, 0) = some (8, 0x11112222) := by decide +kernel

theorem witness_PredicateResults : ∀ i ∈ ([.vcmp 0 2 (.v 1) (.v 2) .le true, .fcmp 0 2 (.v 1) (.v 2) .unord, .pand 0 2 1 3, .por 0 2 1 3, .pxor 0 7 1 3,
    .pnot 0 0 1, .vote 0 2 (.v 1), .pmov 0 2 5] : List Instr), wellFormed i = true ∧ ∃ d lat rd whole v,
      Obl.vecPred (Obl.rv w0 g0) (Obl.rp w0 g0) (Obl.rs w0 g0) e0.mask i = some (d, lat, rd, whole, v) ∧
      Obl.Ready w0 g0 e0 c0 .vec rd [.p d] := by
  intro i hi
  simp only [List.mem_cons, List.not_mem_nil, or_false] at hi
  rcases hi with h | h | h | h | h | h | h | h <;> subst h <;>
    exact ⟨by decide, _, _, _, _, _, rfl, ready_of rfl rfl rfl _ _ _⟩

/-- R146: comparisons write the bits of the active lanes 0 to 3 and 31 and keep the others (p5 holds 5), `vote` and `pmov` write all 32. -/
theorem test_predicates : ∀ x ∈ ([
    ((.vcmp 0 5 (.v 1) (.v 2) .lt true, 0xFFFFFFFF, 1), 5, 0x8000000F), ((.vcmp 0 5 (.v 1) (.v 2) .lt false, 0xFFFFFFFF, 1), 5, 0),
    ((.fcmp 0 5 (.v 1) (.v 2) .eq, 0x80000000, 0), 5, 0x8000000F), ((.fcmp 0 5 (.v 1) (.v 2) .unord, 0x7FC00000, 0), 5, 0x8000000F),
    ((.pand 0 5 6 3, 0, 0), 5, 2), ((.por 0 5 6 1, 0, 0), 5, 7), ((.pxor 0 5 6 3, 0, 0), 5, 5), ((.pnot 0 5 6, 0, 0), 5, 0x80000009),
    ((.vote 0 5 (.v 1), 2, 0), 5, 0x8000000F), ((.pmov 0 5 63, 0, 0), 5, 63)] : List ((Instr × Word × Word) × PReg × Mask)),
    predRun x.1 x.2.1 = some x.2.2 := by decide +kernel

def floatForms : List Instr := [.fadd 0 9 (.v 1) (.v 2), .fsub 0 9 (.v 1) (.v 2), .fmul 0 9 (.v 1) (.v 2), .ffma 0 9 (.v 1) (.v 2) (.v 3) .fnms,
  .fmin 0 9 (.v 1) (.v 2), .fmax 0 9 (.v 1) (.v 2), .fabs 0 9 (.v 1), .fneg 0 9 (.v 1), .frnd 0 9 (.v 1) .rna, .fclass 0 9 (.v 1),
  .cvt 0 9 (.v 1) .rz true .i8 .f32, .haddBf 0 9 (.v 1) (.v 2), .hmulBf 0 9 (.v 1) (.v 2), .hfmaBf 0 9 (.v 1) (.v 2) (.v 3) .plain,
  .haddH 0 9 (.v 1) (.v 2), .hmulH 0 9 (.v 1) (.v 2), .hfmaH 0 9 (.v 1) (.v 2) (.v 3) .fms]
theorem witness_VecFloatResults : ∀ i ∈ floatForms, wellFormed i = true ∧ ∃ d rd v, Obl.vecFloat (Obl.rv w0 g0) i = some (d, rd, v) ∧
    Obl.Ready w0 g0 e0 c0 .vec rd [.v d] := by
  have h : ∀ i ∈ floatForms, wellFormed i = true ∧ (Obl.vecFloat (Obl.rv w0 g0) i).isSome = true := by decide +kernel
  intro i hi
  obtain ⟨hw, ho⟩ := h i hi
  obtain ⟨⟨d, as, v⟩, hx⟩ := Option.isSome_iff_exists.mp ho
  exact ⟨hw, d, as, v, hx, ready_of rfl rfl rfl _ _ _⟩
theorem witness_VecFloatResults_functions : ∀ i ∈ ([.frcp 0 9 (.v 1), .frsq 0 9 (.v 1), .fsqrt 0 9 (.v 1), .fex2 0 9 (.v 1), .flg2 0 9 (.v 1),
    .fsin 0 9 (.v 1), .fcos 0 9 (.s 1)] : List Instr), ∃ d rd v, Obl.vecFun (Obl.rv w0 g0) i = some (d, rd, v) ∧
    Obl.Ready w0 g0 e0 c0 .vec rd [.v d] := by
  intro i hi
  simp only [List.mem_cons, List.not_mem_nil, or_false] at hi
  rcases hi with h | h | h | h | h | h | h <;> subst h <;> exact ⟨_, _, _, rfl, ready_of rfl rfl rfl _ _ _⟩

/-- Values by hand from R132, R159 to R169: 1.0, 2.0, 1.5 and halves in their formats. -/
theorem test_float_values : ∀ x ∈ ([
    ((.fadd 0 9 (.v 1) (.v 2), 0x3F800000, 0x40000000, 0), 0x40400000), ((.fsub 0 9 (.v 1) (.v 2), 0x3F800000, 0x40000000, 0), 0xBF800000),
    ((.fmul 0 9 (.v 1) (.v 2), 0x3FC00000, 0x3FC00000, 0), 0x40100000), ((.ffma 0 9 (.v 1) (.v 2) (.v 3) .plain, 0x3FC00000, 0x3FC00000, 0x3F800000), 0x40500000),
    ((.ffma 0 9 (.v 1) (.v 2) (.v 3) .fms, 0x3FC00000, 0x3FC00000, 0x3F800000), 0x3FA00000),
    ((.ffma 0 9 (.v 1) (.v 2) (.v 3) .fnma, 0x3FC00000, 0x3FC00000, 0x3F800000), 0xBFA00000),
    ((.fmin 0 9 (.v 1) (.v 2), 0x3F800000, 0xC0000000, 0), 0xC0000000), ((.fmax 0 9 (.v 1) (.v 2), 0x3F800000, 0xC0000000, 0), 0x3F800000),
    ((.fabs 0 9 (.v 1), 0xBF800000, 0, 0), 0x3F800000), ((.fneg 0 9 (.v 1), 0x3F800000, 0, 0), 0xBF800000), ((.frnd 0 9 (.v 1) .rn, 0x40200000, 0, 0), 0x40000000),
    ((.frnd 0 9 (.v 1) .rp, 0x40200000, 0, 0), 0x40400000), ((.cvt 0 9 (.v 1) .rn false .i8 .f32, 0xC0600000, 0, 0), 0xFFFFFFFC),
    ((.haddBf 0 9 (.v 1) (.v 2), 0x3F804000, 0x40003F80, 0), 0x40404040), ((.hmulBf 0 9 (.v 1) (.v 2), 0x40003F80, 0x40004000, 0), 0x40804000),
    ((.hfmaBf 0 9 (.v 1) (.v 2) (.v 3) .plain, 0x40003F80, 0x40004000, 0x3F800000), 0x40A04000),
    ((.haddH 0 9 (.v 1) (.v 2), 0x3C004000, 0x40003C00, 0), 0x42004200), ((.hmulH 0 9 (.v 1) (.v 2), 0x40003C00, 0x40004000, 0), 0x44004000),
    ((.hfmaH 0 9 (.v 1) (.v 2) (.v 3) .fms, 0x40003C00, 0x40004000, 0x3C000000), 0x42004000)] :
    List ((Instr × Word × Word × Word) × Word)), vecRun x.1 = some (x.2, 0x11112222) := by decide +kernel
/-- R165: the functions at the operands whose results the spec states. -/
theorem test_function_values : ∀ x ∈ ([((.frcp 0 9 (.v 1), 0x40000000, 0, 0), 0x3F000000), ((.fsqrt 0 9 (.v 1), 0x40800000, 0, 0), 0x40000000),
    ((.frsq 0 9 (.v 1), 0x3F800000, 0, 0), 0x3F800000), ((.fex2 0 9 (.v 1), 0x3F800000, 0, 0), 0x40000000), ((.flg2 0 9 (.v 1), 0x3F800000, 0, 0), 0),
    ((.fsin 0 9 (.v 1), 0x80000000, 0, 0), 0x80000000), ((.fcos 0 9 (.v 1), 0, 0, 0), 0x3F800000)] :
    List ((Instr × Word × Word × Word) × Word)), vecRun x.1 = some (x.2, 0x11112222) := by decide +kernel

theorem witness_VecCrossLane : ∀ i ∈ ([.shflIdx 0 9 (.v 1) (.v 2), .shflN 0 9 (.v 1) .up 31, .shflN 0 9 (.v 1) .down 31, .shflN 0 9 (.v 1) .xor 31,
    .bcast 0 9 (.v 1) 63, .vred 0 9 (.v 1) .fadd, .vscan 0 9 (.v 1) .minI true] : List Instr), ∃ d lat rd v,
      Obl.vecCross (Obl.rv w0 g0) (Obl.rs w0 g0) e0.mask i = some (d, lat, rd, v) ∧ Obl.Ready w0 g0 e0 c0 .vec rd [.v d] := by
  intro i hi
  simp only [List.mem_cons, List.not_mem_nil, or_false] at hi
  rcases hi with h | h | h | h | h | h | h <;> subst h <;> exact ⟨_, _, _, _, rfl, ready_of rfl rfl rfl _ _ _⟩

/-- R170, R171, R173 by hand: lane l of v11 holds 11000 + l, of v7 7000 + l; lanes 0 to 3 and 31 are active. -/
theorem test_cross_lane : ∀ x ∈ ([
    (.shflN 0 9 (.v 11) .xor 16, 31, 11015), (.shflN 0 9 (.v 11) .up 2, 1, 11001), (.shflN 0 9 (.v 11) .down 30, 1, 11031),
    (.shflIdx 0 9 (.v 11) (.s 37), 2, 11005), (.bcast 0 9 (.v 7) 40, 3, 7008), (.vred 0 9 (.v 11) .add, 31, 55037),
    (.vred 0 9 (.v 11) .maxI, 0, 11031), (.vscan 0 9 (.v 11) .add true, 31, 44006), (.vscan 0 9 (.v 11) .add false, 31, 55037),
    (.vscan 0 9 (.v 11) .add true, 0, 0), (.vred 0 9 (.v 11) .add, 4, 9004)] : List (Instr × Fin 32 × Word)),
    laneRun x.1 x.2.1 = some x.2.2 := by decide +kernel

/-! ## Control flow -/

/-- The small state with a gang that differs from `g0`. -/
def stG (g : Gang) : State := st g crew0
def trap0 : TrapBlk := ⟨0x1004, 0x1000, 0x80, 0, true⟩
/-- The gang in its handler, whose one entry is `e0`. -/
def gH : Gang := { g0 with trap := some trap0, hmask := e0.mask }
/-- The last word of its clause, with another entry waiting at 0x2000. -/
def gL : Gang := { g0 with clause := some { c0 with left := 1 }, front := [⟨0x2000, 9, 0x00000070⟩] }
/-- The context without a handler, or with BRKHALT. -/
def noHandler (g : Gang) : State := { stG g with mem := [] }
def brkHalt (g : Gang) : State := { stG g with mem := cells [(0x8000, 0x4000), (0x8058, 1)] }

def es0 : List Entry := [⟨0x2000, 9, 0x000000F0⟩, ⟨0x1000, 5, 0x0000000F⟩]
theorem witness_PlaceJoins : Obl.FrontOk es0 ∧ (∀ x ∈ es0, x.mask &&& 0x0F00 = 0) ∧ (∀ x ∈ es0, x.pc ≠ 0x3000) ∧
    (∃ x ∈ es0, x.pc = 0x1000) ∧ (∀ x ∈ es0, x.mask &&& 0 = 0) := by unfold Obl.FrontOk; decide
/-- R91, R93 by hand: the lanes join the entry at 0x1000, which rises to priority 9 and stands first by its PC. -/
theorem test_placeLanes : placeLanes 0x0F00 0x1000 9 es0 = [⟨0x1000, 9, 0x00000F0F⟩, ⟨0x2000, 9, 0x000000F0⟩] := by decide

theorem witness_PriorityLiveNop : Obl.Ready w0 g0 e0 c0 .free [] [] ∧ g0.wait = false ∧ 1 < c0.left ∧ 16 * (12 : Fin 13).val ≤ w0.alloc g0 ∧
    Obl.Ready (stG gL) gL e0 { c0 with left := 1 } .free [] [] :=
  ⟨ready_of rfl rfl rfl _ _ _, rfl, by decide, by decide +kernel, ready_of rfl rfl rfl _ _ _⟩
theorem test_setprio : (match exec (.setprio 0 31) w0 with
    | .next t => (t.gang? key0).map fun g => (g.sel.map (·.prio), g.clause.map (·.next), g.readyAt) | _ => none) =
    some (some 31, some 0x1008, 1) := by decide +kernel
theorem test_live : (match exec (.live 3 12) w0 with | .next t => (t.gang? key0).map fun g => (g.live, g.readyAt) | _ => none) = some (12, 4) := by
  decide +kernel
theorem test_nop_last : (match exec (.nop 0) (stG gL) with | .next t => (t.gang? key0).map fun g => (g.sel, g.front) | _ => none) =
    some (none, [⟨0x2000, 9, 0x00000070⟩, ⟨0x1008, 5, 0x8000000F⟩]) := by decide +kernel

theorem witness_Branches : ∀ i ∈ ([.bra 0 6 5, .bp 0 1 5 7, .bpz 0 1 5 7, .ball 0 0 0xFFFF 1, .bany 0 4 3 2, .call 0 6 5] : List Instr),
    ∃ off prio rd wr go, Obl.branch (Obl.rp w0 g0) e0.mask i = some (off, prio, rd, wr, go) ∧ Obl.Ready w0 g0 e0 c0 .free rd wr ∧
      Obl.handlerOk g0 e0.mask go (Obl.target c0 off) (c0.next + 4) := by
  intro i hi
  simp only [List.mem_cons, List.not_mem_nil, or_false] at hi
  rcases hi with h | h | h | h | h | h <;> subst h <;>
    exact ⟨_, _, _, _, _, rfl, ready_of rfl rfl rfl _ _ _, fun h => absurd h (by decide)⟩
/-- The same in a handler, where every lane goes. -/
theorem witness_Branches_handler : Obl.Ready (stG gH) gH e0 c0 .free [] [] ∧ gH.inHandler = true ∧
    Obl.handlerOk gH e0.mask e0.mask (Obl.target c0 6) (c0.next + 4) :=
  ⟨ready_of rfl rfl rfl _ _ _, by decide, fun _ => ⟨by decide, by intro _ x hx; exact absurd hx (by simp [gH, g0]), fun h => absurd rfl h⟩⟩
def frontRun (i : Instr) (s : State) : Option (List Entry) :=
  match exec i s with | .next t => (t.gang? key0).map fun g => g.front | _ => none
/-- R103 by hand: p1 is set in lane 0 alone; targets count words from the branch word at 0x1004. -/
theorem test_branches : ∀ x ∈ ([
    (.bra 0 0xFFFF 5, [⟨0x1000, 5, 0x8000000F⟩]), (.bp 0 1 5 7, [⟨0x1018, 7, 1⟩, ⟨0x1008, 5, 0x8000000E⟩]),
    (.bpz 0 1 5 3, [⟨0x1008, 5, 1⟩, ⟨0x1018, 3, 0x8000000E⟩]), (.ball 0 1 5 7, [⟨0x1008, 5, 0x8000000F⟩]),
    (.bany 0 1 5 7, [⟨0x1018, 7, 0x8000000F⟩]), (.call 0 0x100 9, [⟨0x1404, 9, 0x8000000F⟩])] : List (Instr × List Entry)),
    frontRun x.1 w0 = some x.2 := by decide +kernel
theorem test_call_link : (match exec (.call 0 0x100 9) w0 with | .next t => (t.gang? key0).map fun g => g.s[(63 : SReg)] | _ => none) =
    some 0x1008 := by decide +kernel

theorem witness_TimeBranches : ∀ i ∈ ([.bts 0 3 8 0, .btb 0 4 8 2, .bth 0 15 8 31, .btl 0 0 0xFFFFFFF 8 1] : List Instr),
    ∃ off prio r taken, Obl.timeBranch w0.now (fun n => g0.t[n]) i = some (off, prio, r, taken) ∧ Obl.Ready w0 g0 e0 c0 .free [] [] ∧
      Obl.handlerOk g0 e0.mask (if taken then e0.mask else 0) (Obl.target c0 off) (c0.next + 8) := by
  intro i hi
  simp only [List.mem_cons, List.not_mem_nil, or_false] at hi
  rcases hi with h | h | h | h <;> subst h <;>
    exact ⟨_, _, _, _, rfl, ready_of rfl rfl rfl _ _ _, fun h => absurd h (by decide)⟩
/-- The gang with t0 PROMISED at tick 100, t1 BROKEN at 100, t2 HELD with class 4. -/
def gT : Gang := { g0 with t := ((g0.t.set 0 ⟨0x4000000000000064, false, 0⟩).set 1 ⟨0x8000000000000064, false, 1⟩).set 2 ⟨0xC400000000000007, false, 0⟩ }
theorem test_time_branches : ∀ x ∈ ([
    (.bts 0 3 8 9, 0x1024), (.bts 0 0 8 9, 0x100C), (.btb 0 1 8 9, 0x1024), (.btb 0 0 8 9, 0x100C), (.bth 0 2 8 9, 0x1024), (.btl 0 0 99 8 9, 0x1024),
    (.btl 0 0 100 8 9, 0x100C), (.btl 0 3 0 8 9, 0x100C)] : List (Instr × Pc)), (frontRun x.1 (stG gT)).map (·.map (·.pc)) = some [x.2] := by
  decide +kernel

/-- Every lane of v2 names the same aligned address; lane 1 of v1 is the first misaligned one. -/
def gJ : Gang := { g0 with v := g0.v.set 2 (Vector.replicate 32 0x3000) }
theorem witness_RegisterJumps : Obl.Ready w0 g0 e0 c0 .free [.s 4] [] ∧
    ((Obl.rs w0 g0 4).extractLsb' 0 48).extractLsb' 0 2 = (0 : BitVec 2) ∧ ((Obl.rs w0 g0 5).extractLsb' 0 48).extractLsb' 0 2 ≠ (0 : BitVec 2) ∧
    ((Obl.rs w0 g0 63).extractLsb' 0 48).extractLsb' 0 2 ≠ (0 : BitVec 2) ∧
    Obl.handlerOk g0 e0.mask e0.mask 4 (c0.next + 4) ∧ g0.inHandler = false ∧ w0.handlerOf g0 ≠ 0 :=
  ⟨ready_of rfl rfl rfl _ _ _, by decide +kernel, by decide +kernel, by decide +kernel, fun h => absurd h (by decide), by decide, by decide +kernel⟩
theorem witness_RegisterJumps_lanes : Obl.Ready (stG gJ) gJ e0 c0 .free [.v 2] [] ∧
    (∀ l, l < 32 → e0.mask.getLsbD l = true → (Obl.rv (stG gJ) gJ (.v 2) l).extractLsb' 0 2 = (0 : BitVec 2)) ∧
    e0.mask.getLsbD 1 = true ∧ (Obl.rv w0 g0 (.v 1) 1).extractLsb' 0 2 ≠ (0 : BitVec 2) ∧
    (∀ k, k < 1 → e0.mask.getLsbD k = true → (Obl.rv w0 g0 (.v 1) k).extractLsb' 0 2 = (0 : BitVec 2)) :=
  ⟨ready_of rfl rfl rfl _ _ _, by decide +kernel, by decide, by decide +kernel, by decide +kernel⟩
theorem test_jmp : frontRun (.jmp 0 4) w0 = some [⟨4, 5, 0x8000000F⟩] := by decide +kernel
theorem test_ret_misaligned : (match exec (.ret 0) w0 with | .next t => (t.gang? key0).map fun g => (g.trap, g.front) | _ => none) =
    some (some ⟨0x1004, 0x1000, 0x08, 0, true⟩, [⟨0x4000, 5, 0x8000000F⟩]) := by decide +kernel
theorem test_jmpv : frontRun (.jmpv 0 2) (stG gJ) = some [⟨0x3000, 5, 0x8000000F⟩] := by decide +kernel

theorem witness_ExitLeaves : (Obl.Ready w0 g0 e0 c0 .free [] [] ∧ g0.front = []) ∧
    Obl.Ready (stG gL) gL e0 { c0 with left := 1 } .free [] [] ∧ gL.front ≠ [] :=
  ⟨⟨ready_of rfl rfl rfl _ _ _, rfl⟩, ready_of rfl rfl rfl _ _ _, by decide⟩
theorem test_exit : (match exec (.exit 0) w0 with | .next t => some (t.gang? key0).isNone | _ => none) = some true := by decide +kernel

theorem witness_TrapWords : (Obl.Ready w0 g0 e0 c0 .free [] [] ∧ g0.inHandler = false ∧ w0.handlerOf g0 ≠ 0 ∧ w0.brkHalts g0 = false) ∧
    (Obl.Ready (stG gH) gH e0 c0 .free [] [] ∧ gH.inHandler = true) ∧
    (Obl.Ready (noHandler g0) g0 e0 c0 .free [] [] ∧ (noHandler g0).handlerOf g0 = 0) ∧
    (Obl.Ready (brkHalt g0) g0 e0 c0 .free [] [] ∧ (brkHalt g0).brkHalts g0 = true) :=
  ⟨⟨ready_of rfl rfl rfl _ _ _, by decide, by decide +kernel, by decide +kernel⟩, ⟨ready_of rfl rfl rfl _ _ _, by decide⟩,
    ⟨ready_of rfl rfl rfl _ _ _, by decide +kernel⟩, ready_of rfl rfl rfl _ _ _, by decide +kernel⟩
theorem test_trap : (match exec (.trap 0 127) w0 with | .next t => (t.gang? key0).map fun g => (g.trap, g.front) | _ => none) =
    some (some ⟨0x1004, 0x1000, 0xFF, 0, true⟩, [⟨0x4000, 5, 0x8000000F⟩]) := by decide +kernel
theorem test_brk_halts : (match exec (.brk 0 7) (brkHalt g0) with | .next t => (t.gang? key0).map fun g => (g.hd.kind, g.trap, g.front) | _ => none) =
    some (4, some ⟨0x1004, 0x1000, 0x0F, 7, true⟩, [⟨0x1008, 5, 0x8000000F⟩]) := by decide +kernel

theorem witness_RettReturns : (Obl.Ready (stG gH) gH e0 c0 .free [] [] ∧ gH.trap = some trap0 ∧ trap0.inHandler = true ∧
      resumePoint trap0 = some 0x1008) ∧
    (let g := { gH with trap := some { trap0 with cause := 4 } }
     Obl.Ready (stG g) g e0 c0 .free [] [] ∧ resumePoint { trap0 with cause := 4 } = none) ∧
    (Obl.Ready w0 g0 e0 c0 .free [] [] ∧ g0.inHandler = false ∧ w0.handlerOf g0 ≠ 0) :=
  ⟨⟨ready_of rfl rfl rfl _ _ _, rfl, rfl, by decide⟩, ⟨ready_of rfl rfl rfl _ _ _, by decide⟩, ready_of rfl rfl rfl _ _ _, by decide, by decide +kernel⟩
/-- Every clause on the resume point at the cause it names (R353). -/
theorem witness_resumePoint : ([(0x01, 0x100, some 0x1004), (0x01, 0xFF, none), (0x09, 3, some 0x1004), (0x0A, 0, some 0x1004), (0x0B, 0, some 0x1004),
    (0x0F, 9, some 0x1008), (0x80, 0, some 0x1008), (0xFF, 0, some 0x1008), (0x0C, 0, some 0x1004), (0x0C, 1, none), (0x02, 0, none), (0x08, 0, none),
    (0x0D, 0, none)] : List (Byte × Word × Option Pc)).all (fun x => resumePoint ⟨0x1004, 0x1000, x.1, x.2.1, true⟩ == x.2.2) = true := by decide +kernel
theorem test_rett : (match exec (.rett 0) (stG gH) with | .next t => (t.gang? key0).map fun g => (g.trap, g.front) | _ => none) =
    some (some { trap0 with inHandler := false }, [⟨0x1008, 5, 0x8000000F⟩]) := by decide +kernel

/-- A gang of a matrix role may not issue a vector word; in a handler, p1 splits the entry. -/
def gM : Gang := { g0 with role := .matrix }
theorem witness_IllegalHere : (Obl.branch (Obl.rp (stG gH) gH) e0.mask (.bp 0 1 5 7) = some (5, 7, [.p 1], [], 1) ∧
      Obl.Ready (stG gH) gH e0 c0 .free [.p 1] [] ∧ gH.inHandler = true ∧ (1 : Mask) ≠ 0 ∧ (1 : Mask) ≠ e0.mask) ∧
    (Instr.cls? (.vlane 0 9) = some .vec ∧ (stG gM).issuing = some (gM, e0, c0) ∧ roleAllows gM.role (Obl.groupOf (.vlane 0 9) .vec) = false ∧
      gM.inHandler = false ∧ (stG gM).handlerOf gM ≠ 0) :=
  ⟨⟨by decide +kernel, ready_of rfl rfl rfl _ _ _, by decide, by decide, by decide⟩, rfl, rfl, by decide, by decide, by decide +kernel⟩

theorem witness_YieldAndFork : (∀ i ∈ ([(.yieldAll 0 none 1, false, false), (.yieldAny 0 (some 63) 0, true, false), (.yieldAt 0 (some 0) 0x8000, false, true)] :
      List (Instr × Bool × Bool)), wellFormed i.1 = true) ∧
    Obl.Ready w0 g0 e0 c0 .free [.p 1] [] ∧ checks w0 g0 = false ∧ g0.inHandler = false ∧ e0.mask &&& Obl.rp w0 g0 1 ≠ 0 ∧
    e0.mask &&& Obl.rp w0 g0 1 ≠ e0.mask ∧ w0.freeIndex g0.crewKey = some 0 ∧ e0.mask &&& Obl.rp w0 g0 0 = e0.mask :=
  ⟨by decide, ready_of rfl rfl rfl _ _ _, by decide +kernel, by decide, by decide +kernel, by decide +kernel, by decide +kernel, by decide +kernel⟩
theorem test_yieldAt : (match exec (.yieldAt 0 (some 12) 0x0004) w0 with
    | .next t => (t.gang? key0).map fun g => (g.hd.wake, g.hd.tmask, g.hd.floor, g.hd.wtick) | _ => none) = some (1, 4, true, 12) := by decide +kernel
theorem test_fork : (match exec (.fork 0 1 5 7) w0 with
    | .next t => (t.gang? { key0 with gang := 0 }).map fun g => (g.front, (g.v[(5 : VReg)])[(31 : Fin 32)]) | _ => none) = some ([⟨0x1018, 7, 1⟩], 5031) ∧
    frontRun (.fork 0 1 5 7) w0 = some [⟨0x1008, 5, 0x8000000E⟩] := by decide +kernel

/-! ## Encodings, the step, reset, arithmetic -/

/-- One well-formed instruction of each class. -/
theorem witness_DecodeEncode : ∀ x ∈ ([(.live 0 2, .ctl), (.sadd 0 3 1 2, .uni), (.vli 3 191 0xFFFFFFFF, .vec), (.ld 0 op0, .mem), (.qntScale 0 10 (.v 8) 11 3, .mtx),
    (.tsort 0 10 1 4, .syn)] : List (Instr × Cls)), wellFormed x.1 = true ∧ x.1.cls? = some x.2 := by decide
theorem witness_EncodeDecode : (0xE1010405 : Nat) < 2 ^ 32 ∧ (0x20000 : Nat) < 2 ^ 32 ∧
    decode .vec 0xE1010405 0x20000 = some (.fcmp 3 1 (.v 4) (.v 5) .lt) := by decide
/-- R41: the first unassigned opcode of each class, and the last opcode; a header of class VEC over such a word. -/
theorem witness_UnassignedOpcodes : (∀ x ∈ ([(.ctl, 0x18000000), (.ctl, 0x3F000000), (.uni, 0x1B000000), (.vec, 0x3E000000), (.mem, 0x1E000000), (.mtx, 0x0D000000),
    (.syn, 0x20000000), (.syn, 0x3F000000)] : List (Cls × Nat)), Obl.unassigned x.1 (fOP x.2) = true) ∧
    cls? (hCls 0x14000000) = some .vec ∧ 0 < hN 0x14000000 := by decide
/-- The last assigned opcode of each class is none of them. -/
theorem test_assigned : ∀ x ∈ ([(.ctl, 0x17000000), (.uni, 0x1A000000), (.vec, 0x3D000000), (.mem, 0x1D000000), (.mtx, 0x0C000000), (.syn, 0x1F000000)] :
    List (Cls × Nat)), Obl.unassigned x.1 (fOP x.2) = false := by decide

/-- The small state with words in the instruction cache of core 2 from 0x1000. -/
def stW (g : Gang) (ws : List Word) : State :=
  let s := stG g
  s.setCore 2 { s.core 2 with icache := [⟨7, 0x1000, ws ++ List.replicate (32 - ws.length) 0⟩] }
/-- At the header at 0x1000. -/
def gB : Gang := { g0 with sel := none, clause := none, front := [e0] }
theorem witness_StepRunsDecoded :
    (let s := stW g0 [0x22000000, 0x03030102, 0]
     s.fetcher = none ∧ s.nextGang = some g0 ∧ s.agenda.all (fun d => d.task != .ev .probePass) = true ∧ g0.clause = some c0 ∧ s.fetched g0.core g0.ctx c0.next = some 0x03030102 ∧
       s.fetched g0.core g0.ctx (c0.next + 4) = some 0 ∧ decode c0.cls 0x03030102 0 = some (.sadd 0 3 1 2)) ∧
    (let s := stW g0 [0x22000000, 0x1B000000, 0]
     s.fetcher = none ∧ s.nextGang = some g0 ∧ s.agenda.all (fun d => d.task != .ev .probePass) = true ∧ s.fetched g0.core g0.ctx c0.next = some 0x1B000000 ∧ decode c0.cls 0x1B000000 0 = none ∧
       g0.sel = some e0 ∧ s.gang? g0.key = some g0 ∧ g0.inHandler = false ∧ s.handlerOf g0 ≠ 0) ∧
    (let s := stW gB [0x12000000, 0x03030102]
     s.fetcher = none ∧ s.nextGang = some gB ∧ s.agenda.all (fun d => d.task != .ev .probePass) = true ∧ gB.clause = none) :=
  ⟨⟨rfl, rfl, by decide +kernel, rfl, rfl, rfl, rfl⟩, ⟨rfl, rfl, by decide +kernel, rfl, rfl, rfl, rfl, rfl, by decide +kernel⟩, rfl, rfl, by decide +kernel, rfl⟩
theorem test_step_sadd : (match step (stW g0 [0x22000000, 0x03030102, 0]) with
    | .next t => (t.gang? key0).map fun g => g.s[(3 : SReg)] | _ => none) = some 3 := by decide +kernel

/-- A gang of quarter 0 of the same core that waits for its probe, and the entry of that probe. -/
def gWaits : Gang := { g0 with key := ⟨1, 0, 5⟩, place := .slot 0 2, wait := true, probing := some (.ld 0 op0, 0x1004, false) }
def dWaits : Due := ⟨0, 3, .ev .probePass, { EvArg.none with key := gWaits.key }⟩
/-- Two gangs, the second of which waits for its probe, which is due. -/
def stWaits : State := { stW g0 [0x22000000, 0x03030102, 0] with agenda := [dWaits], gangs := [g0, gWaits] }
/-- The waiting probe goes first where its gang comes first, not where it comes after the one that issues. -/
theorem test_probeFirst : stWaits.probeFirst g0 = some (dWaits, []) ∧
    ({ stWaits with gangs := [g0, { gWaits with place := .slot 1 5 }] }).probeFirst g0 = none ∧
    ({ stWaits with gangs := [g0, { gWaits with place := .slot 1 3 }] }).probeFirst g0 = some (dWaits, []) := ⟨rfl, rfl, rfl⟩

/-- A waiting probe comes first; an entry is due behind one whose clock has not come, or none is due yet. -/
theorem witness_StepServesAgenda : (stWaits.fetcher = none ∧ stWaits.nextGang = some g0 ∧ stWaits.agenda = [] ++ dWaits :: [] ∧ Obl.ProbeTurn stWaits g0 dWaits) ∧
    (let x : Due := ⟨0, 3, .ev .hbmRefresh, { EvArg.none with clk := some (2, 9) }⟩
      let d : Due := ⟨0, 3, .ev .scrub, EvArg.none⟩
      let s := { State.reset with agenda := [x, d] }
      s.fetcher = none ∧ s.nextGang = none ∧ s.agenda = [x] ++ d :: [] ∧ x.arg.clk = some (2, 9) ∧ s.clock 2 < 9 ∧ d.tick ≤ s.now ∧ d.arg.clk = none) ∧
    State.reset.fetcher = none ∧ State.reset.nextGang = none ∧ (∀ d ∈ State.reset.agenda, State.reset.now < d.tick) :=
  ⟨⟨rfl, rfl, rfl, rfl, by decide, rfl, rfl, gWaits, rfl, by simp [gWaits], rfl⟩, by decide +kernel⟩

theorem witness_MemoryKept : MemoryOk State.reset ∧ ∃ t, Steps State.reset t := by
  refine ⟨ok_reset, ?_⟩
  have h : (match step State.reset with | .next _ => true | _ => false) = true := by decide +kernel
  unfold Steps
  match hs : step State.reset with
  | .next t => exact ⟨t, rfl⟩
  | .fault r => rw [hs] at h; cases h
  | .refused r => rw [hs] at h; cases h

theorem witness_RoundingModes : 0 < 1 ∧ 0 < (3 : Nat) := by decide
/-- R133 by hand: 5/2 and 7/2 to integers, in each mode. -/
theorem test_rounding : [Round.rn, .rna, .rz, .rm, .rp].map (fun m => (roundAt m false 5 2 0 0, roundAt m true 5 2 0 0, roundAt m false 7 2 0 0)) =
    [(2, 2, 4), (3, 3, 4), (2, 2, 3), (2, 3, 3), (3, 2, 4)] := by decide
theorem witness_SpecialValues : (∀ n ∈ [0x7F800001, 0x7FC00000, 0xFF800001, 0xFFFFFFFF], Fmt.f32.decode (BitVec.ofNat 32 n).toNat = .nan) ∧
    (∀ n ∈ [0x80000001, 0xFF7FFFFF], 0x80000000 < (BitVec.ofNat 32 n).toNat ∧ (BitVec.ofNat 32 n).toNat < 0xFF800000) := by decide +kernel

/-! ## Time, counters, objects in scratchpad, queues -/

theorem witness_TimeReads : (∀ i ∈ ([.tnow 0 9, .tget 0 9 0, .trep 0 9, .sreg 0 9 6, .sreg 0 9 7] : List Instr),
      ∃ d v, Obl.timeRead w0 g0 i = some (d, v) ∧ Obl.Ready w0 g0 e0 c0 .free [] [.s d]) ∧
    Obl.Ready w0 g0 e0 c0 .free [] [.s 9] := by
  refine ⟨?_, ready_of rfl rfl rfl _ _ _⟩
  intro i hi
  simp only [List.mem_cons, List.not_mem_nil, or_false] at hi
  rcases hi with h | h | h | h | h <;> subst h <;> exact ⟨_, _, rfl, ready_of rfl rfl rfl _ _ _⟩
/-- With a slice: budget, deadline, energy and the number of crews; the checking scoreboard is off. -/
def slice0 : Slice := { probeSlice with id := 1, ctx := 7, budget := 100, limited := true, count := 40, deadline := 77, accShown := 5 }
def stS (g : Gang) : State := { stG g with slices := [slice0] }
theorem witness_TimeReads_slice : ∀ i ∈ ([.bgt 0 9, .dline 0 9, .ergr 0 9, .sreg 0 9 10] : List Instr),
    ∃ d v, Obl.timeRead (stS g0) g0 i = some (d, v) ∧ Obl.Ready (stS g0) g0 e0 c0 .free [] [.s d] := by
  intro i hi
  simp only [List.mem_cons, List.not_mem_nil, or_false] at hi
  rcases hi with h | h | h | h <;> subst h <;> exact ⟨_, _, rfl, ready_at rfl rfl (by decide +kernel) (by decide +kernel) _ _ _⟩
def sRun (i : Instr) (s : State) : Option DWord :=
  match exec i s with | .next t => (t.gang? key0).map fun g => g.s[(9 : SReg)] | _ => none
/-- By hand from R73, R77, R108, R347: core 2, crew index 4, context 7, slot 4 of quarter 1. -/
theorem test_time_reads : ∀ x ∈ ([(.sreg 0 9 1, stG g0, 2), (.sreg 0 9 2, stG g0, 1), (.sreg 0 9 3, stG g0, 4), (.sreg 0 9 4, stG g0, 4), (.sreg 0 9 6, stG g0, 7),
    (.bgt 0 9, stS g0, 60), (.dline 0 9, stS g0, 77), (.ergr 0 9, stS g0, 5), (.tget 0 9 1, stG gT, 0x8000000000000064), (.tnow 0 9, stG g0, 0),
    (.tsort 0 9 0 3, stG gT, 0x2103)] : List (Instr × State × DWord)), sRun x.1 x.2.1 = some x.2.2 := by decide +kernel

/-- A scalar with a HELD value of class 5, of class 6, and a PROMISED one. -/
def gV : Gang := { gT with s := ((s0.set 1 0xC512345600000099).set 2 0xC600000000000000).set 4 0x4000000000000032 }
theorem witness_TimeWrites : (∀ i ∈ ([.tset 0 3 1, .tset 0 3 4, .tmin 0 3 0 1, .tmax 0 15 0 2, .tadd 0 3 0 1 0xFFFF] : List Instr), ∃ d as v,
      Obl.timeWrite (BitVec.ofNat 56 (stG gV).now) (Obl.rs (stG gV) gV) (fun n => gV.t[n].val) i = some (d, as, v) ∧
      Obl.Ready (stG gV) gV e0 c0 .free (as.map .s) []) ∧
    Obl.timeWrite (BitVec.ofNat 56 (stG gV).now) (Obl.rs (stG gV) gV) (fun n => gV.t[n].val) (.tset 0 3 2) = none ∧
    gV.inHandler = false ∧ (stG gV).handlerOf gV ≠ 0 := by
  refine ⟨?_, by decide +kernel, by decide, by decide +kernel⟩
  have h : ∀ i ∈ ([.tset 0 3 1, .tset 0 3 4, .tmin 0 3 0 1, .tmax 0 15 0 2, .tadd 0 3 0 1 0xFFFF] : List Instr),
    (Obl.timeWrite (BitVec.ofNat 56 (stG gV).now) (Obl.rs (stG gV) gV) (fun n => gV.t[n].val) i).isSome = true := by decide +kernel
  intro i hi
  obtain ⟨⟨d, as, v⟩, hx⟩ := Option.isSome_iff_exists.mp (h i hi)
  exact ⟨d, as, v, hx, ready_of rfl rfl rfl _ _ _⟩
def tRun (i : Instr) : Option DWord :=
  match exec i (stG gV) with | .next t => (t.gang? key0).map fun g => g.t[(3 : TReg)].val | _ => none
/-- By hand from R74 to R76 and R78: a HELD value keeps class and ticket; SETTLED ranks below PROMISED; `tadd` of a SETTLED register
makes a promise. -/
theorem test_time_writes : ∀ x ∈ ([(.tset 0 3 1, 0xC500000000000099), (.tset 0 3 4, 0x4000000000000032), (.tmin 0 3 0 5, 0), (.tmax 0 3 0 2, 0xC400000000000007),
    (.tadd 0 3 0 63 1, 0x40000000000000A4), (.tadd 0 3 5 63 1, 0x4000000000000040), (.tadd 0 3 2 63 1, 0xC400000000000007), (.tclr 0 0 3, 0)] :
    List (Instr × DWord)), tRun x.1 = some x.2 := by decide +kernel

/-- s1 selects event 0x60 for quarter 0; s2 has a bit above 20 set; s4 an event code that R377 leaves out. -/
def gC : Gang := { g0 with s := ((s0.set 1 0x60).set 2 0x200000).set 4 0x15 }
theorem witness_Counters : (∀ i ∈ ([.ctrcSet 0 3 1 5, .ctrcClr 0 15, .ctrcStop 0 3, .ctrcStart 0 3] : List Instr), ∃ d as, Obl.counterWord i = some (d, as) ∧
      Obl.Ready (stG gC) gC e0 c0 .free (as.map .s) []) ∧
    ((Obl.rs (stG gC) gC 1).extractLsb' 21 43 = (0 : BitVec 43) ∧ ((Obl.rs (stG gC) gC 1).extractLsb' 0 16).toNat ∈ Obl.assignedEvents) ∧
    (Obl.rs (stG gC) gC 2).extractLsb' 21 43 ≠ (0 : BitVec 43) ∧ ((Obl.rs (stG gC) gC 4).extractLsb' 0 16).toNat ∉ Obl.assignedEvents ∧
    gC.inHandler = false ∧ (stG gC).handlerOf gC ≠ 0 := by
  refine ⟨?_, by decide +kernel⟩
  intro i hi
  simp only [List.mem_cons, List.not_mem_nil, or_false] at hi
  rcases hi with h | h | h | h <;> subst h <;> exact ⟨_, _, rfl, ready_of rfl rfl rfl _ _ _⟩
theorem test_ctrcSet : (match exec (.ctrcSet 0 3 1 5) (stG gC) with | .next t => some (((t.cc 2).ev[(3 : EvReg)]).sel, ((t.cc 2).ev[(3 : EvReg)]).count, ((t.cc 2).ev[(3 : EvReg)]).run) | _ => none) =
    some (0x60, 5, true) := by decide +kernel
theorem test_ctrcSet_reserved : (match exec (.ctrcSet 0 3 2 5) (stG gC) with | .next t => (t.gang? key0).map fun g => g.trap.map (·.cause) | _ => none) =
    some (some 1) := by decide +kernel

/-- The trace ring of core 2: off; on with 2^4 entries at 0x10000; full. -/
def stTrace (ctl : DWord) (writes read : Word) : State :=
  let s := stG g0
  s.setCc 2 { s.cc 2 with trc := ⟨0x10000, ctl, writes, 0, read, 0⟩ }
theorem witness_Marks : ∀ x ∈ ([(0, 0, 0), (4 * 2 ^ 43, 16, 0), (4 * 2 ^ 43, 16, 1), (4 * 2 ^ 43, 0, 0)] : List (Nat × Nat × Nat)),
    let s := stTrace (BitVec.ofNat 64 x.1) (BitVec.ofNat 32 x.2.1) (BitVec.ofNat 32 x.2.2)
    MemoryOk s ∧ Obl.Ready s g0 e0 c0 .free [.s 5] [] ∧ s.crew? g0.crewKey = some crew0 := by
  intro x _
  exact ⟨ok_setCc 2 _ (ok_st g0 crew0), ready_of rfl rfl rfl _ _ _, rfl⟩
theorem test_smark : (match exec (.smark 0 5 0x99) (stTrace 0x0000200000000000 0 0) with | .next t => some (memDWord t.mem 0x10000, memDWord t.mem 0x10018, (t.cc 2).trc.writes) | _ => none) =
    some (0x0199030004000001, 5, 1) := by decide +kernel

/-- The partition's objects: the bytes of core 2's scratchpad given as doublewords, rings that are active. -/
def stO (g : Gang) (xs : List (Nat × Nat)) (rings : List RingEnt) : State :=
  let s := (stG g).setCore 2 { core0 with spad := cells xs, cc := { CoreCtx.reset with rings := rings } }
  s.setArg { EvArg.none with key := key0 }
/-- The gang that waits for the pass of its word. -/
def gP (i : Instr) (o : DWord) : Gang := { g0 with wait := true, probing := some (i, 0x1004, false), opnd := o, clause := some { c0 with next := 0x1008 } }
theorem inPass (i : Instr) (o : DWord) (xs : List (Nat × Nat)) (rings : List RingEnt) :
    Obl.InPass (stO (gP i o) xs rings) (gP i o) e0 { c0 with next := 0x1008 } crew0 i 0x1004 :=
  ⟨⟨rfl, rfl, rfl, rfl, by decide, rfl, rfl, rfl⟩, 0, rfl, Nat.le_refl 0⟩
theorem ok_stO (g : Gang) {xs : List (Nat × Nat)} (rings : List RingEnt) (h : Memory.wf (cells xs) = true) : MemoryOk (stO g xs rings) :=
  ok_setCore (s := stG g) 2 { core0 with spad := cells xs, cc := { CoreCtx.reset with rings := rings } } (ok_st g crew0) h

/-- Issue: each word with its operand in range; s16 = 16, s32 = 32. -/
theorem witness_BarrierWords : ∀ i ∈ ([.barInit 0 3 16 31, .barArrive 0 3, .barThen 0 3 4, .barBytes 0 3 5, .barPhase 0 9 0] : List Instr), ∃ o rd wr d,
    Obl.objectWord i = some (o, rd, wr, some d) ∧ Obl.Ready w0 g0 e0 c0 .free rd wr ∧ w0.crew? g0.crewKey = some crew0 ∧ d.val < crew0.bars ∧
    Obl.objectFits (match o with | some a => Obl.rs w0 g0 a | none => 0) g0 crew0 i ∧ (w0.crewFloor g0).isSome = true := by
  intro i hi
  simp only [List.mem_cons, List.not_mem_nil, or_false] at hi
  rcases hi with h | h | h | h | h <;> subst h <;>
    refine ⟨_, _, _, _, rfl, ready_of rfl rfl rfl _ _ _, rfl, by decide, ?_, rfl⟩
  · exact ⟨by decide +kernel, by decide +kernel⟩
  · exact (by decide +kernel : (16 : Nat) * 3 + 16 ≤ 8192)
  · exact ⟨rfl, (by decide +kernel : (16 : Nat) * 3 + 16 ≤ 8192)⟩
  · exact (by decide +kernel : (16 : Nat) * 3 + 16 ≤ 8192)
  · exact (by decide +kernel : (16 : Nat) * 0 + 16 ≤ 8192)
/-- The pass: slot 1 lies at 0x1010 of the core's scratchpad, EXPECT in bits 63 to 58 of its second doubleword. Idle or with an arrival; one of
two arrivals; the second; the gang's own arrival again; all arrivals made; registrations that wait. -/
theorem witness_BarrierWords_pass : (∀ x ∈ ([(.barInit 0 1 16 1, 16, []), (.barInit 0 1 16 1, 16, [(0x1010, 1)]), (.barArrive 0 1, 0, [(0x1018, 2 * 2 ^ 58)]),
      (.barArrive 0 1, 0, [(0x1010, 1), (0x1018, 2 * 2 ^ 58)]), (.barArrive 0 1, 0, [(0x1010, 8), (0x1018, 2 * 2 ^ 58)]), (.barThen 0 1 4, 0, [(0x1018, 2 * 2 ^ 58)]),
      (.barThen 0 1 4, 0, [(0x1018, 2 ^ 58)]), (.barBytes 0 1 5, 0xFFFFFFFF, []), (.barPhase 0 9 1, 0, [(0x1010, 7 * 2 ^ 32)])] : List (Instr × DWord × List (Nat × Nat))),
      MemoryOk (stO (gP x.1 x.2.1) x.2.2 []) ∧ Obl.InPass (stO (gP x.1 x.2.1) x.2.2 []) (gP x.1 x.2.1) e0 { c0 with next := 0x1008 } crew0 x.1 0x1004) ∧
    Obl.objectFits 16 g0 crew0 (.barInit 0 1 16 1) ∧ (16 : Nat) * 1 + 16 ≤ crew0.partLen := by
  refine ⟨fun x hx => ⟨ok_stO _ _ ?_, inPass _ _ _ _⟩, ⟨by decide, by decide⟩, by decide⟩
  revert x; decide +kernel
def passRun (i : Instr) (o : DWord) (xs : List (Nat × Nat)) (rings : List RingEnt) (a : Nat) : Option (DWord × DWord × Option (Option TrapBlk)) :=
  match exec .probePass (stO (gP i o) xs rings) with
  | .next t => some (memDWord (t.core 2).spad a, memDWord (t.core 2).spad (a + 8), (t.gang? key0).map (·.trap))
  | _ => none
/-- R196 to R200 by hand: gang 3 sets bit 3 of AMASK; the last arrival ends the phase; an arrival twice is an object misuse. -/
theorem test_barrier : passRun (.barArrive 0 1) 0 [(0x1018, 2 * 2 ^ 58)] [] 0x1010 = some (8, 0x0800000000000000, some none) ∧
    passRun (.barArrive 0 1) 0 [(0x1010, 5 * 2 ^ 32 + 1), (0x1018, 2 * 2 ^ 58)] [] 0x1010 = some (0x0000000600000000, 0x0800000000000000, some none) ∧
    passRun (.barArrive 0 1) 0 [(0x1010, 8), (0x1018, 2 * 2 ^ 58)] [] 0x1010 = some (8, 0x0800000000000000, some (some ⟨0x1004, 0x1000, 0x0D, 1, true⟩)) ∧
    passRun (.barInit 0 1 16 1) 32 [] [] 0x1020 = some (0, 0x0800000000000000, some none) ∧
    passRun (.barBytes 0 1 5) 0x40 [] [] 0x1010 = some (0, 0x0000000400000000, some none) := by
  refine ⟨?_, ?_, ?_, ?_, ?_⟩ <;> decide +kernel
theorem test_barThen : passRun (.barThen 0 1 4) 0 [(0x1018, 2 * 2 ^ 58)] [] 0x1010 = some (8, 0x0800000000000000, none) := by decide +kernel

/-- `bar.wait`: the record of the gang at its pass, which has arrived or not. -/
def gW : Gang := { gP (.barWait 0 1) 0 with sel := none, clause := none, front := [{ e0 with pc := 0x1008 }], place := .store, hd := { Rec.reset with wake := 3, object := 1 } }
theorem witness_barWait : (Obl.Ready w0 g0 e0 c0 .free [] [] ∧ w0.crew? g0.crewKey = some crew0 ∧ (3 : BReg).val < crew0.bars ∧ (16 : Nat) * 3 + 16 ≤ crew0.partLen) ∧
    ∀ m ∈ [0, 8], let u := stO gW [(0x1010, m)] []
      u.gang? u.arg.key = some gW ∧ gW.key = u.arg.key ∧ gW.probing = some (.barWait 0 1, 0x1004, false) ∧ gW.parked = true ∧ gW.front ≠ [] ∧ gW.hd.key = none ∧
      gW.hd.kind = 1 ∧ gW.sel = none ∧ gW.clause = none ∧ u.crew? gW.crewKey = some crew0 ∧ (∃ k, u.crewFloor gW = some k ∧ k ≤ u.now) := by
  refine ⟨⟨ready_of rfl rfl rfl _ _ _, rfl, by decide, by decide⟩, fun m _ => ?_⟩
  exact ⟨rfl, rfl, rfl, rfl, by decide, rfl, rfl, rfl, rfl, rfl, 0, rfl, Nat.le_refl 0⟩
theorem test_barWait : (match exec (.barWait 0 1) w0 with | .next t => (t.gang? key0).map fun g => (g.hd.wake, g.hd.object, g.front) | _ => none) =
    some (3, 1, [⟨0x1008, 5, 0x8000000F⟩]) ∧
    (match exec .probePass (stO gW [(0x1010, 5 * 2 ^ 32)] []) with | .next t => (t.gang? key0).map fun g => (g.hd.arg, g.hd.key.isSome) | _ => none) = some (4, true) ∧
    (match exec .probePass (stO gW [(0x1010, 5 * 2 ^ 32 + 8)] []) with | .next t => (t.gang? key0).map fun g => (g.hd.arg, g.hd.key.isSome) | _ => none) = some (5, false) := by
  decide +kernel

/-- A ring of two slots of 128 bytes at offset 64, number 5: empty; with a full slot; fully claimed. -/
def ring0 (full fills claims rels : Nat) : List (Nat × Nat) :=
  [(0x1040, 128 * 2 ^ 32 + 256), (0x1048, full), (0x1050, fills * 2 ^ 32 + claims), (0x1058, rels * 2 ^ 32 + 2 * 2 ^ 24 + 5)]
def ent0 : List RingEnt := [⟨5, ⟨1, 0⟩, 64⟩]
def ringForms : List Instr := [.ringInit 0 9 24 1 true 1, .ringFill 0 24, .ringAwait 0 9 24, .ringRelease 0 24, .ringState 0 9 24]
theorem witness_RingWords : ∀ i ∈ ringForms, ∃ o rd wr, Obl.objectWord i = some (o, rd, wr, none) ∧ wellFormed i = true ∧
    Obl.Ready (stG { g0 with s := s0.set 24 0x0000010000000040 }) { g0 with s := s0.set 24 0x0000010000000040 } e0 c0 .free rd wr ∧
    Obl.objectFits 0x0000010000000040 g0 crew0 i := by
  intro i hi
  simp only [ringForms, List.mem_cons, List.not_mem_nil, or_false] at hi
  rcases hi with h | h | h | h | h <;> subst h <;>
    refine ⟨_, _, _, rfl, by decide, ready_of rfl rfl rfl _ _ _, ?_⟩
  · exact ⟨by decide, by decide, by decide, by decide⟩
  all_goals trivial
/-- The passes: no ring there, a ring with FULL, FILLS, CLAIMS and RELEASES as given. -/
theorem witness_RingWords_pass : ∀ i ∈ ringForms, (let u := stO (gP i 0x0000010000000040) [] []
      MemoryOk u ∧ Obl.InPass u (gP i 0x0000010000000040) e0 { c0 with next := 0x1008 } crew0 i 0x1004 ∧ u.ringAt crew0 64 = none) ∧
    ∀ x ∈ ([(0, 0, 0, 0), (1, 1, 0, 0), (3, 2, 2, 0), (1, 1, 1, 0)] : List (Nat × Nat × Nat × Nat)),
      let u := stO (gP i 0x0000010000000040) (ring0 x.1 x.2.1 x.2.2.1 x.2.2.2) ent0
      MemoryOk u ∧ Obl.InPass u (gP i 0x0000010000000040) e0 { c0 with next := 0x1008 } crew0 i 0x1004 ∧ u.ringAt crew0 64 = some ⟨5, ⟨1, 0⟩, 64⟩ ∧
        0 < (u.ring crew0 64).count := by
  intro i _
  refine ⟨⟨ok_stO _ _ rfl, inPass _ _ _ _, rfl⟩, fun x hx => ⟨ok_stO _ _ ?_, inPass _ _ _ _, rfl, ?_⟩⟩
  · revert x; decide +kernel
  · show 0 < ((stO g0 (ring0 x.1 x.2.1 x.2.2.1 x.2.2.2) ent0).ring crew0 64).count
    revert x; decide +kernel
/-- R205 to R211 by hand. -/
theorem test_rings : passRun (.ringFill 0 24) 64 (ring0 0 0 0 0) ent0 0x1048 = some (1, 0x0000000100000000, some none) ∧
    passRun (.ringFill 0 24) 64 (ring0 1 2 0 0) ent0 0x1050 = some (0x0000000200000000, 0x0000000002000205, some none) ∧
    passRun (.ringAwait 0 9 24) 64 (ring0 1 1 0 0) ent0 0x1048 = some (1, 0x0000000100000001, some none) ∧
    passRun (.ringAwait 0 9 24) 64 (ring0 3 2 2 0) ent0 0x1048 = some (3, 0x0000000200000002, some (some ⟨0x1004, 0x1000, 0x0D, 5, true⟩)) ∧
    passRun (.ringRelease 0 24) 64 (ring0 1 1 1 0) ent0 0x1048 = some (0, 0x0000000100000001, some none) ∧
    passRun (.ringRelease 0 24) 64 [] [] 0x1048 = some (0, 0, some (some ⟨0x1004, 0x1000, 0x04, 64, true⟩)) := by
  refine ⟨?_, ?_, ?_, ?_, ?_, ?_⟩ <;> decide +kernel
theorem test_ringState : (match exec .probePass (stO (gP (.ringState 0 9 24) 64) (ring0 1 1 3 2) ent0) with
    | .next t => (t.gang? key0).map fun g => g.s[(9 : SReg)] | _ => none) = some 0x00010101 := by decide +kernel
theorem test_ringInit : (match exec .probePass (stO (gP (.ringInit 0 9 24 1 true 1) 0x0000010000000040) [] []) with
    | .next t => some (memDWord (t.core 2).spad 0x1040, memDWord (t.core 2).spad 0x1058, (t.cc 2).rings) | _ => none) =
    some (0x0000008000000100, 0x0000000002000100, [⟨0, ⟨1, 0⟩, 64⟩]) := by decide +kernel

/-- The gang has monitor 9, whose HIT is set or clear; or none. -/
def stMon (hit : Bool) : State := let s := stG g0; s.setCc 2 { s.cc 2 with mons := [⟨9, key0, 0x600000, 4, true, hit⟩] }
theorem witness_MonitorWait : (∀ hit, Obl.Ready (stMon hit) g0 e0 c0 .free [] [] ∧
      ((stMon hit).cc g0.core).mons.find? (fun m => m.gang = g0.key) = some ⟨9, key0, 0x600000, 4, true, hit⟩) ∧ g0.resident = true ∧
    Obl.Ready w0 g0 e0 c0 .free [] [] ∧ (∀ m ∈ (w0.cc g0.core).mons, m.gang ≠ g0.key) ∧ g0.inHandler = false ∧ w0.handlerOf g0 ≠ 0 :=
  ⟨fun hit => ⟨ready_of rfl rfl rfl _ _ _, by cases hit <;> rfl⟩, rfl, ready_of rfl rfl rfl _ _ _, by decide +kernel, by decide, by decide +kernel⟩
theorem test_mwait : (match exec (.mwait 0 20000) (stMon true) with | .next t => (t.gang? key0).map fun g => (g.hd.wake, g.hd.object, g.hd.wtick, g.hd.key.isSome) | _ => none) =
    some (5, 9, 20000, true) := by decide +kernel

theorem witness_QueueWords : (∀ i ∈ ([.qbindPin 0 1, .qbind 0 1, .qpush 0 20 1 9, .qpop 0 21 1 6, .qpeek 0 21 1 2, .qlen 0 11 1] : List Instr),
      ∃ a rd wr tr op takes, Obl.queueWord (fun d l => Obl.rv w0 g0 (.v d) l) i = some (a, rd, wr, tr, op, takes) ∧ Obl.Ready w0 g0 e0 c0 .free rd wr ∧
        (∃ x, w0.ctx? g0.ctx = some x ∧ ∃ d, w0.usableQueue x ((Obl.rs w0 g0 a).extractLsb' 0 16) = some d ∧ (takes && d.dispatch) = false) ∧
        w0.promisesUsed g0.core < 1024) ∧
    (∃ x, w0.ctx? g0.ctx = some x ∧ w0.usableQueue x 4 = none ∧ w0.usableQueue x 16 = none ∧ ∃ d, w0.usableQueue x 2 = some d ∧ (true && d.dispatch) = true) := by
  refine ⟨?_, _, rfl, by decide +kernel, by decide +kernel, _, rfl, by decide +kernel⟩
  intro i hi
  simp only [List.mem_cons, List.not_mem_nil, or_false] at hi
  rcases hi with h | h | h | h | h | h <;> subst h <;>
    exact ⟨_, _, _, _, _, _, rfl, ready_of rfl rfl rfl _ _ _, ⟨_, rfl, _, rfl, by decide +kernel⟩, by decide⟩
theorem test_qpush : (match exec (.qpush 0 20 1 9) w0 with | .next t => t.reqs.map fun r => (r.effect, r.treg, r.pc) | _ => []) =
    [(.queue (.push #v[20000, 20001, 20002, 20003, 20004, 20005, 20006, 20007]) 1, 9, 0x1004)] := by decide +kernel
theorem test_qpop_dispatch : (match exec (.qpop 0 21 2 6) w0 with | .next t => (t.gang? key0).map fun g => g.trap.map fun b => (b.cause, b.info) | _ => none) =
    some (some (5, 2)) := by decide +kernel

/-! ## Memory port, scratchpad, copies -/

/-- Lane l of v1 holds 16 l, of v2 4080 + l, of v3 4096; s20 to s25 hold offsets. -/
def gD : Gang :=
  { g0 with v := ((g0.v.set 1 (Vector.ofFn fun l => BitVec.ofNat 32 (16 * l.val))).set 2 (Vector.ofFn fun l => BitVec.ofNat 32 (4080 + l.val))).set 3
              (Vector.replicate 32 4096)
            s := ((((s0.set 20 4092).set 21 4093).set 22 0xFFFFFFFF).set 23 8188).set 24 8190 }
def stD : State := stG gD
theorem readyD (kind : WordKind) (rd wr : List RegRef) : Obl.Ready stD gD e0 c0 kind rd wr := ready_of rfl rfl rfl _ _ _
/-- A vector word at the offsets of v1 through handle 1, following t4. -/
def mD : MemOp := ⟨.v 8, .v 1, 5, .b32, 1, true, 4, .dev, .plain, 0⟩
def deviceForms : List Instr := [.ld 0 mD, .st 0 mD, .atomAdd 0 mD, .atomMin 0 mD, .atomMax 0 mD, .atomAnd 0 mD, .atomOr 0 mD, .atomXor 0 mD, .atomXchg 0 mD,
  .atomCas 0 mD, .atomInc 0 mD, .atomFadd 0 mD, .redAdd 0 mD, .redMin 0 mD, .redMax 0 mD, .redFadd 0 mD, .ld 0 { mD with w := .b128, sem := .acq },
  .st 0 { mD with data := .s 4, off := .s 20, w := .i8, imm := 0x3FFF }]
def rec1 : Vector DWord 8 := #v[0x200000, 0x1000, 0x0078700000000001, 0, 0, 0, 0, 0]
theorem granted1 : ∀ x ∈ ([(mD, .read, false), (mD, .write, true), (mD, .atomic, false), (mD, .atomic, true), ({ mD with w := .b128, sem := .acq }, .read, false),
    ({ mD with data := .s 4, off := .s 20, w := .i8, imm := 0x3FFF }, .write, true)] : List (MemOp × Need × Bool)),
    Obl.Granted stD gD ctx0 (Obl.handleOf stD gD x.1) x.2.1 x.2.2 (Obl.accessesOf stD gD x.1 e0) rec1 := by
  intro x hx
  simp only [List.mem_cons, List.not_mem_nil, or_false] at hx
  rcases hx with h | h | h | h | h | h <;> subst h <;>
    exact ⟨by decide +kernel, by decide +kernel, by decide +kernel, by decide +kernel, by decide +kernel, by decide +kernel, rfl, by decide +kernel,
      by decide +kernel⟩
/-- O-DeviceAccess, O-DeviceFrame: every form meets the hypotheses, with the stack ready and not ready. -/
theorem witness_DeviceAccess : (∀ i ∈ deviceForms, ∃ m need eff rd wr, Obl.deviceWord i = some (m, need, eff, rd, wr) ∧ Obl.DeviceReady stD gD e0 c0 m rd wr ∧
      stD.ctx? gD.ctx = some ctx0 ∧ Obl.Granted stD gD ctx0 (Obl.handleOf stD gD m) need (Obl.entersQueue eff) (Obl.accessesOf stD gD m e0) rec1) ∧
    stD.bufReady rec1 = true ∧ ({ stD with sys := State.reset.sys }).bufReady rec1 = false := by
  refine ⟨?_, by decide +kernel, by decide +kernel⟩
  intro i hi
  simp only [deviceForms, List.mem_cons, List.not_mem_nil, or_false] at hi
  rcases hi with h | h | h | h | h | h | h | h | h | h | h | h | h | h | h | h | h | h <;> subst h <;>
    exact ⟨_, _, _, _, _, rfl, ⟨readyD _ _ _, by decide, by decide⟩, rfl, granted1 (_, _, _) (by decide)⟩
theorem witness_DeviceFrame : ∀ i ∈ ([.ld 0 mD, .st 0 mD, .atomCas 0 mD, .redFadd 0 mD] : List Instr), ∃ t, exec i stD = .next t := by
  have h : ∀ i ∈ ([.ld 0 mD, .st 0 mD, .atomCas 0 mD, .redFadd 0 mD] : List Instr), (match exec i stD with | .next _ => true | _ => false) = true := by
    decide +kernel
  intro i hi
  have := h i hi
  match hx : exec i stD with
  | .next t => exact ⟨t, rfl⟩
  | .fault r => rw [hx] at this; cases this
  | .refused r => rw [hx] at this; cases this
def reqRun (i : Instr) : List (Nat × Mask × TReg × List (Nat × Nat × List Byte)) :=
  match exec i stD with
  | .next t => t.reqs.map fun r => (r.line, r.mask, r.treg, r.pieces.map fun p => (p.addr, p.size, p.data))
  | _ => []
/-- R282 by hand: lanes 0 to 3 lie in the first line of the page at 0x600000, lane 31 at offset 496 in the fourth. -/
theorem test_ld : (reqRun (.ld 0 mD)).map (fun r => (r.1, r.2.1, r.2.2.1)) = [(0x600000, 0x0000000F, 5), (0x600180, 0x80000000, 5)] := by decide +kernel
theorem test_red_scalar : (reqRun (.redAdd 0 { mD with data := .s 4, off := .s 20 })).map (fun r => (r.1, r.2.2.2.map (fun p => p.2.2))) =
    [(0x600F80, [[4, 0, 0, 0]])] := by decide +kernel
theorem test_atomCas : (reqRun (.atomCas 0 { mD with off := .s 0 })).map (fun r => (r.1, r.2.2.2.map (fun p => p.2.2))) =
    [(0x600000, [[40, 35, 0, 0], [41, 35, 0, 0], [42, 35, 0, 0], [43, 35, 0, 0], [71, 35, 0, 0]])] := by decide +kernel

/-- The failing checks, each with the lane that it names: no such record, beyond the table, no right, past the end by one byte, below 0,
misaligned, an absent page. -/
def badForms : List (MemOp × Nat × Byte) := [({ mD with h := 0 }, 0, 6), ({ mD with h := 16 }, 0, 6), ({ mD with h := 3 }, 0, 5), ({ mD with off := .v 2, w := .b16 }, 31, 4),
  ({ mD with off := .s 21 }, 0, 4), ({ mD with off := .s 0, imm := 0x3FFF }, 0, 4), ({ mD with off := .v 2, imm := 0x3FE0 }, 1, 8), ({ mD with h := 4 }, 0, 7)]
theorem witness_AccessTraps : (∀ x ∈ badForms, Obl.deviceWord (.st 0 x.1) = some (x.1, .write, .store, [0], []) ∧ Obl.DeviceReady stD gD e0 c0 x.1 [0] []) ∧
    stD.ctx? gD.ctx = some ctx0 ∧ gD.inHandler = false ∧ stD.handlerOf gD ≠ 0 ∧
    (∀ h ∈ [0, 16], stD.usableRec ctx0 h = none) ∧ (∃ b, stD.usableRec ctx0 3 = some b ∧ Buf.allows b .write = false) ∧
    ((Obl.accessesOf stD gD { mD with off := .v 2, w := .b16 } e0).map (fun y => decide (y.off < 0 ∨ (Buf.length rec1 : Int) < y.off + 2)) = [false, false, false, false, true]) ∧
    ((Obl.accessesOf stD gD { mD with off := .s 0, imm := 0x3FFF } e0).map (fun y => decide (y.off < 0)) = [true, true, true, true, true]) ∧
    ((Obl.accessesOf stD gD { mD with off := .v 2, imm := 0x3FE0 } e0).map (fun y => decide (y.off % 4 ≠ 0)) = [false, true, true, true, true]) ∧
    ∃ b, stD.usableRec ctx0 4 = some b ∧ Buf.allows b .write = true ∧ Buf.pageable b = false ∧
      ∀ y ∈ Obl.accessesOf stD gD { mD with h := 4 } e0, stD.translate gD.core ctx0 (Buf.base b + y.off.toNat) = none := by
  refine ⟨?_, rfl, by decide, by decide +kernel, by decide +kernel, ⟨_, rfl, by decide +kernel⟩, by decide +kernel, by decide +kernel, by decide +kernel, _, rfl,
    by decide +kernel, by decide +kernel, by decide +kernel⟩
  intro x hx
  simp only [badForms, List.mem_cons, List.not_mem_nil, or_false] at hx
  rcases hx with h | h | h | h | h | h | h | h <;> subst h <;> exact ⟨rfl, readyD _ _ _, by decide, by decide⟩
theorem test_access_traps : ∀ x ∈ badForms, (match exec (.st 0 x.1) stD with
    | .next t => (t.gang? key0).map fun g => g.trap.map fun b => (b.cause, b.info.toNat, b.pc) | _ => none) = some (some (x.2.2, x.2.1, 0x1004)) := by decide +kernel

/-- Scratchpad words: the last four bytes of the partition, past its end, misaligned. -/
def mS : MemOp := ⟨.v 8, .v 1, 5, .b32, 0, false, 0, .crew, .plain, 0⟩
theorem witness_LanePort : (∀ i ∈ ([.lds 0 mS, .sts 0 mS, .atomsAdd 0 mS, .atomsCas 0 mS, .lds 0 { mS with off := .s 23 }] : List Instr), ∃ m eff rd wr,
      Obl.laneAccess i = some (m, eff, rd, wr) ∧ Obl.Ready stD gD e0 c0 .mem (offRefs m.off ++ Obl.groupsOf m rd) (Obl.groupsOf m wr) ∧
      groupsFit m.data m.w (rd.length + wr.length) = true ∧ stD.crew? gD.crewKey = some crew0 ∧
      (∀ y ∈ Obl.accessesOf stD gD m e0, ¬ (y.off < 0 ∨ (crew0.partLen : Int) < y.off + m.w.size) ∧ ¬ y.off % m.w.size ≠ 0) ∧ stD.promisesUsed gD.core < 1024) ∧
    (∀ y ∈ Obl.accessesOf stD gD { mS with off := .s 24 } e0, (crew0.partLen : Int) < y.off + 4) ∧
    (∀ y ∈ Obl.accessesOf stD gD { mS with off := .s 2 } e0, ¬ (y.off < 0 ∨ (crew0.partLen : Int) < y.off + 4) ∧ y.off % 4 ≠ 0) := by
  refine ⟨?_, by decide +kernel, by decide +kernel⟩
  intro i hi
  simp only [List.mem_cons, List.not_mem_nil, or_false] at hi
  rcases hi with h | h | h | h | h <;> subst h <;>
    exact ⟨_, _, _, _, rfl, readyD _ _ _, by decide, rfl, by decide +kernel, by decide⟩
theorem test_sts : (match exec (.sts 0 { mS with off := .s 23 }) stD with
    | .next t => t.reqs.map fun r => (r.line, r.pieces.map fun p => (p.lane, p.addr, p.data)) | _ => []) =
    [(4096, [(0, 8188, [64, 31, 0, 0]), (1, 8188, [65, 31, 0, 0]), (2, 8188, [66, 31, 0, 0]), (3, 8188, [67, 31, 0, 0]), (31, 8188, [95, 31, 0, 0])])] := by decide +kernel
theorem test_lds_bounds : (match exec (.lds 0 { mS with off := .s 24 }) stD with
    | .next t => (t.gang? key0).map fun g => g.trap.map fun b => (b.cause, b.info) | _ => none) = some (some (4, 0)) := by decide +kernel

/-- Offsets 1024 and 0 and two blocks in s20 to s22, 65 blocks in s23, an odd offset in s24; the widest block. -/
def gK : Gang := { g0 with s := (((((s0.set 20 1024).set 21 0).set 22 2).set 23 65).set 24 16).set 25 7680 }
def stPl (flag : Bool) : State := (stO g0 [(0x1000, 0x0123456789ABCDEF)] []).setArg { EvArg.none with key := key0, core := 2, n := 1, m := 8, flag := flag, pairs := [(0, 0x400)] }
theorem witness_PlaneWords : (∀ kind rd wr, Obl.Ready (stG gK) gK e0 c0 kind rd wr) ∧ (stG gK).crew? gK.crewKey = some crew0 ∧
    ([(20, 21, 22), (0, 21, 21), (25, 25, 1)].all fun x => (Obl.rs (stG gK) gK x.1).toNat % 32 = 0 ∧ (Obl.rs (stG gK) gK x.2.1).toNat % 32 = 0 ∧
      (Obl.rs (stG gK) gK x.2.2).toNat ≤ 64 ∧ (Obl.rs (stG gK) gK x.1).toNat + 512 * (Obl.rs (stG gK) gK x.2.2).toNat ≤ crew0.partLen) = true ∧
    64 < (Obl.rs (stG gK) gK 23).toNat ∧ (Obl.rs (stG gK) gK 24).toNat % 32 ≠ 0 ∧
    (∀ flag, MemoryOk (stPl flag) ∧ (stPl flag).crew? (crewKeyOf (stPl flag).arg.key) = some crew0 ∧ (stPl flag).arg.pairs = [(0, 0x400)] ∧ 0 < (stPl flag).arg.m ∧
      0 + 32 * (stPl flag).arg.m * (stPl flag).arg.n ≤ 0x400) :=
  ⟨fun _ _ _ => ready_of rfl rfl rfl _ _ _, rfl, by decide +kernel, by decide +kernel, by decide +kernel,
    fun _ => ⟨ok_stO (xs := [(0x1000, 0x0123456789ABCDEF)]) g0 [] (by decide +kernel), rfl, rfl, (by decide : 0 < 8), (by decide : 0 + 32 * 8 * 1 ≤ 0x400)⟩⟩
/-- R185 by hand: element 0 is 0xEF and element 7 0x01, so plane 0 begins with eight ones, plane 1 with 1, 0, 1, 0 and so on, plane 7 with four ones. -/
theorem test_plpack : (match exec .plpackLastWrite (stPl true) with
    | .next t => (memBytes (t.core 2).spad 0x1400 1 ++ memBytes (t.core 2).spad 0x1420 1 ++ memBytes (t.core 2).spad 0x14E0 1) | _ => []) = [0xFF, 0x55, 0x0F] := by
  decide +kernel
theorem test_plpack_booked : (match exec (.plpack 0 20 21 22 6) (stG gK) with
    | .next t => (t.agenda.filter fun d => d.task = .ev .plpackLastWrite).map fun d => (d.arg.n, d.arg.m, d.arg.flag, d.arg.pairs) | _ => []) =
    [(2, 8, true, [(0, 1024)])] := by decide +kernel

/-- One conversion in force, with a partition that needs it, or that does not. -/
def stL1 (v base : Nat) : State :=
  let s := st g0 { crew0 with partBase := base }
  s.setCc 2 { s.cc 2 with conv := v }
def req0 : Req := Req.base g0 0x1004 5 0 0
theorem witness_L1cfg : (∀ kind rd wr v b, Obl.Ready (stL1 v b) g0 e0 c0 kind rd wr) ∧
    ((Obl.rs (stL1 0 4096) g0 4).toNat ≤ 4 ∧ ((stL1 0 4096).convTarget g0.core).1 = 0 ∧ (stL1 0 4096).promisesUsed g0.core < 1024) ∧
    ((Obl.rs (stL1 4 4096) g0 4).toNat = ((stL1 4 4096).convTarget g0.core).1) ∧ 4 < (Obl.rs w0 g0 5).toNat ∧
    ((Obl.rs (stL1 1 (2 ^ 20)) g0 0).toNat < ((stL1 1 (2 ^ 20)).convTarget g0.core).1 ∧ (Obl.rs (stL1 1 (2 ^ 20)) g0 0).toNat < (stL1 1 (2 ^ 20)).leastConv g0.core) ∧
    (let r := { req0 with id := 1, effect := .l1cfg 2 }
     let s := { w0 with reqs := [r], arg := { EvArg.none with req := 1 } }
     s.req? s.arg.req = some r ∧ r.arrive ≤ s.now) :=
  ⟨fun _ _ _ _ _ => ready_of rfl rfl rfl _ _ _, by decide +kernel, by decide +kernel, by decide +kernel, by decide +kernel, rfl, by decide⟩
theorem test_l1cfg : (match exec (.l1cfg 0 4 5) (stL1 0 4096) with | .next t => t.reqs.map fun r => (r.effect, r.prom) | _ => []) = [(.l1cfg 4, 513)] := by
  decide +kernel
theorem test_l1cfg_least : (match exec (.l1cfg 0 0 5) (stL1 1 (2 ^ 20)) with
    | .next t => (t.gang? key0).map fun g => g.trap.map fun b => (b.cause, b.info) | _ => none) = some (some (4, 1)) := by decide +kernel

/-- `bchk` through handles 1, 0, 6, 3 and 5, at offsets in range, past the end and misaligned; `bmeta` of doublewords 0 and 7. -/
def mB (h : SReg) (off : OffReg) : MemOp := ⟨.s 9, off, 3, .b32, h, false, 0, .gang, .plain, 0⟩
theorem witness_RecordWords : stD.ctx? gD.ctx = some ctx0 ∧ stD.promisesUsed gD.core < 1024 ∧ (∀ kind rd wr, Obl.Ready stD gD e0 c0 kind rd wr) ∧
    (∀ x ∈ ([(1, .s 20), (0, .s 20), (6, .s 20), (1, .s 21), (1, .s 2)] : List (SReg × OffReg)), ∃ a, (Obl.accessesOf stD gD (mB x.1 x.2) e0).head? = some a ∧
      stD.misses gD.core ctx0 (Obl.handleOf stD gD (mB x.1 x.2))
        (match stD.usableRec ctx0 (Obl.handleOf stD gD (mB x.1 x.2)) with | some b => [Buf.base b + a.off.toNat] | none => []) false = ⟨false, [], [], []⟩) ∧
    stD.usableRec ctx0 0 = none ∧ stD.usableRec ctx0 1 = some rec1 ∧ (∃ b, stD.usableRec ctx0 6 = some b ∧ Buf.r b = false) ∧
    (stD.translate gD.core ctx0 (Buf.base rec1 + 4092)).isSome = true ∧
    (stD.core gD.core).recs.any (fun r => r.ctx = ctx0.id && r.handle = 1) = true := by
  refine ⟨rfl, by decide, readyD, ?_, by decide +kernel, by decide +kernel, ⟨_, rfl, by decide +kernel⟩, by decide +kernel, by decide +kernel⟩
  intro x hx
  simp only [List.mem_cons, List.not_mem_nil, or_false] at hx
  rcases hx with h | h | h | h | h <;> subst h <;> exact ⟨_, rfl, rfl⟩
/-- `bchk` at its pass, with an absent page of a buffer that is pageable or not. -/
def gBp (h : SReg) : Gang := { gP (.bchk 0 (mB h (.s 0))) 0 with s := s0 }
theorem witness_bchk_pass : ∀ h ∈ ([4, 5] : List SReg), Obl.AtPass (stO (gBp h) [] []) (gBp h) e0 { c0 with next := 0x1008 } crew0 (.bchk 0 (mB h (.s 0))) 0x1004 ∧
    ∃ a b, (Obl.accessesOf (stO (gBp h) [] []) (gBp h) (mB h (.s 0)) e0).head? = some a ∧
      (stO (gBp h) [] []).usableRec ctx0 (Obl.handleOf (stO (gBp h) [] []) (gBp h) (mB h (.s 0))) = some b ∧ Buf.r b = true ∧ 0 ≤ a.off ∧
      a.off + 4 ≤ (Buf.length b : Int) ∧ a.off % 4 = 0 ∧ (stO (gBp h) [] []).translate 2 ctx0 (Buf.base b + a.off.toNat) = none := by
  intro h hh
  simp only [List.mem_cons, List.not_mem_nil, or_false] at hh
  rcases hh with h | h <;> subst h <;>
    exact ⟨⟨rfl, rfl, rfl, rfl, by decide, rfl, rfl, rfl⟩, _, _, rfl, rfl, by decide +kernel, by decide +kernel, by decide +kernel, by decide +kernel, by decide +kernel⟩
def effectRun (i : Instr) : List Effect := match exec i stD with | .next t => t.reqs.map fun r => r.effect | _ => []
/-- R292, R293 by hand: bits 10 to 12 are R, W and A, bit 9 that a TLB holds the page. -/
theorem test_bchk : (effectRun (.bchk 0 (mB 1 (.s 20))), effectRun (.bchk 0 (mB 0 (.s 20))), effectRun (.bchk 0 (mB 6 (.s 20))), effectRun (.bchk 0 (mB 1 (.s 21))),
    effectRun (.bchk 0 (mB 1 (.s 2)))) = ([.scalar 9 0x1E00], [.scalar 9 6], [.scalar 9 0x0805], [.scalar 9 0x1C04], [.scalar 9 0x1C08]) := by decide +kernel
theorem test_bchk_pass : ([4, 5] : List SReg).map (fun h => match exec .probePass (stO (gBp h) [] []) with | .next t => t.reqs.map fun r => r.effect | _ => []) =
    [[.scalar 9 0x1C07], [.scalar 9 0x1D00]] := by decide +kernel
theorem test_bmeta : effectRun (.bmeta 0 { mB 1 (.s 0) with w := .b8, imm := 2 }) = [.scalar 9 0x0078700000000001] ∧
    effectRun (.bmeta 0 { mB 16 (.s 0) with w := .b8, imm := 2 }) = [] := by decide +kernel

/-- `watch`: the gang has no monitor and 63 of 64 are taken; all are taken; it has one. -/
def mW (h : SReg) : MemOp := ⟨.v 0, .v 1, 0, .b32, h, false, 0, .dev, .plain, 0⟩
def stWt (n : Nat) (mine : Bool) : State :=
  stD.setCc 2 { stD.cc 2 with mons := ((List.finRange 64).take n).map fun k => ⟨k, if mine && k.val = 5 then key0 else ⟨9, 0, 0⟩, 0x700000, 4, true, true⟩ }
theorem witness_Watch : (∀ kind rd wr n mine, Obl.Ready (stWt n mine) gD e0 c0 kind rd wr) ∧ (∀ l, l < 0 → e0.mask.getLsbD l = false) ∧ e0.mask.getLsbD 0 = true ∧
    Obl.Granted (stWt 63 false) gD ctx0 (Obl.handleOf stD gD (mW 1)) .read false [⟨0, Obl.offsetOf (stWt 63 false) gD (mW 1) 0, 4⟩] rec1 ∧ Buf.tier rec1 < 2 ∧
    (((stWt 63 false).cc 2).mons.find? (fun z => z.gang = gD.key) = none ∧ ∀ z ∈ ((stWt 63 false).cc 2).mons, z.num ≠ 63) ∧
    (((stWt 64 true).cc 2).mons.find? (fun z => z.gang = gD.key)).map (·.num) = some 5 ∧
    (((stWt 64 false).cc 2).mons.find? (fun z => z.gang = gD.key) = none ∧ ∀ k : Fin 64, ∃ z ∈ ((stWt 64 false).cc 2).mons, z.num = k) ∧
    (∃ b, stD.usableRec ctx0 2 = some b ∧ 2 ≤ Buf.tier b) :=
  ⟨fun _ _ _ _ _ => ready_of rfl rfl rfl _ _ _, by intro l hl; omega, by decide,
    ⟨by decide +kernel, by decide +kernel, by decide +kernel, by decide +kernel, by decide +kernel, by decide +kernel, rfl, by decide +kernel, by decide +kernel⟩,
    by decide +kernel, by decide +kernel, by decide +kernel, by decide +kernel, _, rfl, by decide +kernel⟩
theorem test_watch : (match exec (.watch 0 (mW 1)) (stWt 63 false) with
    | .next t => (((t.cc 2).mons.filter fun m => m.gang = key0).map fun m => (m.num, m.armed, m.hit), t.reqs.map fun r => r.effect) | _ => ([], [])) =
    ([(63, false, false)], [.arm]) := by decide +kernel

theorem witness_FenceOrders : Obl.Ready w0 g0 e0 c0 .fence [] [] ∧ (∀ r ∈ w0.reqs, r.owner = g0.key → r.reads = true → w0.readDone r = true) ∧
    2 ≤ Scope.span.code ∧ g0.obs ≤ w0.now ∧ ∀ j : TReg, g0.obsT[j] ≤ w0.now :=
  ⟨ready_of rfl rfl rfl _ _ _, by decide +kernel, by decide, by decide, by decide +kernel⟩
theorem test_fence : (match exec (.fence 1 .sys .full) w0 with | .next t => (t.gang? key0).map fun g => (g.fences.map fun f => (f.kind, f.scope, f.upTo), g.readyAt) | _ => none) =
    some ([(.full, .sys, 1)], 2) := by decide +kernel
theorem witness_pf : Obl.Ready w0 g0 e0 c0 .mem [.s 1] [] := ready_of rfl rfl rfl _ _ _

/-- A descriptor at offset 0 of the partition: slice 0 of `n` of group 3, `len` bytes of buffer 1 from offset 0x40 to offset 0x800 of the crew's own
partition. -/
def desc (n len : Nat) : List (Nat × Nat) := [(0x1000, n * 2 ^ 56 + 3 * 2 ^ 40 + 4), (0x1008, 0x40), (0x1010, 0x800), (0x1018, 2 ^ 44), (0x1020, 2 * 2 ^ 56 + len)]
def part0 : CopySlice := ⟨0, key0, 900, 0, 0x40, 0x800, 1, 0, 64, [], [], Vector.replicate 8 0, Vector.replicate 8 0, false⟩
def cmd0 : CopyCmd :=
  { group := 3, crew := ⟨1, 0⟩, slices := 2, bv := false, bar := 0, dkind := 1, dcore := 2, dcrew := 0, ring := 0, rel := false, scope := .dev
    parts := [part0], complete := none, entry := true, chan := none, resume := false, halt := false, rows := [], landed := 0, fillDone := 0, holding := false
    done := false }
def stCp (xs : List (Nat × Nat)) (cmds : List CopyCmd) : State :=
  let s := stO g0 xs []
  s.setCc 2 { s.cc 2 with cmds := cmds }
/-- Commands of the other groups of other crews, with an entry each. -/
def others : List CopyCmd := (List.range 32).map fun i => { cmd0 with crew := ⟨2, BitVec.ofNat 16 i⟩ }
/-- The command in its states: slice 1 has come and slice 0 has not; slice 0 has come; all have; it is done. -/
def cmdOther : CopyCmd := { cmd0 with slices := 0, parts := [{ part0 with index := 1 }] }
def cmdWhole : CopyCmd := { cmd0 with slices := 1 }
theorem witness_CopyJoins : (∀ xs cmds, Obl.Ready (stCp xs cmds) g0 e0 c0 .copy [.s 0] []) ∧
    (∀ cmds ∈ [[], [cmdOther], [{ cmdWhole with done := true }], others, [cmd0], [cmdWhole]], ∃ p, (stCp (desc 2 64) cmds).copyCheck g0 crew0 ctx0 (Obl.low (Obl.rs (stCp (desc 2 64) cmds) g0 0)) = .ok p ∧
      (stCp (desc 2 64) cmds).promisesUsed g0.core < 1024 ∧ p.desc.skind = 0 ∧ p.desc.dkind = 1 ∧ p.desc.slice = 0 ∧ p.desc.group = 3 ∧
      (stCp (desc 2 64) cmds).misses g0.core ctx0 p.desc.sh
        ((pageAccesses (Buf.base p.sRec) p.desc.soff p.desc.len).map fun z => Buf.base p.sRec + z.off.toNat) false = ⟨false, [], [], []⟩) ∧
    ((stCp (desc 2 64) []).cmd? g0.core crew0.key 3 = none ∧ (stCp (desc 2 64) []).fifoUsed g0.core < 32) ∧
    ((stCp (desc 2 64) [cmdOther]).cmd? g0.core crew0.key 3 = some cmdOther ∧ cmdOther.gathering = true ∧ ∀ w ∈ cmdOther.parts, w.index ≠ 0) ∧
    ((stCp (desc 2 64) others).cmd? g0.core crew0.key 3 = none ∧ 32 ≤ (stCp (desc 2 64) others).fifoUsed g0.core) ∧
    ((stCp (desc 2 64) [cmd0]).cmd? g0.core crew0.key 3 = some cmd0 ∧ cmd0.gathering = true ∧ part0 ∈ cmd0.parts) ∧
    ((stCp (desc 2 64) [cmdWhole]).cmd? g0.core crew0.key 3 = some cmdWhole ∧ cmdWhole.gathering = false ∧ cmdWhole.done = false) ∧
    (Obl.low (Obl.rs (stCp [] []) g0 1) % 64 ≠ 0) := by
  refine ⟨fun _ _ => ready_of rfl rfl rfl _ _ _, ?_, by decide +kernel, by decide +kernel, by decide +kernel, by decide +kernel, by decide +kernel, by decide +kernel⟩
  intro cmds h
  simp only [List.mem_cons, List.not_mem_nil, or_false] at h
  rcases h with h | h | h | h | h | h <;> subst h <;>
    exact ⟨_, rfl, by decide +kernel, by decide +kernel, by decide +kernel, by decide +kernel, by decide +kernel, rfl⟩
/-- Out of the partition, and descriptors that a check refuses. -/
theorem witness_CopyJoins_checks : (Obl.low (BitVec.ofNat 64 8192) % 64 = 0 ∧ crew0.partLen < Obl.low (BitVec.ofNat 64 8192) + 64) ∧
    (∀ x ∈ [((33, 64) : Nat × Nat), (0, 64), (2, 16), (2, 4096), (2, 0x2000)], (match (stCp (desc x.1 x.2) []).copyCheck g0 crew0 ctx0 0 with | .error _ => true | .ok _ => false) = true) ∧
    (∀ cmds, Obl.Ready (stCp [] cmds) g0 e0 c0 .copy [.s 3] [.s 9]) ∧
    (∀ z ∈ ((stCp [] []).cc 2).cmds, z.crew ≠ g0.crewKey) ∧
    ∀ d, ((stCp [] [{ cmd0 with done := d, landed := 96 }]).cc 2).cmds.find? (fun z => z.crew = g0.crewKey && z.group.val = 3) = some { cmd0 with done := d, landed := 96 } :=
  ⟨by decide, by decide +kernel, fun _ => ready_of rfl rfl rfl _ _ _, by decide +kernel, fun _ => rfl⟩
def trapRun (i : Instr) (s : State) : Option (Byte × Word) :=
  match exec i s with | .next t => (t.gang? key0).bind fun g => g.trap.map fun b => (b.cause, b.info) | _ => none
/-- R220, R230 by hand: 33 slices, a length that is no multiple of 32, one past the buffer's end, one past the partition's; the duplicate. -/
theorem test_copy_traps : [((33, 64) : Nat × Nat), (2, 16), (2, 4096), (2, 0x1FE0)].map (fun x => trapRun (.copy 0 0 3 .dev false) (stCp (desc x.1 x.2) [])) =
      [some (1, 0), some (8, 0), some (4, 1), some (4, 1)] ∧
    trapRun (.copy 0 0 3 .dev false) (stCp (desc 2 64) [cmd0]) = some (0x0D, 0x103) ∧
    trapRun (.copy 0 0 3 .dev false) (stCp (desc 2 64) [cmdWhole]) = some (0x0D, 0x203) := by decide +kernel
theorem test_cwp : sRun (.cwp 0 9 3) (stCp [] [{ cmd0 with done := true, landed := 96 }]) = some 0x8000000000000060 ∧ sRun (.cwp 0 9 4) (stCp [] [cmd0]) = some 0 := by
  decide +kernel
theorem witness_CopyJoins_cores : ∀ xs cmds (k : CoreId), k ≠ 2 → ((stCp xs cmds).cc k).cmds = [] := by
  intro xs cmds k h
  have h2 : (2 : CoreId) ≠ k := fun e => h e.symm
  have h3 : (2 : Nat) ≠ k.val := fun e => h2 (Fin.ext e)
  simp [stCp, stO, stG, st, State.setArg, State.setCc, State.setCore, State.cc, State.core, State.reset, h3, Core.reset, CoreCtx.reset]

/-! ## Class MTX and the lapidary -/

/-- Format slots: 0 s8, 1 none, 2 q5 with scales at 256, 3 q8 with scales at offset 2, 4 f32. -/
def sliceM : Slice :=
  { slice0 with record := ((((slice0.record.set 16 8).set 20 0x0000010000000013).set 22 0x0000000200000016).set 24 1) }
/-- Layouts: 0 the whole partition of 8,192 bytes; 1 its first 32; 2 the partition from byte 32 on; 3 32 bytes from offset 512. -/
def lays : Vector (Vector DWord 4) 4 :=
  #v[#v[0x0000010000000000, 0, 0x0000000300000000, 0x0001000100010020], #v[0, 0, 0, 0x0001000100010001],
     #v[0x0000010000000020, 0, 0x0000000300000000, 0x0001000100010020], #v[512, 0, 0, 0x0001000100010001]]
def plane0 : PlaneOp := ⟨0, 1, 32, 8, [List.replicate 32 2], [[]]⟩
def term0 : TermOp := ⟨0, 32, 1, 8, 0, [[(0, 3)]], [[]], [[1]]⟩
def lap0 : Lapidary :=
  { CoreCtx.reset.lap with slots := lays, plane := some plane0, term := some term0, acc := [(0, 5), (256, 7)], counters := #v[11, 12, 13, 14, 15] }
/-- M = 1 and K = 32, or K = 32 and N = 1; K = 0; offsets of records. -/
def gMx (x : Gang) : Gang := { x with s := ((((((x.s.set 20 0x10020).set 21 0).set 22 8128).set 23 8192).set 24 8176).set 25 8160).set 26 8 }
def stLap (x : Gang) (xs : List (Nat × Nat)) (lap : Lapidary) : State :=
  let s := stO x xs []
  { s.setLap 2 lap with slices := [sliceM] }
theorem readyM (xs : List (Nat × Nat)) (rd wr : List RegRef) : Obl.Ready (stLap (gMx g0) xs lap0) (gMx g0) e0 c0 .mtx rd wr :=
  ready_at rfl rfl rfl rfl _ _ _
theorem takesM (x : Gang) (xs : List (Nat × Nat)) : Obl.takes (stLap x xs lap0) 2 := ⟨Nat.zero_lt_succ 63, (fun o h => by cases h), of_decide_eq_true rfl⟩
theorem witness_EngineWords_staging : (stLap (gMx g0) [] lap0).crew? (gMx g0).crewKey = some crew0 ∧ Obl.takes (stLap (gMx g0) [] lap0) (gMx g0).core ∧ (gMx g0).inHandler = false ∧
    (stLap (gMx g0) [] lap0).handlerOf (gMx g0) ≠ 0 ∧
    (∀ x ∈ ([(.mldA 0 20 3 0 0, true, none), (.mldB 0 20 3 1 0 false, true, none), (.mldB 0 20 3 1 0 true, true, none), (.mldB 0 20 3 1 3 false, true, some ⟨8, 0⟩),
        (.mldA 0 20 3 2 0, true, some ⟨4, 0⟩), (.mldA 0 21 3 0 0, false, none), (.mldA 0 20 3 0 1, false, none), (.mldB 0 20 3 0 0 false, false, none)] :
        List (Instr × Bool × Option Trap)), (match Obl.stageWord x.1 with
      | some (a, _, l, f, kd) =>
        let raw := (stLap (gMx g0) [] lap0).fmtSlot (gMx g0) f
        let k := kd (Obl.rs (stLap (gMx g0) [] lap0) (gMx g0) a)
        decide (stageLegal raw lap0.slots[l] k = x.2.1) && (!x.2.1 || decide (stagePlace raw lap0.slots[l] k crew0.partLen = x.2.2))
      | none => false) = true) :=
  ⟨rfl, takesM _ _, by decide, by decide +kernel, by decide +kernel⟩
theorem witness_EngineWords_order : (∀ l : Fin 4, (stLap (gMx g0) [] lap0).slotLoads 2 l = false) ∧ (stLap (gMx g0) [] lap0).recordsAhead (gMx g0) 1 = false ∧
    ∀ x xs, ((stLap x xs lap0).core 2).lapHeld = none := ⟨by decide +kernel, by decide +kernel, fun _ _ => rfl⟩
def lapRun (i : Instr) (s : State) : Option (List (LapKind × Nat × Nat) × Option TrapBlk) :=
  match exec i s with | .next t => (t.gang? key0).map fun g => ((t.lap 2).ops.map fun o => (o.kind, o.begin, o.finish), g.trap) | _ => none
/-- R234, R246, R255 by hand: the probe is in clock 1, the start 8 clocks later, `mzero` takes 32 clocks. -/
theorem test_mzero : lapRun (.mzero 0 3) (stLap (gMx g0) [] lap0) = some ([(.mzero, 9, 41)], none) := by decide +kernel
theorem test_mldA : (lapRun (.mldA 0 20 3 0 0) (stLap (gMx g0) [] lap0)).map (fun x => x.1.map fun y => y.1) = some [.mldA 1 32] ∧
    (lapRun (.mldA 0 21 3 0 0) (stLap (gMx g0) [] lap0)).map (fun x => x.2.map fun y => (y.cause, y.info)) = some (some (1, 0)) := by decide +kernel
theorem test_mldB : (lapRun (.mldB 0 20 3 1 0 false) (stLap (gMx g0) [] lap0)).map (fun x => x.1.map fun y => y.1) = some [.mldB 32 1 false] ∧
    (lapRun (.mldB 0 20 3 1 3 false) (stLap (gMx g0) [] lap0)).map (fun x => x.2.map fun y => (y.cause, y.info)) = some (some (8, 0)) := by decide +kernel

theorem witness_EngineWords_records : (∀ i ∈ ([.mma 0 22 3, .mdrain 0 24 3 4, .lrec 0 25 0] : List Instr), ∃ a al n, Obl.recordWord i = some (a, al, n) ∧
      Obl.Ready (stLap (gMx g0) [] lap0) (gMx g0) e0 c0 .mtx [.s a] [] ∧ Obl.low (Obl.rs (stLap (gMx g0) [] lap0) (gMx g0) a) % al = 0 ∧ Obl.low (Obl.rs (stLap (gMx g0) [] lap0) (gMx g0) a) + n ≤ crew0.partLen) ∧
    (Obl.low (Obl.rs (stLap (gMx g0) [] lap0) (gMx g0) 26) % 16 ≠ 0 ∧ Obl.low (Obl.rs (stLap (gMx g0) [] lap0) (gMx g0) 23) % 64 = 0 ∧
      crew0.partLen < Obl.low (Obl.rs (stLap (gMx g0) [] lap0) (gMx g0) 23) + 16) := by
  refine ⟨?_, by decide +kernel⟩
  intro x hx
  simp only [List.mem_cons, List.not_mem_nil, or_false] at hx
  rcases hx with h | h | h <;> subst h <;> exact ⟨_, _, _, rfl, readyM _ _ _, by decide +kernel, by decide +kernel⟩
/-- Records at offset 0 of the partition. -/
def stRec (i : Instr) (xs : List (Nat × Nat)) : State := stLap (gP i 0) xs lap0
theorem atR (i : Instr) (xs : List (Nat × Nat)) : Obl.AtPass (stRec i xs) (gP i 0) e0 { c0 with next := 0x1008 } crew0 i 0x1004 ∧ (gP i 0).block = [] ∧ Obl.low (gP i 0).opnd = 0 :=
  ⟨⟨rfl, rfl, rfl, rfl, by decide, rfl, rfl, rfl⟩, rfl, rfl⟩
/-- M = N = 1 and K = 32; with ACC and another N than what is staged; with K = 33. -/
def mmaRec (n k : Nat) : List (Nat × Nat) := [(0x1000, 1 + n * 2 ^ 16 + k * 2 ^ 32), (0x1008, 2 ^ 48)]
theorem witness_EngineWords_mma : (∀ n k, Obl.AtPass (stRec (.mma 0 20 3) (mmaRec n k)) (gP (.mma 0 20 3) 0) e0 { c0 with next := 0x1008 } crew0 (.mma 0 20 3) 0x1004) ∧
    Obl.MmaBlock.ok (Obl.recordDw (stRec (.mma 0 20 3) (mmaRec 1 32)) crew0 0) ∧ lap0.ops = [] ∧
    lap0.agrees ((List.range 8).map (Obl.recordDw (stRec (.mma 0 20 3) (mmaRec 1 32)) crew0 0)) = true ∧ Obl.takes (stRec (.mma 0 20 3) (mmaRec 1 32)) 2 ∧ lap0.term = some term0 ∧
    Obl.MmaBlock.ok (Obl.recordDw (stRec (.mma 0 20 3) (mmaRec 2 32)) crew0 0) ∧
    lap0.agrees ((List.range 8).map (Obl.recordDw (stRec (.mma 0 20 3) (mmaRec 2 32)) crew0 0)) = false ∧
    ¬ Obl.MmaBlock.ok (Obl.recordDw (stRec (.mma 0 20 3) (mmaRec 1 33)) crew0 0) := by
  have z : ∀ n k, n ∈ [1, 2] → k = 32 → ∀ i, 2 ≤ i → i < 8 → Obl.recordDw (stRec (.mma 0 20 3) (mmaRec n k)) crew0 0 i = 0 := by
    intro n k hn hk i h1 h2
    have : ∀ n ∈ [1, 2], ∀ i < 8, 2 ≤ i → Obl.recordDw (stRec (.mma 0 20 3) (mmaRec n 32)) crew0 0 i = 0 := by decide +kernel
    subst hk
    exact this n hn i h2 h1
  refine ⟨fun n k => (atR _ _).1, ?_, rfl, by decide +kernel, takesM _ _, rfl, ?_, by decide +kernel, ?_⟩
  · refine ⟨?_, ?_, ?_, ?_, ?_, ?_, z 1 32 (by decide) rfl, ?_⟩ <;> decide +kernel
  · refine ⟨?_, ?_, ?_, ?_, ?_, ?_, z 2 32 (by decide) rfl, ?_⟩ <;> decide +kernel
  · intro h
    exact absurd h.2.2.2.2.2.2.2.2.2.2.2.1 (by decide +kernel)
def drainRec (dest stride m n : Nat) : List (Nat × Nat) := [(0x1000, dest + stride * 2 ^ 32), (0x1008, m + n * 2 ^ 16)]
theorem witness_EngineWords_mdrain : (∀ x, Obl.AtPass (stRec (.mdrain 0 20 3 4) x) (gP (.mdrain 0 20 3 4) 0) e0 { c0 with next := 0x1008 } crew0 (.mdrain 0 20 3 4) 0x1004) ∧
    (∀ x, Obl.takes (stRec (.mdrain 0 20 3 4) x) 2) ∧
    [drainRec 8160 32 1 1, drainRec 4 32 1 1, drainRec 0 32 0 1, drainRec 8192 32 1 1].map (fun x => drainCheck ((stRec (.mdrain 0 20 3 4) x).fmtSlot (gP (.mdrain 0 20 3 4) 0) 4)
      ((List.range 2).map (Obl.recordDw (stRec (.mdrain 0 20 3 4) x) crew0 0)) crew0.partLen) = [none, some ⟨8, 0⟩, some ⟨1, 0⟩, some ⟨4, 0⟩] :=
  ⟨fun _ => (atR _ _).1, fun _ => takesM _ _, by decide +kernel⟩
def layRec (base ext : Nat) (x : Nat) : List (Nat × Nat) := [(0x1000, base), (0x1010, x), (0x1018, ext)]
theorem witness_EngineWords_lrec : (∀ x, Obl.AtPass (stRec (.lrec 0 20 1) x) (gP (.lrec 0 20 1) 0) e0 { c0 with next := 0x1008 } crew0 (.lrec 0 20 1) 0x1004) ∧
    (∀ x ∈ [(32, 0x0001000100010001, 0), (4, 0x0001000100010001, 0)], (let d := Obl.recordDw (stRec (.lrec 0 20 1) (layRec x.1 x.2.1 x.2.2)) crew0 0;
      (d 2).extractLsb' 34 30 = (0 : BitVec 30) ∧ ∀ i < 4, (d 3).extractLsb' (16 * i) 16 ≠ (0 : BitVec 16))) ∧
    (let d := Obl.recordDw (stRec (.lrec 0 20 1) (layRec 4 0x0001000100010001 0)) crew0 0;
      ((d 0).extractLsb' 0 32).toNat % 32 ≠ 0) ∧
    (let d := Obl.recordDw (stRec (.lrec 0 20 1) (layRec 32 0x0001000100010001 0)) crew0 0;
      ((d 0).extractLsb' 0 32).toNat % 32 = 0 ∧ ((d 0).extractLsb' 32 32).toInt % 32 = 0 ∧ ((d 1).extractLsb' 0 32).toInt % 32 = 0 ∧
      ((d 1).extractLsb' 32 32).toInt % 32 = 0 ∧ ((d 2).extractLsb' 0 32).toInt % 32 = 0) ∧
    (let d := Obl.recordDw (stRec (.lrec 0 20 1) (layRec 32 0x0000000100010001 (2 ^ 34))) crew0 0;
      (d 2).extractLsb' 34 30 ≠ (0 : BitVec 30) ∧ (d 3).extractLsb' 48 16 = (0 : BitVec 16)) := by
  refine ⟨fun _ => (atR _ _).1, ?_, ?_, ?_, ?_⟩ <;> decide +kernel
def passLap (i : Instr) (xs : List (Nat × Nat)) : Option (List LapKind × Option (Byte × Word) × DWord) :=
  match exec .probePass (stRec i xs) with
  | .next t => (t.gang? key0).map fun g => ((t.lap 2).ops.map (·.kind), g.trap.map fun b => (b.cause, b.info), ((t.lap 2).slots[1])[0]) | _ => none
theorem test_mma : passLap (.mma 0 20 3) (mmaRec 1 32) = some ([.mma 1 1 32 0 true], none, 0) ∧ passLap (.mma 0 20 3) (mmaRec 2 32) = some ([], some (1, 0), 0) := by
  decide +kernel
theorem test_mdrain : passLap (.mdrain 0 20 3 4) (drainRec 8160 32 1 1) = some ([.mdrain 1 1 8160 32], none, 0) ∧
    passLap (.mdrain 0 20 3 4) (drainRec 8192 32 1 1) = some ([], some (4, 0), 0) := by decide +kernel
theorem test_lrec : passLap (.lrec 0 20 1) (layRec 32 0x0001000100010001 0) = some ([], none, 32) ∧ passLap (.lrec 0 20 1) (layRec 4 0x0001000100010001 0) = some ([], some (8, 0), 0) := by
  decide +kernel

theorem witness_EngineWords_lanes : (∀ i ∈ ([.mstat 0 9 3, .lconf 0 9, .lconfClr 0 9, .fslot 0 9 2 true] : List Instr), ∃ d x, Obl.lapRead (stLap (gMx g0) [] lap0) (gMx g0) i = some (d, x)) ∧
    (∀ rd wr, Obl.Ready (stLap (gMx g0) [] lap0) (gMx g0) e0 c0 .mtx rd wr) ∧
    (∀ i ∈ ([.qnt 0 9 (.v 1) (.v 2) 2, .dqnt 0 9 (.v 1) (.s 2) 2, .bscale 0 9 (.v 1) 2, .tcount 0 9 (.v 1) 14, .tcount 0 9 (.v 1) 0] : List Instr), ∃ d lat rd f v,
      Obl.convertWord (stLap (gMx g0) [] lap0) (gMx g0) e0.mask i = some (d, lat, rd, f, v) ∧
      ∀ k, f = some k → fmtSlotOk ((stLap (gMx g0) [] lap0).fmtSlot (gMx g0) k) isBlockType = true) ∧
    fmtSlotOk ((stLap (gMx g0) [] lap0).fmtSlot (gMx g0) 0) isBlockType = false ∧ fmtSlotOk ((stLap (gMx g0) [] lap0).fmtSlot (gMx g0) 2) isBlockType = true := by
  refine ⟨?_, fun _ _ => readyM _ _ _, ?_, by decide +kernel, by decide +kernel⟩
  · intro x hx
    simp only [List.mem_cons, List.not_mem_nil, or_false] at hx
    rcases hx with h | h | h | h <;> subst h <;> exact ⟨_, _, rfl⟩
  · intro x hx
    simp only [List.mem_cons, List.not_mem_nil, or_false] at hx
    rcases hx with h | h | h | h | h <;> subst h <;>
      exact ⟨_, _, _, _, _, rfl, fun k hk => by first | (cases hk; rfl) | cases hk⟩
theorem test_mtx_reads : [.mstat 0 9 3, .fslot 0 9 2 false, .lconf 0 9].map (fun i => sRun i (stLap (gMx g0) [] lap0)) = [some 14, some 0x0000010000000013, some 0] := by decide +kernel
theorem test_lconfClr : (let s := stLap (gMx g0) [] lap0
    match exec (.lconfClr 0 9) (s.setCc 2 { s.cc 2 with conflict := 77 }) with | .next t => (t.gang? key0).map fun g => (g.s[(9 : SReg)], (t.cc 2).conflict) | _ => none) = some (77, 0) := by
  decide +kernel
/-- Lane 0 of a vector register. -/
def lane0 (i : Instr) (f : Vector Lanes 192 → Vector Lanes 192) (n : VReg) : Option Word :=
  let g := { gMx g0 with v := f v0 }
  match exec i (stLap g [] lap0) with | .next t => (t.gang? key0).map fun y => y.readV t.freeNo (t.clock 2 + 20) n 0 | _ => none
def setLanes (n : Fin 192) (w : Word) (v : Vector Lanes 192) : Vector Lanes 192 := v.set n (Vector.replicate 32 w)
/-- R138, R264, R265 by hand: 1.0 of q5 takes S = 16/15 (exponent 127, fraction ceil(65536/15)) and the element 15; with exponent 127 the step is 1/16. -/
theorem test_conversions : lane0 (.bscale 0 9 (.v 1) 2) (setLanes 1 0x3F800000) 9 = some 0x007F1112 ∧
    lane0 (.qnt 0 9 (.v 1) (.v 2) 2) (fun v => setLanes 1 0x3F000000 (setLanes 2 0x007F0000 v)) 9 = some 8 ∧
    lane0 (.dqnt 0 9 (.v 1) (.v 2) 2) (fun v => setLanes 1 0xFFFFFFFC (setLanes 2 0x007F0000 v)) 9 = some 0xBE800000 ∧
    lane0 (.tcount 0 9 (.v 1) 6) (setLanes 1 7) 9 = some 2 ∧
    lane0 (.qntScale 0 9 (.v 1) 10 2) (setLanes 1 0x3F800000) 9 = some 15 ∧ lane0 (.qntScale 0 9 (.v 1) 10 2) (setLanes 1 0x3F800000) 10 = some 0x007F1112 := by
  decide +kernel

/-- An operation whose start or completion is due. -/
def lapOp0 (k : LapKind) : LapOp :=
  { id := 5, req := 9, gang := key0, kind := k, fslot := sliceM.fslot 0, slotNo := 0, walk := lays[0], arg := 0, probe := 1, begin := 8, finish := 40, started := true, got := List.replicate 32 1, waits := 0, lost := 0 }
def stEng (k : LapKind) (m : Nat) : State := { stLap g0 [] { lap0 with ops := [lapOp0 k] } with arg := { EvArg.none with core := 2, n := 5, m := m } }
theorem witness_EngineSteps : (∀ k ∈ ([.mldA 1 32, .mldB 32 1 false, .mzero, .mma 1 1 32 0 true, .mdrain 1 1 0 32] : List LapKind),
      (stEng k 8).lapOp? (stEng k 8).arg.core (stEng k 8).arg.n = some (lapOp0 k) ∧ (lapOp0 k).begin = (stEng k 8).arg.m ∧
      (stEng k 40).lapOp? (stEng k 40).arg.core (stEng k 40).arg.n = some (lapOp0 k) ∧ (lapOp0 k).finish = (stEng k 40).arg.m ∧
      (stEng k 40).crew? (crewKeyOf (lapOp0 k).gang) = some crew0) ∧ lap0.plane = some plane0 ∧ lap0.term = some term0 ∧
    lap0.acc.Pairwise (fun x y => x.1 < y.1) := by
  refine ⟨?_, rfl, rfl, by decide⟩
  intro k hk
  simp only [List.mem_cons, List.not_mem_nil, or_false] at hk
  rcases hk with h | h | h | h | h <;> subst h <;> exact ⟨rfl, rfl, rfl, rfl, rfl⟩
/-- R242 by hand: cell 0 holds 5 and gains 2 × 3; `mzero` empties the accumulator. -/
theorem test_engine_steps : (match exec .lapidaryOpComplete (stEng .mzero 40) with | .next t => some ((t.lap 2).acc, (t.lap 2).ops.length) | _ => none) = some ([], 0) ∧
    (match exec .lapidaryOpStart (stEng .mzero 8) with | .next t => (t.lap 2).ops.map (·.started) | _ => []) = [true] := by decide +kernel

/-! ## Clause headers, records, requests -/

/-- A gang at a clause boundary; t0 PROMISED, t1 BROKEN, t2 HELD with class 4, t3 HELD with class 3, the others SETTLED. -/
def gBd : Gang := { g0 with t := gT.t.set 3 ⟨0xC300000000000001, false, 0⟩, front := [⟨0x1000, 5, 0x8000000F⟩, ⟨0x2000, 4, 0x70⟩], sel := none, clause := none }
/-- The header `h` and a `nop` at 0x1000. -/
def stB (g : Gang) (c : Crew) (h : Word) : State :=
  let s := st g c
  s.setCore 2 { core0 with icache := [⟨7, 0x1000, [h, 0]⟩] }
def spentS (s : State) : State := { s with slices := [{ slice0 with spent := true }] }
theorem atHeader (f : State → State) (hf : ∀ s, f s = s ∨ f s = spentS s) (h : Word) (x : Gang) (hx : x = { gBd with strict := x.strict, timedOut := x.timedOut }) :
    Obl.AtHeader (f (stB x crew0 h)) x e0 h.toNat := by
  rw [hx]
  rcases hf (stB { gBd with strict := x.strict, timedOut := x.timedOut } crew0 h) with e | e <;> rw [e] <;>
    exact ⟨rfl, ⟨rfl, rfl⟩, fun c hc => by cases hc; rfl, .inr rfl, rfl, rfl⟩
theorem witness_ClauseHeaders : (let s := stB gBd { crew0 with killed := true } 0; s.gang? s.own.cur = some gBd ∧ s.crew? gBd.crewKey = some { crew0 with killed := true }) ∧
    (let c := { crew0 with mig := some ⟨3, 0, .stopping, 0⟩ }; let s := stB gBd c 0; s.gang? s.own.cur = some gBd ∧ gBd.sel = none ∧ s.crew? gBd.crewKey = some c ∧ c.killed = false ∧
      gBd.inHandler = false) ∧
    (Obl.AtHeader (spentS (stB gBd crew0 0x10000000)) gBd e0 0x10000000 ∧ Obl.exhausted (spentS (stB gBd crew0 0x10000000)) gBd = true ∧ gBd.budgeted = false) ∧
    (let x := { gBd with strict := some (4, 2) }; Obl.AtHeader (stB x crew0 0x10000000) x e0 0x10000000 ∧ Obl.exhausted (stB x crew0 0x10000000) x = false) ∧
    (let x := { gBd with timedOut := true }; Obl.AtHeader (stB x crew0 0x10000000) x e0 0x10000000 ∧ x.strict = none) ∧
    (∀ h : Word, Obl.AtHeader (stB gBd crew0 h) gBd e0 h.toNat ∧ Obl.exhausted (stB gBd crew0 h) gBd = false) ∧ (∀ h : Word, (stB gBd crew0 h).handlerOf gBd = 0x4000) ∧
    headerOk 0 (Obl.wordAfter (stB gBd crew0 0) gBd 0x1000) = none ∧
    (∀ h ∈ [0x10000000, 0x10080000, 0x10060000, 0x1010F000, 0x10F0F000], headerOk h (Obl.wordAfter (stB gBd crew0 (BitVec.ofNat 32 h)) gBd 0x1000) = some .ctl) ∧
    ([0, 1, 2, 3, 4, 7].map fun i => ((vget gBd.t i).isHeld3, (vget gBd.t i).isSettled)) = [(false, false), (false, false), (false, false), (true, false), (false, true), (false, true)] :=
  ⟨⟨rfl, rfl⟩, ⟨rfl, rfl, rfl, rfl, rfl⟩, ⟨atHeader spentS (fun _ => .inr rfl) 0x10000000 gBd rfl, rfl, rfl⟩, ⟨atHeader id (fun _ => .inl rfl) 0x10000000 _ rfl, rfl⟩,
    ⟨atHeader id (fun _ => .inl rfl) 0x10000000 _ rfl, rfl⟩, fun h => ⟨atHeader id (fun _ => .inl rfl) h _ rfl, rfl⟩, fun h => (rfl : (stB gBd crew0 h).handlerOf gBd = (stB gBd crew0 0).handlerOf gBd).trans (by decide +kernel : (stB gBd crew0 0).handlerOf gBd = 0x4000), by decide +kernel, by decide +kernel, by decide +kernel⟩
/-- In its handler, with an `mwait` that timed out. -/
def gHt : Gang := { gBd with timedOut := true, trap := some ⟨0x2000, 0x2000, 4, 0, true⟩, hmask := 0xF }
theorem witness_ClauseHeaders_handler : Obl.AtHeader (stB gHt crew0 0x10000000) gHt e0 0x10000000 ∧ gHt.inHandler = true ∧ gHt.timedOut = true :=
  ⟨⟨rfl, ⟨rfl, rfl⟩, (fun c hc => by cases hc; rfl), .inl rfl, by decide, by decide +kernel⟩, rfl, rfl⟩
/-- R214, R351 by hand: the timeout meets a handler, so the gang halts. -/
theorem test_header_handler : (match exec .clauseHeader (stB gHt crew0 0x10000000) with | .next t => (t.gang? key0).map fun g => (g.hd.kind, g.timedOut) | _ => none) = some (4, false) := by
  decide +kernel
def headRun (g : Gang) (h : Word) : Option (Option Entry × Nat × Option (Byte × Word × Pc) × Place) :=
  match exec .clauseHeader (stB g crew0 h) with
  | .next t => (t.gang? key0).map fun g => (g.sel, g.readyAt, g.trap.map fun b => (b.cause, b.info, b.pc), g.place) | _ => none
/-- R19, R30 by hand: ENTRY 15 puts the first word 16 clocks later; t3 traps; t1 makes a record. -/
theorem test_header : (headRun gBd 0x1010F000).map (fun x => (x.1, x.2.1)) = some (some e0, 16) ∧ (headRun gBd 0x10080000).map (fun x => x.2.2.1) = some (some (9, 3, 0x1000)) ∧
    (headRun gBd 0x10020000).map (fun x => decide (x.2.2.2 = .leaving 1 4 none)) = some true ∧ (headRun gBd 0).map (fun x => x.2.2.1) = some (some (1, 0x100, 0x1000)) := by
  refine ⟨?_, ?_, ?_, ?_⟩ <;> decide +kernel

/-- A record of the small gang: its place, kind, wake condition, ticks it waits for, key. -/
def gR (place : Place) (hd : Rec) : Gang := { g0 with place := place, sel := none, clause := none, front := [e0], hd := hd, t := g0.t.set 5 ⟨0x4000000000000000, true, 0⟩ }
def stRd (g : Gang) : State := { stG g with arg := { EvArg.none with key := key0, core := 2, treg := 5, launch := 1 } }
def hd0 (wake : BitVec 4) : Rec := ⟨1, 9, wake, 0, 2, 0, 0, 0, false, false, false, none, false, [], none⟩
theorem witness_RecordSteps : (let g := { gR .store (hd0 0) with place := .slot 1 4, front := es0 }; (stRd g).gang? (stRd g).arg.key = some g ∧ 2 ≤ g.entries) ∧
    (let g := gR (.leaving 1 4 none) (hd0 0); (stRd g).gang? (stRd g).arg.key = some g ∧ g.place = .leaving 1 4 none) ∧
    (let g := gR (.leaving 1 4 (some (0, 1))) (hd0 0); (stRd g).gang? (stRd g).arg.key = some g ∧ g.place = .leaving 1 4 (some (0, 1))) ∧
    (let g := gR .store (hd0 0); g.t[(stRd g).arg.treg].soft = true ∧ g.t[(stRd g).arg.treg].isOpen = true ∧ (stRd g).dist g.t[(stRd g).arg.treg].tick ≤ 0 ∧ g.ringAt = none) ∧
    (∀ w ∈ ([0, 1, 2, 8, 5] : List (BitVec 4)), let g := gR .store (hd0 w); (stRd g).gang? (stRd g).arg.key = some g ∧ g.parked = true ∧ g.hd.key = none ∧ g.hd.kind ≠ 4 ∧
      (stRd g).reached g.hd.wtick = true) ∧
    (let s := { stS g0 with arg := (stRd g0).arg }; s.slice? s.arg.launch = some slice0) ∧
    (let g := gR .store { hd0 1 with key := some 0 }; ((stRd g).core 2).stopped = false ∧ (stRd g).firstEligible 2 = some g ∧ (stRd g).chooseSlot 2 ((stRd g).alloc g) = some (0, 0)) ∧
    (let g := gR (.ring 0 1) { hd0 1 with key := some 0 }; (stRd g).firstEligible 2 = some g ∧ (stRd g).chooseSlot 2 ((stRd g).alloc g) = some (0, 0)) ∧
    (∀ x ∈ ([(1, false, 12), (2, false, 12), (1, true, 12)] : List (Byte × Bool × Nat)), let g := { gR (.entering 2 3 none) { hd0 5 with kind := x.1, bad := x.2.1, key := some 0 } with live := x.2.2 }
      (stRd g).gang? (stRd g).arg.key = some g ∧ g.hd.bad = x.2.1 ∧ g.live ≤ Obl.regsOf (stRd g) g ∧ (stRd g).reqs = []) ∧
    (let g := { gR (.entering 2 3 none) (hd0 5) with live := 13 }; Obl.regsOf (stRd g) g < g.live) := by
  refine ⟨⟨rfl, by decide⟩, ⟨rfl, rfl⟩, ⟨rfl, rfl⟩, ⟨rfl, by decide, by decide, rfl⟩, ?_, rfl, ⟨rfl, rfl, by decide +kernel⟩, ⟨rfl, by decide +kernel⟩, ?_, by decide +kernel⟩
  · intro w hw
    simp only [List.mem_cons, List.not_mem_nil, or_false] at hw
    rcases hw with h | h | h | h | h <;> subst h <;> exact ⟨rfl, rfl, rfl, by decide, by decide⟩
  · intro x hx
    simp only [List.mem_cons, List.not_mem_nil, or_false] at hx
    rcases hx with h | h | h <;> subst h <;> exact ⟨rfl, rfl, by decide +kernel, rfl⟩
def hdRun (i : Instr) (g : Gang) : Option (Place × Option Tick × Byte × Bool × Nat) :=
  match exec i (stRd g) with | .next t => (t.gang? key0).map fun g => (g.place, g.hd.key, g.hd.kind, g.timedOut, g.live) | _ => none
/-- R48, R52 by hand: device time 0 is past tick 2^56 − 1, so a register that software set to it settles. -/
theorem test_settle_last : (match exec .detachedTimerSettle (stRd { gR .store (hd0 0) with t := g0.t.set 5 ⟨0x40FFFFFFFFFFFFFF, true, 0⟩ }) with
    | .next t => (t.gang? key0).map fun g => (g.t[(5 : TReg)]).val | _ => none) = some 0x00FFFFFFFFFFFFFF := by decide +kernel
theorem test_record_steps : (hdRun .recordWriteDone (gR (.leaving 1 4 none) (hd0 0))).map (fun x => decide (x.1 = .store)) = some true ∧
    (hdRun .wakeTimeReached (gR .store (hd0 0))).map (fun x => x.2.1) = some (some 0) ∧ (hdRun .mwaitTimeout (gR .store (hd0 5))).map (fun x => x.2.2.2.1) = some true ∧
    (hdRun .relaunchComplete { gR (.entering 2 3 none) (hd0 5) with live := 13 }).map (fun x => (x.2.2.1, x.2.2.2.2)) = some (4, 13) := by
  refine ⟨?_, ?_, ?_, ?_⟩ <;> decide +kernel

/-- A store and an atomic of lanes 2 and 5 to the line at 0x600000, and a load that has its bytes. -/
def pc (l a v : Nat) : Piece := ⟨l, a, 4, natLe 4 v, natLe 4 (v + 1)⟩
def r0 : Req := { req0 with id := 3, home := .hbm 0 0 false, line := 0x600000, ctx := 7, handle := 1, pieces := [pc 2 8 0x11223344, pc 5 8 0x55667788], got := [(2, [1, 0, 0, 0]), (5, [2, 0, 0, 0])] }
def stQ (x : Req) (f : EvArg → EvArg) : State :=
  { stG g0 with reqs := [x], time := { State.reset.time with now := 50 }, arg := f { EvArg.none with req := 3, cls := .page, ticket := 6 } }
def stageX : Stage := ⟨.bank 0 0, 20, 0, 0, 10, true, 1, .ordinary, false, 1⟩
theorem witness_RequestSteps : (∀ e ∈ ([.load (.v 9) .b32, .lanes (.v 9) .b32, .store, .arm, .atomic .add (some (.v 9)) .b32, .scalar 9 77] : List Effect),
      let r := { r0 with effect := e, perfDone := true }
      (stQ r id).req? (stQ r id).arg.req = some r ∧ r.held = none ∧ r.arrive ≤ (stQ r id).now ∧ r.replied = true ∧ r.mixed = [] ∧ (stQ r id).gang? r.owner = some g0 ∧ g0.parked = false ∧
      r.pieces.Pairwise (fun x y => x.lane ≠ y.lane)) ∧
    (∀ e ∈ ([.store, .atomic .cas none .b32, .atomic .fadd (some (.v 9)) .b32] : List Effect), ∀ h ∈ ([.hbm 0 0 false, .core] : List Home), let r := { r0 with effect := e, home := h }
      Obl.Due_ (stQ r id) r ∧ MemoryOk (stQ r id) ∧ (stQ r id).failed r = none ∧
      ∀ p ∈ r.pieces, (p.size = 4 ∨ p.size = 8 ∧ e ≠ .atomic .fadd none .b32) ∧ p.data.length = p.size ∧ p.data2.length = p.size) ∧
    (let r := { r0 with effect := .load (.v 9) .b32, path := [stageX], slots := [⟨.bank 0 0, 60, 1⟩], prom := 70, arrive := 70 }
     let s := stQ r fun a => { a with n := 0, m := 90, cause := .refresh }
     s.req? s.arg.req = some r ∧ r.held = none ∧ r.slots[s.arg.n]? = some ⟨.bank 0 0, 60, 1⟩ ∧ r.path[s.arg.n]? = some stageX ∧ s.now ≤ 60 ∧ 60 < s.arg.m ∧
      (∀ q ∈ s.reqs, ∀ d ∈ q.after, d.1 ≠ r.id) ∧ r.tracked = true ∧ s.gang? r.owner = some g0 ∧ g0.t[r.treg].soft = false ∧ ∀ q ∈ s.reqs, q.held = none) ∧
    (let r := { r0 with effect := .store, held := some (.page, 6) }
     let s := stQ r id
     s.zeroPages 6 = s ∧ s.heldWith s.arg.cls s.arg.ticket = [r] ∧ s.req? r.id = some r ∧ r.withdrawn = false ∧ s.savesNow r.core = false ∧
      ({ s.misses r.core ctx0 r.handle [Buf.base rec1 + r.offset] r.writes with recMiss := false }).blank = true ∧ r.after = [] ∧ r.device = true ∧ s.ctx? r.ctx = some ctx0 ∧ s.bufRec ctx0 r.handle = some rec1 ∧
      s.bufReady rec1 = true ∧ Buf.tier rec1 < 2 ∧ s.translate r.core ctx0 (Buf.base rec1 + r.offset) = some ⟨7, 0x200000, 0x600000, 16, true, 0, 0⟩) ∧
    (let r := { r0 with effect := .store, held := some (.page, 6), offset := 0x20000 }
     let s := stQ r id
     s.heldWith s.arg.cls s.arg.ticket = [r] ∧ ({ s.misses r.core ctx0 r.handle [Buf.base rec1 + r.offset] r.writes with recMiss := false }).blank = false) ∧
    (let r := { r0 with effect := .store, handle := 5, held := some (.page, 6) }
     let s := stQ r id
     s.heldWith s.arg.cls s.arg.ticket = [r] ∧ s.req? r.id = some r ∧ s.ownHold r s.arg.cls = true) := by
  refine ⟨?_, ?_, ⟨rfl, rfl, rfl, rfl, by decide, by decide, ?_, rfl, rfl, rfl, ?_⟩, ⟨rfl, rfl, rfl, rfl, rfl, by decide +kernel, rfl, rfl, rfl, by decide +kernel, by decide +kernel, by decide +kernel, by decide +kernel⟩,
    ⟨rfl, by decide +kernel⟩, rfl, rfl, by decide +kernel⟩
  · intro e he
    simp only [List.mem_cons, List.not_mem_nil, or_false] at he
    rcases he with h | h | h | h | h | h <;> subst h <;> exact ⟨rfl, rfl, by decide, rfl, rfl, rfl, rfl, by decide⟩
  · intro e he h hh
    simp only [List.mem_cons, List.not_mem_nil, or_false] at he hh
    rcases he with a | a | a <;> rcases hh with b | b <;> subst a <;> subst b <;>
      exact ⟨⟨rfl, rfl, rfl, by decide⟩, ok_st g0 crew0, rfl, by decide⟩
  · intro q hq; cases hq with | head => intro d hd; cases hd | tail _ h => cases h
  · intro q hq; cases hq with | head => rfl | tail _ h => cases h
def landRun (e : Effect) : Option (Word × Word × DWord) :=
  match exec .requestLanding (stQ { r0 with effect := e, perfDone := true } id) with
  | .next t => (t.gang? key0).map fun g => (g.v[(9 : VReg)][(2 : Fin 32)], g.v[(9 : VReg)][(3 : Fin 32)], g.s[(9 : SReg)]) | _ => none
/-- R56 by hand: lane 2 takes its four bytes, lane 3 keeps 9003. -/
theorem test_landing : landRun (.atomic .add (some (.v 9)) .b32) = some (1, 9003, 9) ∧ landRun (.scalar 9 77) = some (9002, 9003, 77) ∧ landRun .store = some (9002, 9003, 9) := by decide +kernel
/-- R285, R287 by hand: lane 5's store comes last; lane 2's `add` of 0x11223344 to 0, then lane 5's. -/
theorem test_performed : (match exec .storePerformed (stQ r0 id) with | .next t => memDWord t.mem 0x600008 | _ => 1) = 0x55667788 ∧
    (match exec .atomicPerformed (stQ { r0 with effect := .atomic .add none .b32 } id) with | .next t => memDWord t.mem 0x600008 | _ => 1) = 0x6688AACC := by decide +kernel
theorem test_convert : (match exec .heldConvertClass3 (stQ { r0 with handle := 5, held := some (.page, 6) } id) with | .next t => t.reqs.map (fun r => r.held.map (·.1)) | _ => []) =
    [some .error] := by decide +kernel

/-! ## L2, stacks, errors -/

/-- A line of L2 with two sectors written, of a lossless or a tolerant page of type 2. -/
def l2A (addr : Nat) (ct : Byte) (cap : Option (Fin 32)) : L2Line := ⟨3, addr, 15, 3, 3, 1, 0, 0, 0, cap, ct, false, []⟩
def stHr (h : Hier → Hier) (cs : DWord) (f : EvArg → EvArg) : State :=
  { w0 with hier := h Hier.reset, sys := { w0.sys with bootCfg := cs, errLog := 4 * 2 ^ 52 + 0x50000 }, arg := f { EvArg.none with n := 40, m := 3 } }
theorem ok_stHr (h : Hier → Hier) (cs : DWord) (f : EvArg → EvArg) : MemoryOk (stHr h cs f) := ok_st g0 crew0
theorem witness_CacheSteps : (∀ a ∈ [0x200000, 0x400000], ∀ ct ∈ ([0, 2] : List Byte), let v : Victim := ⟨l2A a ct none, 40⟩
      let s := stHr (fun h => { h with victims := [v], stks := h.stks.set 0 ⟨0, [2], [], false⟩ }) 0 id
      s.hier.victims.find? (fun x => x.slot = s.arg.n && x.line.slice.val = s.arg.m) = some v ∧ Memory.wf s.mem = true ∧ s.hier.line? v.line.addr = none ∧ v.line.fresh ≠ 0) ∧
    (let s := fun a => stHr (fun h => { h with victims := [⟨l2A a 2 none, 40⟩], stks := h.stks.set 0 ⟨0, [2], [], false⟩ }) 0 id;
      ((s 0x200000).isDead 0x200000, (s 0x400000).isDead 0x400000) = (false, true)) ∧
    (∀ cs ∈ ([0, 1] : List DWord), ∀ fl ∈ [true, false], let l := l2A 0x4000000800 0 (some 1)
      let s := stHr (fun h => { h with l2 := [l] }) cs fun a => { a with n := 0x4000000800, flag := fl }
      s.hier.line? s.arg.n = some l ∧ l.cap = some 1 ∧ (s.hier.ways l.slice s.arg.n).length ≤ 16 ∧ s.csize = cs.toNat) := by
  refine ⟨?_, by decide +kernel, ?_⟩
  · intro a ha ct hc
    simp only [List.mem_cons, List.not_mem_nil, or_false] at ha hc
    rcases ha with h | h <;> rcases hc with k | k <;> subst h <;> subst k <;> exact ⟨rfl, (ok_st g0 crew0).1, rfl, by decide⟩
  · intro a ha ct hc
    simp only [List.mem_cons, List.not_mem_nil, or_false] at ha hc
    rcases ha with h | h <;> rcases hc with k | k <;> subst h <;> subst k <;> exact ⟨rfl, rfl, by decide +kernel, rfl⟩
theorem test_victim : (match exec .l2VictimWriteback (stHr (fun h => { h with victims := [⟨l2A 0x200000 0 none, 40⟩] }) 0 id) with | .next t => t.hier.victims.length | _ => 9) = 0 := by
  decide +kernel
theorem test_sectorFill : (match exec .mscSectorFill (stHr id 1 id) with | .next t => t.hier.msc.map (fun x => (x.idx, x.valid, x.dirty, x.tag)) | _ => []) =
    [(40, true, false, 3)] := by decide +kernel
theorem test_writeThrough : (match exec .writeThroughPerform (stHr (fun h => { h with l2 := [l2A 0x4000000800 0 (some 1)] }) 0 fun a => { a with n := 0x4000000800 }) with
    | .next t => t.hier.l2.map (fun l => l.hold) | _ => []) = [0] := by decide +kernel

def r7 : Req := { r0 with effect := .load (.v 9) .b32 }
theorem witness_StackSteps : (let s := stHr id 0 fun a => { a with n := 5, flag := true }; s.arg.n = (5 : Fin 16).val) ∧
    (∀ p ∈ ([.dieSram 1, .hubSram, .l1 70, .l2 3, .hbm 15, .cap 2, .sector 0] : List EccPlace), let s := stHr id 0 fun a => { a with place := p, kind := .corrected, n := 0x600008 }
      MemoryOk s ∧ s.arg.kind = .corrected) ∧
    (∀ p ∈ ([.hbm 0, .l2 3, .hubSram] : List EccPlace), let s := { stHr (fun h => { h with l2 := [l2A 0x600000 0 none] }) 0 fun a => { a with place := p, kind := .uncorrectable, n := 0x600008 } with reqs := [r7] }
      s.arg.kind = .uncorrectable ∧ s.hier.line? (s.arg.n / 128 * 128) = some (l2A 0x600000 0 none) ∧ (l2A 0x600000 0 none).dirty.getLsbD (s.arg.n % 128 / 32) = true ∧ r7 ∈ s.reqs ∧ r7.cached = true ∧
      r7.line = s.arg.n / 128 * 128 ∧ r7.perfDone = false ∧ r7.held = none ∧ r7.fromL1 = false ∧ s.arg.n ∈ r7.bytes) ∧
    (Obl.deepPlace (.hbm 0) = true ∧ Obl.deepPlace .hubSram = false) ∧ (let s := stHr id 0 fun a => { a with place := .cap 0, kind := .retried }; s.arg.kind = .retried) ∧
    (∀ m ∈ [0, 49127], let s := stHr id 0 fun a => { a with n := 15, m := m }; Memory.wf s.mem = true ∧ (s.arg.m + 1) * 2 ^ 21 ≤ stackBytes s.csize) := by
  refine ⟨rfl, fun p _ => ⟨ok_stHr _ _ _, rfl⟩, ?_, by decide, rfl, ?_⟩
  · intro p hp
    simp only [List.mem_cons, List.not_mem_nil, or_false] at hp
    rcases hp with h | h | h <;> subst h <;> exact ⟨rfl, rfl, rfl, .head _, rfl, rfl, rfl, rfl, rfl, by decide +kernel⟩
  · intro m hm
    refine ⟨(ok_st g0 crew0).1, ?_⟩
    revert m; decide +kernel
def sysRun (i : Instr) (s : State) : Option Sys := match exec i s with | .next t => some t.sys | _ => none
def hierRun (i : Instr) (s : State) : Option Hier := match exec i s with | .next t => some t.hier | _ => none
theorem test_temp : (hierRun .stackTempCrossing (stHr id 0 fun a => { a with n := 5, flag := true })).map (fun h => ((h.stks[(5 : Fin 16)]).hot, (h.stks[(6 : Fin 16)]).hot)) = some (true, false) := by
  decide +kernel
/-- R378, R394 by hand: a corrected error of stack 15 counts there and is logged. -/
theorem test_ecc : (sysRun .eccError (stHr id 0 fun a => { a with place := .hbm 15, kind := .corrected, n := 0x1E00000000 })).map (fun x => (x.errcHbm[(15 : Fin 16)], x.errcHub, x.errWr)) = some (1, 0, 1) ∧
    (match exec .eccError { stHr id 0 (fun a => { a with place := .hbm 0, kind := .uncorrectable, n := 0x600008 }) with reqs := [r7] } with
      | .next t => t.reqs.map (fun r => r.held) | _ => []) = [some (.error, 0)] := by decide +kernel
theorem test_scrub_refresh : (match exec .hbmRefresh w0, exec .scrub w0 with | .next s, .next t => decide (s.mem = w0.mem ∧ t.mem = w0.mem) | _, _ => false) = true := by decide +kernel
/-- R305, R315 by hand: marking range 3 of stack 0 dead writes zero to a byte of it that L2 holds, and leaves the byte before it. -/
theorem test_dead_zero : (match exec .hbmDeadMark { stHr (fun h => { h with l2 := [l2A 0x600000 0 none] }) 0 (fun a => { a with n := 0, m := 3 }) with mem := [(0x5FFFFF, 1), (0x600008, 5)] } with
    | .next t => t.mem | _ => []) = [(0x5FFFFF, 1)] := by decide +kernel
theorem test_dead : (hierRun .hbmDeadMark (stHr id 0 fun a => { a with n := 15, m := 7 })).map (fun h => (h.stks[(15 : Fin 16)]).dead) = some [7] ∧
    (hierRun .hbmDeadLoad (stHr (fun h => { h with stks := h.stks.set 15 ⟨0, [7], [], false⟩ }) 0 fun a => { a with n := 15, m := 7 })).map (fun h => (h.stks[(15 : Fin 16)]).deadReg) =
      some 0x8000000000010007 := by decide +kernel

/-! ## Copies on their channels, launches, queues -/

def stCh (xs : List (Nat × Nat)) (rings : List RingEnt) (x : CopyCmd) (g : Gang) (flag : Bool) : State :=
  let s := stO g xs rings
  { s.setCc 2 { s.cc 2 with cmds := [x] } with
    time := { State.reset.time with now := 50 }, arg := { EvArg.none with core := 2, key := key0, req := 900, n := 3, m := 7, v := 1, flag := flag } }
theorem ok_stCh (xs : List (Nat × Nat)) (rings : List RingEnt) (x : CopyCmd) (g : Gang) (flag : Bool) (h : Memory.wf (cells xs) = true) :
    MemoryOk (stCh xs rings x g flag) := ok_setCc (s := stO g xs rings) 2 _ (ok_stO (xs := xs) g rings h)
/-- All slices have come in tick 10: 64 bytes, none. -/
def cmdT (len : Nat) : CopyCmd := { cmd0 with slices := 1, parts := [{ part0 with len := len }], complete := some (10, 0), dkind := 0 }
/-- Row 7, booked once to land, is due with its 32 bytes, alone or before row 8. -/
def row7 : CopyRow := ⟨7, 0, 32, 32, 30, 0, 0, [(0, List.replicate 32 0xAB)], [], 1, 0, 50, 0, [], 1⟩
def cmdL (kind ring done : Nat) (rest : List CopyRow) : CopyCmd :=
  { cmdT 64 with dkind := kind, chan := some 0, entry := false, rows := row7 :: rest, ring := ring, fillDone := done, landed := 32 }
def row8 : CopyRow := { row7 with no := 8, off := 64 }
theorem rowLands (xs : List (Nat × Nat)) (rings : List RingEnt) (kind ring done : Nat) (rest : List CopyRow) (h : rest = [] ∨ rest = [row8]) :
    Obl.RowLands (stCh xs rings (cmdL kind ring done rest) g0 false) (cmdL kind ring done rest) row7 rest { part0 with len := 64 } := by
  refine ⟨rfl, rfl, ?_, .inr ⟨rfl, rfl, rfl⟩,
    ⟨(fun h => by cases h), (by decide : (50 : Nat) ≠ 0), (by decide : (50 : Nat) ≤ 50), fun _ _ => Nat.zero_le _⟩, by decide, fun p _ q hq => ?_, rfl⟩
  · rcases h with h | h <;> subst h
    · intro y hy; cases hy
    · intro y hy
      cases hy with
      | head => decide
      | tail _ h => cases h
  · simp [State.req?, stCh, stO, stG, st, State.setArg, State.setCc, State.setCore, State.reset] at hq
/-- The same row to a partition, whose offset there is the last before its end, or past it. -/
def cmdPast (doff : Nat) : CopyCmd := { cmdL 1 0 0 [] with parts := [{ part0 with len := 64, doff := doff }] }
theorem witness_copy_past : ∀ doff ∈ [8128, 8160], let x := cmdPast doff
    let p := { part0 with len := 64, doff := doff }
    Obl.RowLands (stCh [] [] x g0 false) x row7 [] p ∧ (stCh [] [] x g0 false).crew? ⟨x.crew.launch, x.dcrew⟩ = some crew0 ∧
      decide (crew0.partLen < p.doff + row7.off + row7.len) = (doff == 8160) ∧ x.bv = false := by
  intro doff h
  refine ⟨⟨rfl, rfl, (fun y hy => by cases hy), .inr ⟨rfl, rfl, rfl⟩,
    ⟨(fun h => by cases h), (by decide : (50 : Nat) ≠ 0), (by decide : (50 : Nat) ≤ 50), fun _ _ => Nat.zero_le _⟩, by decide, fun p _ q hq => ?_, rfl⟩,
    rfl, ?_, rfl⟩
  · simp [State.req?, stCh, stO, stG, st, State.setArg, State.setCc, State.setCore, State.reset] at hq
  · revert doff; decide
theorem witness_CopySteps : (let x := cmdT 64; let g := { g0 with place := .store, hd := { Rec.reset with wake := 7 } }; let s := stCh [] [] x g true
      s.arg.flag = true ∧ s.cmd? s.arg.core (crewKeyOf s.arg.key) s.arg.n = some x ∧ s.arg.req = x.first ∧ s.gang? key0 = some g ∧ g.core = s.arg.core ∧ g.parked = true ∧ g.hd.key = none ∧ g.hd.kind ≠ 4) ∧
    (∀ n ∈ [64, 0], let x := cmdT n; let s := stCh [] [] x g0 false
      s.arg.flag = false ∧ (s.core 2).stopped = false ∧ x ∈ (s.cc 2).cmds ∧ s.cmd? 2 x.crew x.group.val = some x ∧ Obl.takable s 2 x ∧ (∀ y ∈ (s.cc 2).cmds, y ≠ x → ¬ Obl.takable s 2 y) ∧ x.dkind = 0 ∧ x.resume = false ∧
        (∀ y ∈ (s.cc 2).cmds, y.chan ≠ some 0)) ∧ (cmdT 64).cut ≠ [] ∧ (cmdT 0).cut = [] ∧
    (∀ k ∈ [0, 1], ∀ rest, rest = [] ∨ rest = [row8] → Obl.RowLands (stCh [] [] (cmdL k 0 0 rest) g0 false) (cmdL k 0 0 rest) row7 rest { part0 with len := 64 } ∧
      (stCh [] [] (cmdL k 0 0 rest) g0 false).crew? ⟨(cmdL k 0 0 rest).crew.launch, (cmdL k 0 0 rest).dcrew⟩ = some crew0 ∧ MemoryOk (stCh [] [] (cmdL k 0 0 rest) g0 false)) ∧
    (∀ f ∈ [0, 1], Obl.RowLands (stCh (ring0 f 0 0 0) ent0 (cmdL 2 64 64 []) g0 false) (cmdL 2 64 64 []) row7 [] { part0 with len := 64 }) ∧
    (let s := fun f => stCh (ring0 f 0 0 0) ent0 (cmdL 2 64 64 []) g0 false;
      ((s 0).ring crew0 64).slotFull (((s 0).ring crew0 64).fills % ((s 0).ring crew0 64).count) = false ∧ 64 + 32 < ((s 0).ring crew0 64).size ∧ MemoryOk (s 0) ∧
      ((s 1).ring crew0 64).slotFull (((s 1).ring crew0 64).fills % ((s 1).ring crew0 64).count) = true) := by
  refine ⟨⟨rfl, rfl, rfl, rfl, rfl, rfl, rfl, by decide⟩, ?_, by decide, by decide, ?_, fun f _ => rowLands _ _ _ _ _ _ (.inl rfl), by decide +kernel, by decide +kernel, ok_stCh _ _ _ _ _ (by decide +kernel),
    by decide +kernel⟩
  · intro n hn
    exact ⟨rfl, rfl, .head _, rfl, ⟨rfl, rfl, (10, 0), rfl, .inl (by decide : 10 < 50)⟩,
      (by intro y hy hn; cases hy with | head => exact absurd rfl hn | tail _ h => cases h), rfl, rfl, by intro y hy; cases hy with | head => (intro h; cases h) | tail _ h => cases h⟩
  · intro k _ rest h
    exact ⟨rowLands _ _ _ _ _ _ h, rfl, ok_stCh _ _ _ _ _ rfl⟩
def cmdRun (i : Instr) (s : State) : Option (Bool × Option (Fin 8) × Bool × Nat × Bool) :=
  match exec i s with | .next t => ((t.cc 2).cmds.head?).map fun x => (x.entry, x.chan, x.done, x.landed, x.holding) | _ => none
theorem test_channel : cmdRun .channelTakeCommand (stCh [] [] (cmdT 64) g0 true) = some (false, none, false, 0, false) ∧
    cmdRun .channelTakeCommand (stCh [] [] (cmdT 0) g0 false) = some (true, none, true, 0, false) := by decide +kernel
/-- R224, R227 by hand: the row goes to offset 0x800 + 32 of the partition, or to the ring slot behind the 64 bytes that came before. -/
theorem test_row : (match exec .copyRowLanding (stCh [] [] (cmdL 1 0 0 []) g0 false) with | .next t => memBytes (t.core 2).spad (4096 + 0x800 + 32) 32 | _ => []) = List.replicate 32 0xAB ∧
    (match exec .copyRowLanding (stCh (ring0 0 0 0 0) ent0 (cmdL 2 64 64 []) g0 false) with | .next t => memBytes (t.core 2).spad (4096 + 256 + 64) 32 | _ => []) = List.replicate 32 0xAB ∧
    cmdRun .copyRowLanding (stCh (ring0 1 0 0 0) ent0 (cmdL 2 64 64 []) g0 false) = some (false, some 0, false, 32, true) := by
  refine ⟨?_, ?_, ?_⟩ <;> decide +kernel

/-- A launch record of two crews of two gangs with 16 registers, 4 barrier slots and 128 bytes of scratchpad; REV 2 makes it one that the hub rejects. -/
def launchRec (a rev : Nat) : List (Nat × Nat) :=
  [(a, rev * 2 ^ 56 + 0x1000), (a + 8, 0x0000000100010002), (a + 16, 2 * 2 ^ 48 + 2 ^ 40 + 4 * 2 ^ 8), (a + 24, 128), (a + 40, 7 * 2 ^ 52)]
/-- With page tables that map 0x200000 to 0x600000. -/
def dws1 (rev : Nat) : List (Nat × Nat) :=
  dws0 ++ launchRec 0x90000 rev ++ [(0x100000, 0x101001), (0x101000, 0x102001), (0x102008, 0x600003)] ++ launchRec 0x600000 rev
def stLa (rev : Nat) (q : List Queue) : State :=
  { w0 with gangs := [], crews := [], mem := cells (dws1 rev), queues := { w0.queues with resident := q }, arg := { EvArg.none with ctx := 7, n := 0x90000 } }
/-- A dispatch queue with one record: of kind 1 that names buffer 1, or of a kind that there is not. -/
def qDis (k : Word) : Queue := ⟨7, 2, .ready, [⟨#v[k, 1, 5, 6, 9, 50, 60, 70], 0⟩], 3, 3, [], 0⟩
theorem witness_PlacementSteps_launch : (stLa 1 []).slices.length < 1024 ∧
    ([1, 2].map fun v => (Slice.ofRecord 7 (recordOfBytes (memBytes (stLa v []).mem (stLa v []).arg.n 256))).reason) = [0, 1] ∧
    (∀ x ∈ ([(1, 1, 0, 0), (1, 2, 0, 1), (3, 1, 13, 1)] : List (Nat × Nat × Nat × Nat)), let q := qDis (BitVec.ofNat 32 x.1); let s := stLa x.2.1 [q]
      s.own.taking ≤ s.now ∧ (firstBy headBefore s.dispatchHeads).map (fun y => (y.1.handle, y.2)) = some (2, #v[BitVec.ofNat 32 x.1, 1, 5, 6, 9, 50, 60, 70]) ∧ s.ctx? q.ctx = some ctx0 ∧
      (s.usableQueue ctx0 q.handle).isSome = true ∧ ∀ d ∈ s.usableQueue ctx0 q.handle, (let z := State.formLaunch ((s.setOwn { s.own with taking := s.now + 1 }).takeHead d { q with used := s.now } s.now) ctx0 d #v[BitVec.ofNat 32 x.1, 1, 5, 6, 9, 50, 60, 70]; z.2.1 = x.2.2.1 ∧ (x.1 = 1 → z.1.reason = x.2.2.2))) := by
  refine ⟨by decide, by decide +kernel, ?_⟩
  intro x hx
  simp only [List.mem_cons, List.not_mem_nil, or_false] at hx
  rcases hx with h | h | h <;> subst h <;> exact ⟨by decide, by decide +kernel, rfl, by decide +kernel, by decide +kernel⟩
def launchRun (i : Instr) (s : State) : Option (List (LaunchId × CtxId × Bool × Vector Word 3) × Option DWord) :=
  match exec i s with | .next t => some (t.slices.map fun l => (l.id, l.ctx, l.fallback, l.args), (t.ctx? 7).map fun c => c.evWrite) | _ => none
theorem test_submit : (launchRun .stewardLaunchSubmit (stLa 1 [])).map (·.1) = some [(0, 7, true, #v[0, 0, 0])] ∧ (launchRun .stewardLaunchSubmit (stLa 2 [])).map (·.2) = some (some 1) := by
  refine ⟨?_, ?_⟩ <;> decide +kernel
/-- R407 by hand: the loader's two bytes lie at offset 0x800 of buffer 1 before the record is read. -/
theorem test_load : (match exec .stewardLaunchSubmit { stLa 2 [] with arg := { (stLa 2 []).arg with pairs := [(2 ^ 48 + 0x800, 2)], bytes := [5, 6] } } with
    | .next t => (memBytes t.mem 0x600800 2, (t.hier.line? 0x600800).isSome) | _ => ([], false)) = ([5, 6], true) := by decide +kernel
theorem test_dispatch : (launchRun .dispatchTake (stLa 1 [qDis 1])).map (·.1) = some [(0, 7, true, #v[50, 60, 70])] ∧ (launchRun .dispatchTake (stLa 1 [qDis 3])).map (·.2) = some (some 1) := by
  refine ⟨?_, ?_⟩ <;> decide +kernel

/-- The second crew of that launch is to be placed: by fall-back from core 0 on, or by affinity to the span of cores 0 to 3. -/
def sliceP (aff : Nat) : Slice :=
  { Slice.ofRecord 7 (recordOfBytes (memBytes (cells (launchRec 0x90000 1)) 0x90000 256)) with id := 6, nextCrew := 1, fallback := aff = 0, tries := 63, record := (recordOfBytes (memBytes (cells (launchRec 0x90000 1)) 0x90000 256)).set 4 (BitVec.ofNat 64 aff) }
def stPl8 (aff : Nat) (on : Option CtxId) : State :=
  { w0 with gangs := [], crews := [], slices := [sliceP aff], cores := State.reset.cores.set 2 { core0 with active := on }, arg := { EvArg.none with launch := 6, n := 1 } }
theorem noReaders (aff : Nat) (on : Option CtxId) (k : CoreId) (n : EvReg) : (((stPl8 aff on).cc k).ev[n]).readers = [] := by
  have h : ∀ k : CoreId, ((stPl8 aff on).core k).cc = CoreCtx.reset := by
    intro k
    simp only [stPl8, State.core, Fin.getElem_fin, Vector.getElem_set]
    split
    · rfl
    · simp [State.reset, Core.reset]
  show (((stPl8 aff on).core k).cc.ev[n]).readers = []
  rw [h k]
  simp [CoreCtx.reset]
  rfl
theorem placing (aff : Nat) (on : Option CtxId) (h : (sliceP aff).crewSize ≤ 32)
    (h1 : (stPl8 aff on).slices.filter (fun x => x.nextCrew < x.crews) = [sliceP aff]) : Obl.Placing (stPl8 aff on) (sliceP aff) := by
  refine ⟨Nat.le_refl 0, (fun c hc => by cases hc), h1, rfl, (fun g hg => by cases hg), h, fun k n x hx => ?_⟩
  rw [noReaders aff on k n] at hx
  cases hx
theorem witness_PlacementSteps_place : (Obl.Placing (stPl8 0 (some 7)) (sliceP 0) ∧ (sliceP 0).fallback = true ∧ Obl.tries (sliceP 0) 2 = 2 ∧ (stPl8 0 (some 7)).passes (sliceP 0) 2 = true ∧
      ∀ j < 2, (stPl8 0 (some 7)).passes (sliceP 0) (Obl.tries (sliceP 0) j) = false) ∧
    (Obl.Placing (stPl8 1 none) (sliceP 1) ∧ (sliceP 1).fallback = false ∧ (sliceP 1).tries = 63 ∧ (sliceP 1).aff = true ∧ (sliceP 1).nextCrew = (stPl8 1 none).arg.n ∧
      (stPl8 1 none).slice? (stPl8 1 none).arg.launch = some (sliceP 1) ∧ ∀ i < 4, (stPl8 1 none).passes (sliceP 1) (Obl.tries (sliceP 1) i) = false) ∧
    (Obl.Placing (stPl8 1 (some 7)) (sliceP 1) ∧ (sliceP 1).tries < 64 ∧ Obl.tries (sliceP 1) 2 = 2 ∧ (stPl8 1 (some 7)).passes (sliceP 1) 2 = true ∧
      (∀ j < 2, (stPl8 1 (some 7)).passes (sliceP 1) (Obl.tries (sliceP 1) j) = false) ∧ (stPl8 1 none).own.placing ≤ (stPl8 1 none).now) ∧
    (let s := { w0 with gangs := [], arg := { EvArg.none with key := key0 } }; s.crew? (crewKeyOf s.arg.key) = some crew0 ∧ s.crewIdle crew0.key = true ∧ crew0.resident = true ∧ 0 < crew0.partLen ∧
      ∀ j ∈ s.crews, j.key ≠ crew0.key → j.key.launch ≠ crew0.key.launch) ∧
    (let s := { w0 with arg := { EvArg.none with core := 2, n := 4096, m := 8192 } }.setCore 2 { core0 with zeroing := [(4096, 8192)] }; MemoryOk s ∧ (s.arg.n, s.arg.m) ∈ (s.core s.arg.core).zeroing) :=
  ⟨⟨placing _ _ (by decide +kernel) (by decide +kernel), rfl, by decide +kernel, by decide +kernel, by decide +kernel⟩, ⟨placing _ _ (by decide +kernel) (by decide +kernel), rfl, by decide, by decide +kernel, rfl, rfl, by decide +kernel⟩,
    ⟨placing _ _ (by decide +kernel) (by decide +kernel), by decide, by decide +kernel, by decide +kernel, by decide +kernel, Nat.le_refl 0⟩,
    ⟨rfl, by decide +kernel, rfl, by decide, by decide +kernel⟩, ok_setCore (s := { w0 with arg := _ }) 2 _ (ok_st g0 crew0) rfl, .head _⟩
/-- R85 to R90 by hand: crew 1 lands on core 2; gang 1's s0 to s3 are its crew's index, its own, 2 and 2; lane 5 of its v0 is 37. -/
def placed : State := match exec .crewPlacement (stPl8 0 (some 7)) with | .next t => t | _ => w0
theorem test_placement : placed.crews.map (fun c => (c.core, c.index, c.partLen, c.bars)) = [(2, 1, 128, 4)] ∧
    (placed.gang? ⟨6, 1, 1⟩).map (fun g => (List.range 5).map fun i => vget g.s i) = some [1, 1, 2, 2, 0] ∧ (placed.gang? ⟨6, 1, 1⟩).map (fun g => (g.v[(0 : VReg)])[(5 : Fin 32)]) = some 37 := by
  refine ⟨?_, ?_, ?_⟩ <;> decide +kernel
theorem test_fallback : (match exec .affinityFallback (stPl8 1 none) with | .next t => t.slices.map (·.fallback) | _ => []) = [true] := by decide +kernel
theorem test_retire : (match exec .crewRetire { w0 with gangs := [], arg := { EvArg.none with key := key0 } } with | .next t => (t.crews.length, (t.core 2).zeroing) | _ => (9, [])) = (0, [(4096, 8192)]) := by
  decide +kernel
theorem test_zero : (match exec .partitionZeroDone (State.setCore { w0 with arg := { EvArg.none with core := 2, n := 4096, m := 8192 } } 2 { core0 with zeroing := [(4096, 8192)], spad := [(4095, 1), (4096, 2), (12287, 3), (12288, 4)] }) with
    | .next t => ((t.core 2).spad, (t.core 2).zeroing) | _ => ([], [])) = ([(4095, 1), (12288, 4)], []) := by decide +kernel

/-- A request in the queue unit's slot at tick 50, and the resident queues. -/
def rQ (op : QueueOp) : Req := { req0 with id := 3, ctx := 7, effect := .queue op 1, perf := 50, tracked := true }
def w8 : Vector Word 8 := #v[2, 10, 11, 12, 13, 14, 15, 16]
def stU (rs : List Req) (qs : List Queue) (f : EvArg → EvArg) : State :=
  { w0 with reqs := rs, queues := { w0.queues with resident := qs }, time := { State.reset.time with now := 50 }, arg := f { EvArg.none with req := 3, ctx := 7, handle := 1 } }
/-- Queue 1 of 64 records: with resident records, HEAD and TAIL, waiters. -/
def qD (recs : List QRec) (head tail : Word) (waiters : List Nat) : Queue := ⟨7, 1, .ready, recs, head, tail, waiters, 0⟩
def x8 : QRec := ⟨w8, 0⟩
theorem rk1 : ∃ d, w0.qdesc ctx0 1 = some d ∧ d.rk = 6 := ⟨_, rfl, by decide +kernel⟩
theorem ctx7 : w0.ctx? 7 = some ctx0 := rfl
theorem inSlot (op : QueueOp) (rs : List Req) (qs : List Queue) : ∃ d, Obl.InSlot (stU (rQ op :: rs) qs id) (rQ op) op 1 d ∧ d.rk = 6 := by
  obtain ⟨d, hd, hr⟩ := rk1
  exact ⟨d, ⟨⟨rfl, rfl⟩, rfl, rfl, ⟨rfl, rfl, rfl, rfl⟩, ctx0, ctx7, hd⟩, hr⟩
theorem noEarlier (qs : List Queue) : Obl.firstPush (stU [rQ (.push w8), { rQ (.pop 9) with id := 9 }] qs id) (rQ (.push w8)) 1 := by
  intro x hx hlt
  rcases List.mem_cons.mp hx with h | h
  · subst h; exact absurd hlt (by decide : ¬ (3 : Nat) < 3)
  · rcases List.mem_cons.mp h with h | h
    · subst h; exact absurd hlt (by decide : ¬ (9 : Nat) < 3)
    · cases h
theorem witness_QueueSteps_push : (∀ q ∈ [qD [] 5 5 [], qD [x8] 5 5 [], qD [] 5 6 [], qD (List.replicate 32 x8) 5 5 [], qD [] 5 5 [9], qD [] 0xFFFFFFF0 0x30 []],
      let rs := [{ rQ (.pop 9) with id := 9 }]
      (∃ d, Obl.InSlot (stU (rQ (.push w8) :: rs) [q] id) (rQ (.push w8)) (.push w8) 1 d ∧ d.rk = 6) ∧
      (stU (rQ (.push w8) :: rs) [q] id).readyQueue? 7 1 = some q ∧ Obl.firstPush (stU (rQ (.push w8) :: rs) [q] id) (rQ (.push w8)) 1 ∧
      (stU (rQ (.push w8) :: rs) [q] id).req? 9 = some { rQ (.pop 9) with id := 9 }) ∧
    ([qD [] 5 5 [], qD [x8] 5 5 [], qD [] 5 6 [], qD (List.replicate 32 x8) 5 5 [], qD [] 5 5 [9], qD [] 0xFFFFFFF0 0x30 []].map fun q => decide (q.count < 64)) =
      [true, true, true, true, true, false] := by
  refine ⟨?_, by decide +kernel⟩
  intro q hq
  simp only [List.mem_cons, List.not_mem_nil, or_false] at hq
  rcases hq with h | h | h | h | h | h <;> subst h <;>
    exact ⟨inSlot _ _ _, rfl, noEarlier _, rfl⟩
theorem witness_QueueSteps_words : (∀ op ∈ ([.push w8, .pop 9, .peek 9, .len 9, .pin, .unpin] : List QueueOp), (∃ d, Obl.InSlot (stU [rQ op] [] id) (rQ op) op 1 d ∧ d.rk = 6) ∧
      (stU [rQ op] [] id).readyQueue? 7 1 = none ∧ (stU [rQ op] [] id).queue? 7 1 = none) ∧
    (∀ op ∈ ([.pop 9, .peek 9, .len 9] : List QueueOp), ∀ q ∈ [qD [x8] 5 5 [], qD [] 5 5 []], (∃ d, Obl.InSlot (stU [rQ op] [q] id) (rQ op) op 1 d ∧ d.rk = 6) ∧
      (stU [rQ op] [q] id).readyQueue? 7 1 = some q ∧ (stU [rQ op] [q] id).queues.resident.foldl (fun n z => n + z.waiters.length) 0 < 4096 ∧
      ∀ y ∈ (stU [rQ op] [q] id).reqs, y.onQueue 7 1 = true → y.pushes = true → y.held = none) ∧ x8.due ≤ 50 ∧
    ((stU [rQ .pin] [] id).queues.pins.length < 448 ∧ 448 ≤ (List.replicate 448 ((9, 9) : CtxId × QHandle)).length ∧ ((7, 1) : CtxId × QHandle) ∉ List.replicate 448 ((9, 9) : CtxId × QHandle)) := by
  refine ⟨?_, ?_, by decide, by decide, by decide, by decide⟩
  · intro op _; exact ⟨inSlot _ _ _, rfl, rfl⟩
  · intro op ho q hq
    simp only [List.mem_cons, List.not_mem_nil, or_false] at ho hq
    rcases ho with h | h | h <;> rcases hq with k | k <;> subst h <;> subst k <;> exact ⟨inSlot _ _ _, rfl, by decide, by decide⟩
theorem witness_QueueSteps_host : ((stU [] [] id).ctx? 7 = some ctx0 ∧ (∃ d, (stU [] [] id).usableQueue ctx0 1 = some d ∧ d.hostw = false) ∧ (∃ d, (stU [] [] id).usableQueue ctx0 3 = some d ∧ d.hostw = true)) ∧
    (∀ q ∈ [qD [] 5 5 [], qD [] 0xFFFFFFF0 0x30 []], let s := stU [] [q] fun a => { a with write := true, words := w8 };
      s.arg.write = true ∧ (∀ x ∈ s.queues.hostWait, x.1 ≠ 7 ∨ x.2.1 ≠ 1) ∧ s.readyQueue? 7 1 = some q ∧ Memory.wf s.mem = true) ∧
    (stU [] [] id).readyQueue? 7 1 = none ∧
    (let q := qD [x8, ⟨w8, 40⟩, ⟨w8, 60⟩] 5 5 []; let s := stU [] [q] fun a => { a with m := 40 };
      s.queue? s.arg.ctx s.arg.handle = some q ∧ q.recs = [x8] ++ ⟨w8, 40⟩ :: [⟨w8, 60⟩] ∧ ∀ y ∈ [x8], y.due ≠ s.arg.m) ∧
    (let s := { stU [] [] id with queues := { w0.queues with wanted := [(7, 1)] }, sys := { w0.sys with ready := 2 ^ 38 } };
      s.sys.ready.getLsbD 38 = true ∧ s.arg.flag = false ∧ s.queues.wanted = [(7, 1)] ∧ s.queue? 7 1 = none ∧ s.queues.resident.length < 512 ∧ s.ctx? 7 = some ctx0 ∧ (s.qdesc ctx0 1).isSome = true) ∧
    (let q := { qD [] 0 0 [] with phase := .reading }; let s := stU [{ rQ (.pop 9) with held := some (.queue, 1) }] [q] id;
      s.queue? s.arg.ctx s.arg.handle = some q ∧ s.ctx? s.arg.ctx = some ctx0 ∧ (s.qdesc ctx0 s.arg.handle).isSome = true) := by
  refine ⟨⟨rfl, ⟨_, rfl, by decide +kernel⟩, ⟨_, rfl, by decide +kernel⟩⟩, ?_, rfl, ⟨rfl, rfl, by decide⟩, ⟨by decide, rfl, rfl, rfl, by decide, rfl, by decide +kernel⟩, rfl, rfl, by decide +kernel⟩
  intro q hq
  simp only [List.mem_cons, List.not_mem_nil, or_false] at hq
  rcases hq with h | h <;> subst h <;> exact ⟨rfl, (fun x hx => by cases hx), rfl, ok_dws0⟩
/-- The reply has come to the gang that waits for it: refused or not, a value or a ticket. -/
def rP (op : QueueOp) (no site : Bool) : Req := { rQ op with reply := 50, refused := if no then some (0x0D, 1) else none, site := site, got := [(0, natLe 8 77)] }
def stY (i : Instr) (r : Req) : State :=
  { stO (gP i 3) [] [] with reqs := [r], time := { State.reset.time with now := 50 }, arg := { EvArg.none with key := key0 } }
theorem witness_QueueSteps_reply : ∀ x ∈ ([(.qbindPin 0 1, .pin, true, false), (.qbind 0 1, .unpin, false, false), (.qpush 0 20 1 9, .push w8, true, false), (.qpush 0 20 1 9, .push w8, false, false),
      (.qpop 0 21 1 6, .pop 21, false, false), (.qpop 0 21 1 6, .pop 21, false, true), (.qpeek 0 21 1 2, .peek 21, false, false), (.qlen 0 11 1, .len 11, false, false)] :
      List (Instr × QueueOp × Bool × Bool)), let r := rP x.2.1 x.2.2.1 x.2.2.2; let u := stY x.1 r
    Obl.AtPass u (gP x.1 3) e0 { c0 with next := 0x1008 } crew0 x.1 0x1004 ∧ (∃ y, Obl.queueWord (fun _ _ => 0) x.1 = some y) ∧ u.ctx? (gP x.1 3).ctx = some ctx0 ∧
      u.req? (gP x.1 3).opnd.toNat = some r ∧ r.reply ≤ u.now ∧ r.effect = .queue x.2.1 1 ∧ (x.2.2.1 = true → r.refused = some (0x0D, 1)) ∧ (x.2.2.1 = false → r.refused = none) ∧
      (gP x.1 3).inHandler = false ∧ u.handlerOf (gP x.1 3) ≠ 0 := by
  intro x hx
  simp only [List.mem_cons, List.not_mem_nil, or_false] at hx
  rcases hx with h | h | h | h | h | h | h | h <;> subst h <;>
    exact ⟨⟨rfl, rfl, rfl, rfl, by decide, rfl, rfl, rfl⟩, ⟨_, rfl⟩, rfl, rfl, Nat.le_refl 50, rfl, by decide, by decide, rfl, by decide +kernel⟩
def unitRun (i : Instr) (s : State) : Option Queues := match exec i s with | .next t => some t.queues | _ => none
/-- R335, R341 to R343 by hand. -/
theorem test_push : (unitRun .queueUnitRequest (stU [rQ (.push w8)] [qD [x8] 5 5 []] id)).map (fun q => q.resident.map fun z => (z.recs.length, z.tail)) = some [(2, 5)] ∧
    (unitRun .queueUnitRequest (stU [rQ (.push w8)] [qD [] 5 6 []] id)).map (fun q => q.resident.map fun z => (z.recs.length, z.tail)) = some [(0, 7)] := by decide +kernel
theorem test_pop : (unitRun .queueUnitRequest (stU [rQ (.pop 9)] [qD [x8] 5 5 []] id)).map (fun q => q.resident.map fun z => (z.recs.length, z.waiters)) = some [(0, [])] ∧
    (unitRun .queueUnitRequest (stU [rQ (.pop 9)] [qD [] 5 5 []] id)).map (fun q => q.resident.map fun z => (z.recs.length, z.waiters)) = some [(0, [3])] := by decide +kernel
theorem test_pin_len : (unitRun .queueUnitRequest (stU [rQ .pin] [] id)).map (·.pins) = some [(7, 1)] ∧
    (match exec .queueUnitRequest (stU [rQ (.len 9)] [qD [x8, x8] 5 5 []] id) with | .next t => t.reqs.map (fun r => r.got) | _ => []) = [[(0, [2, 0, 0, 0, 1, 0, 0, 0])]] := by decide +kernel
theorem test_hostPush : (sysRun .hostQueuePush (stU [] [] id)).map (·.pushLog) = some 1 ∧
    (unitRun .queueUnitRequest (stU [] [] fun a => { a with write := true, words := w8 })).map (·.hostWait) = some [(7, 1, w8)] := by decide +kernel
theorem test_refill : (unitRun .queueRefillLanding (stU [] [qD [⟨w8, 40⟩] 5 5 []] fun a => { a with n := 0x8000, m := 40 })).map (fun q => q.resident.map fun z => z.recs.map fun y => (y.words[0], y.due)) =
    some [[(0x4000, 0)]] := by decide +kernel
theorem test_swapIn : (unitRun .queueSwapIn { stU [] [] id with queues := { w0.queues with wanted := [(7, 1)] }, sys := { w0.sys with ready := 2 ^ 38 } }).map (fun q => (q.wanted.length, q.resident.map (·.phase))) =
      some (0, [.reading]) ∧
    (unitRun .queueSwapInDone (stU [] [{ qD [] 0 0 [] with phase := .reading }] id)).map (fun q => q.resident.map (·.phase)) = some [.ready] := by decide +kernel

/-! ## Contexts and migration -/

/-- The records of context 7, of context 8, which was created, and of context 9 with a reserved field set. -/
def ctx1 : Ctx := { ctx0 with record := ctx0.record.set 8 0x0000000100000001 }
def recAt (a : Nat) (r : Vector DWord 16) : List (Nat × Nat) := (List.range 16).map fun i => (a + 8 * i, (vget r i).toNat)
def rec8 : Vector DWord 16 := ctx0.record.set 0 0x1008000000004000
def dws2 : List (Nat × Nat) := recAt 0x8000 ctx1.record ++ recAt 0x8080 rec8 ++ recAt 0x8100 ((rec8.set 0 0x1009000000004000).set 15 1)
/-- Core 2 as given, its gangs and crews, and device time 5000. -/
def stK (co : Core) (gs : List Gang) (cs : List Crew) (f : EvArg → EvArg) : State :=
  { w0 with gangs := gs, crews := cs, ctxs := [ctx1], mem := cells dws2, cores := State.reset.cores.set 2 co, time := { State.reset.time with now := 5000 }
            sys := { w0.sys with ctxCmd := 0x8000000000000001 }, arg := f { EvArg.none with core := 2, ctx := 7, key := key0 } }
theorem ok_dws2 : Memory.wf (cells dws2) = true := by decide +kernel
theorem ok_stK (co : Core) (gs : List Gang) (cs : List Crew) (f : EvArg → EvArg) (h : Memory.wf co.spad = true) : MemoryOk (stK co gs cs f) :=
  ok_core (s := State.reset) 2 co ok_reset h ok_dws2
theorem refresh1 : ctx1.refresh (cells dws2) = ctx1 := by
  have h : (ctx1.refresh (cells dws2)).record = ctx1.record := by decide +kernel
  show { ctx1 with record := (ctx1.refresh (cells dws2)).record } = ctx1
  rw [h]
theorem ctxK (co : Core) (gs : List Gang) (cs : List Crew) (f : EvArg → EvArg) : (stK co gs cs f).ctx? 7 = some ctx1 := by
  show some (ctx1.refresh (cells dws2)) = some ctx1
  rw [refresh1]
theorem coreK (co : Core) (gs : List Gang) (cs : List Crew) (f : EvArg → EvArg) (k : CoreId) (h : k ≠ 2) : (stK co gs cs f).core k = Core.reset := by
  have h3 : (2 : Nat) ≠ k.val := fun e => h (Fin.ext e).symm
  simp [stK, State.core, State.reset, h3]
theorem witness_ContextSwitches_in : (∀ x ∈ [((8, 0x8080) : CtxId × Nat), (7, 0), (9, 0x8100)], let s := stK core0 [g0] [crew0] fun a => { a with ctx := x.1, n := x.2 }
      ((1 ≤ bits (Obl.incoming s)[0] 63 60 ∧ bits (Obl.incoming s)[0] 63 60 ≤ 3) ∧ bits (Obl.incoming s)[0] 59 48 = x.1.toNat) ∧ s.arg.flag = false) ∧
    (∀ s : State, s.ctxs = [ctx1] → ∀ x : CtxId, ∀ c, s.ctx? x = some c → c.killing = false) ∧
    ¬ Obl.wanted (stK core0 [g0] [crew0] fun a => { a with ctx := 8, n := 0x8200 }) ∧
    ([((8, 0x8080) : CtxId × Nat), (7, 0), (9, 0x8100)].map fun x => let s := stK core0 [g0] [crew0] fun a => { a with ctx := x.1, n := x.2 }
      (s.ctxValid (Obl.incoming s), decide ((s.core 2).active = some x.1), decide ((s.core 2).swap = none), decide ((s.core 2).spill = none))) =
      [(true, false, true, true), (true, true, true, true), (false, false, true, true)] ∧
    (let s := stK { core0 with swap := some ⟨none, true⟩ } [g0] [crew0] fun a => { a with ctx := 8, n := 0x8080 }; (s.core 2).active ≠ some 8 ∧ (s.core 2).swap ≠ none) := by
  refine ⟨by decide +kernel, ?_, ?_, by decide +kernel, by decide⟩
  · intro s h x c hc
    simp only [State.ctx?, h, List.find?, Option.map_eq_some_iff] at hc
    obtain ⟨y, hy, rfl⟩ := hc
    split at hy
    · cases hy; rfl
    · cases hy
  · intro h
    exact absurd h.1.1 (by decide +kernel)
theorem witness_ContextSwitches_out : (let s := stK core0 [g0] [crew0] id; s.arg.flag = false ∧ (s.core 2).active ≠ none ∧ (s.core 2).swap = none ∧ (s.core 2).spill = none) ∧
    (let s := stK { core0 with active := none } [] [] id; (s.core 2).active = none) ∧
    (let s := stK { core0 with swap := some ⟨none, true⟩ } [g0] [crew0] id; (s.core 2).swap = some ⟨none, true⟩ ∧ (s.core 2).stopped = false) := by decide
/-- A gang between two clauses. -/
def gI : Gang := { g0 with sel := none, clause := none, front := [e0] }
theorem witness_ContextSwitches_exchange : (∀ w ∈ ([⟨none, true⟩, ⟨some 8, true⟩] : List Switch), ∀ g ∈ [g0, gI], let s := stK { core0 with swap := some w, stopped := true } [g] [crew0] id
      (s.core 2).swap = some w ∧ (s.core 2).active = some 7 ∧ s.gang? key0 = some g ∧ g.core = 2 ∧ g.ctx = 7 ∧ g.resident = true ∧ (∀ z ∈ s.gangs, z.key = key0 → z = g)) ∧
    ((Obl.halting (stK { core0 with swap := some ⟨none, true⟩ } [g0] [crew0] id) 2).quiet 2, (Obl.halting (stK { core0 with swap := some ⟨none, true⟩ } [gI] [crew0] id) 2).quiet 2) =
      (false, true) ∧
    ((stK { core0 with swap := some ⟨none, true⟩ } [g0] [crew0] id).gangsStopped 2, (stK { core0 with swap := some ⟨none, true⟩ } [gI] [crew0] id).gangsStopped 2) = (false, true) ∧
    (∀ j, j ≠ 2 → ((stK { core0 with swap := some ⟨none, true⟩ } [gI] [crew0] id).core j).active ≠ some 7) := by
  refine ⟨?_, by decide +kernel, by decide +kernel, fun j h => by rw [coreK _ _ _ _ j h]; decide⟩
  intro w hw g hg
  simp only [List.mem_cons, List.not_mem_nil, or_false] at hw hg
  rcases hw with h | h <;> rcases hg with k | k <;> subst h <;> subst k <;>
    exact ⟨rfl, rfl, rfl, rfl, rfl, rfl, fun z hz _ => by cases hz with | head => rfl | tail _ h => cases h⟩
def gS : Gang := { gI with place := .saved 0, hd := { Rec.reset with kind := 3 } }
theorem witness_ContextSwitches_spill : (∀ rs ∈ [[], [{ req0 with id := 3, effect := .load (.v 9) .b32 }]], let s := { stK { core0 with active := none, spill := some ⟨7, 4000, true⟩ } [gS] [crew0] id with reqs := rs }
      (s.core 2).spill = some ⟨7, 4000, true⟩ ∧ 4000 ≤ s.now ∧ s.ctx? 7 = some ctx1 ∧ ctx1.killing = false ∧ gS ∈ s.gangs ∧ gS.core = 2 ∧ gS.ctx = 7 ∧ gS.place = .saved 0 ∧
        Memory.wf s.mem = true ∧ s.awaited gS.key = !rs.isEmpty) ∧
    (let s := stK core0 [] [{ crew0 with held := true, resident := false }] fun a => { a with n := 0x180000 };
      MemoryOk s ∧ s.freeRun 2 s.arg.n = none ∧ s.crews.filter (fun c => c.core = 2 && c.held) = [{ crew0 with held := true, resident := false }]) := by
  refine ⟨?_, ok_stK _ _ _ _ rfl, by decide +kernel, rfl⟩
  intro rs h
  simp only [List.mem_cons, List.not_mem_nil, or_false] at h
  rcases h with h | h <;> subst h <;> exact ⟨rfl, (by decide : 4000 ≤ 5000), ctxK { core0 with active := none, spill := some ⟨7, 4000, true⟩ } [gS] [crew0] id, rfl, .head _, rfl, rfl, rfl, ok_dws2, rfl⟩
theorem witness_ContextSwitches_rest : (∀ k ∈ ([.mzero, .mldA 1 32] : List LapKind), let o := { lapOp0 k with req := 3, finish := 0 }
      let s := { stK core0 [g0] [crew0] id with reqs := [{ req0 with id := 3, effect := .engine 5 }] }.setLap 2 { lap0 with ops := [o] }
      (s.lap 2).ops = [o] ∧ o.finish = 0 ∧ s.req? o.req = some { req0 with id := 3, effect := .engine 5 }) ∧
    (∀ n ∈ [3000, 4500], let s := stK { core0 with hangMark := n } [g0] [crew0] id
      (s.core 2).active = some s.arg.ctx ∧ s.ctx? s.arg.ctx = some ctx1 ∧ ctx1.hangLimit = 1024 ∧ g0 ∈ s.gangs ∧ g0.core = 2 ∧ g0.ctx = ctx1.id ∧ ∀ a, g0.place ≠ .saved a) ∧
    (∀ n ∈ [3000, 4500], let s := stK { core0 with active := none, spill := some ⟨7, n, true⟩ } [] [] id
      (s.core 2).spill = some ⟨7, n, true⟩ ∧ s.ctx? 7 = some ctx1 ∧ ctx1.spillLimit = 1024) := by
  refine ⟨?_, ?_, ?_⟩
  · intro k hk
    simp only [List.mem_cons, List.not_mem_nil, or_false] at hk
    rcases hk with h | h <;> subst h <;> exact ⟨rfl, rfl, rfl⟩
  · intro n _; exact ⟨rfl, ctxK _ _ _ _, by decide +kernel, .head _, rfl, rfl, fun a h => by cases h⟩
  · intro n _; exact ⟨rfl, ctxK _ _ _ _, by decide +kernel⟩
def coreRun (i : Instr) (s : State) : Option (Option CtxId × Option Switch × Option Spill × Bool × Bool) :=
  match exec i s with | .next t => some ((t.core 2).active, (t.core 2).swap, (t.core 2).spill.map (fun p => ⟨p.ctx, 0, p.cmd⟩), (t.core 2).stopped, bits t.sys.ctxCmd 63 63 = 1) | _ => none
theorem test_switchIn : coreRun .ctxSwitchIn (stK core0 [g0] [crew0] fun a => { a with ctx := 8, n := 0x8080 }) = some (some 7, some ⟨some 8, true⟩, none, false, true) ∧
    coreRun .ctxSwitchIn (stK core0 [g0] [crew0] id) = some (some 7, none, none, false, false) := by refine ⟨?_, ?_⟩ <;> decide +kernel
theorem test_switchOut : coreRun .ctxSwitchOut (stK core0 [g0] [crew0] id) = some (some 7, some ⟨none, true⟩, none, false, true) ∧
    coreRun .preloadDone (stK { core0 with swap := some ⟨none, true⟩ } [g0] [crew0] id) = some (some 7, some ⟨none, true⟩, none, true, true) := by refine ⟨?_, ?_⟩ <;> decide +kernel
theorem test_spill : (match exec .spillDone (stK { core0 with active := none, spill := some ⟨7, 4000, true⟩ } [gS] [crew0] id) with
    | .next t => (t.gangs.map (fun g => decide (g.place = .saved 0x1A40000)), bits t.sys.ctxCmd 63 56) | _ => ([], 9)) = ([true], 0) := by decide +kernel
theorem test_watchdogs : (match exec .hangWatchdogExpiry (stK { core0 with hangMark := 3000 } [g0] [crew0] id) with | .next t => (t.ctx? 7).map fun c => c.evWrite | _ => none) = some 1 ∧
    (match exec .spillWatchdogExpiry (stK { core0 with active := none, spill := some ⟨7, 3000, true⟩ } [] [] id) with | .next t => (t.core 2).spill.isNone | _ => false) = true := by
  refine ⟨?_, ?_⟩ <;> decide +kernel
theorem test_scratchpadSpill : (match exec .scratchpadSpill (stK { core0 with spad := [(4096, 9)] } [] [{ crew0 with held := true, resident := false }] fun a => { a with n := 0x180000 }) with
    | .next t => (t.crews.map (·.held), memGet t.mem (0x1000000 + 2 * 2 ^ 22 + 0x100000 + 4096)) | _ => ([], 0)) = ([false], 9) := by decide +kernel
theorem test_lapidaryRestore : (match exec .lapidaryRestore ({ stK core0 [g0] [crew0] id with reqs := [{ req0 with id := 3, effect := .engine 5 }] }.setLap 2 { lap0 with ops := [{ lapOp0 .mzero with req := 3, finish := 0 }] }) with
    | .next t => (t.lap 2).ops.map fun o => o.finish - o.begin | _ => []) = [32] := by decide +kernel

theorem witness_ContextCommands_kill : (∀ (x : CtxId), x ≠ 7 → (stK core0 [g0] [crew0] fun a => { a with ctx := x }).ctx? x = none) ∧
    ((stK core0 [g0] [crew0] id).ctx? 7 = some ctx1 ∧ (ctx1.state, ctx1.killing) = (2, false)) ∧
    ((stK { core0 with active := none } [gS] [crew0] id).ctxAnywhere 7, (stK core0 [g0] [crew0] id).ctxAnywhere 7) = (false, true) ∧
    ((stK core0 [g0] [crew0] id).core 2).active = some 7 := by
  refine ⟨?_, ⟨ctxK core0 [g0] [crew0] id, by decide +kernel⟩, by decide +kernel, rfl⟩
  intro x h
  simp [State.ctx?, stK, ctx1, ctx0]
  exact fun e => h e.symm
/-- A halted gang, as a record. -/
def gHalt : Gang := { gI with place := .store, hd := { Rec.reset with kind := 4 }, trap := some trap0 }
theorem witness_ContextCommands : (let s := stK core0 [g0] [crew0] id; s.crew? (crewKeyOf s.arg.key) = some crew0 ∧ crew0.ctx = s.arg.ctx) ∧
    (let s := stK core0 [g0] [crew0] fun a => { a with ctx := 9 }; s.crew? (crewKeyOf s.arg.key) = some crew0 ∧ crew0.ctx ≠ s.arg.ctx) ∧
    (let s := stK core0 [g0] [] id; s.crew? (crewKeyOf s.arg.key) = none) ∧
    (∀ g ∈ [g0, gHalt, { gHalt with hd := { gHalt.hd with bad := true } }], let s := stK core0 [g] [crew0] id; s.gang? s.arg.key = some g ∧ g.ctx = s.arg.ctx ∧ ∀ a, g.place ≠ .saved a) ∧
    (gHalt.hd.kind = 4 ∧ gHalt.hd.bad = false ∧ gHalt.parked = true ∧ g0.hd.kind ≠ 4) ∧
    (∀ x ∈ ([(false, 40), (true, 100), (true, 130)] : List (Bool × Nat)), let l := { slice0 with spent := x.1, count := x.2 }
      let s := { stK core0 [g0] [crew0] (fun a => { a with launch := 1, v := 20 }) with slices := [l] }; s.slice? s.arg.launch = some l ∧ l.limited = true ∧ l.budget.toNat + s.arg.v.toNat = 120) ∧
    (∀ f, let s := stK core0 [g0] [crew0] fun a => { a with flag := f, n := 1 }; s.ctx? s.arg.ctx = some ctx1 ∧ s.arg.flag = f) ∧
    (∀ x ∈ ([([], false), ([{ req0 with id := 3, ctx := 7, handle := 1, home := .hbm 0 0 false }], true)] : List (List Req × Bool)),
      let s := { stK core0 [g0] [crew0] (fun a => { a with n := 1 }) with reqs := x.1 }; s.onHandle s.arg.ctx s.arg.n = x.2) ∧
    (let s := stK core0 [g0] [crew0] fun a => { a with core := 3 }; s.crew? (crewKeyOf s.arg.key) = some crew0 ∧ crew0.ctx = s.arg.ctx ∧ s.arg.core ≠ crew0.core ∧ crew0.mig = none ∧
      crew0.resident = true ∧ crew0.killed = false) ∧
    (let s := stK core0 [g0] [crew0] id; s.arg.core = crew0.core) := by
  refine ⟨⟨rfl, rfl⟩, ⟨rfl, by decide⟩, rfl, ?_, by decide, ?_, fun f => ⟨ctxK core0 [g0] [crew0] fun a => { a with flag := f, n := 1 }, rfl⟩, by decide +kernel, ⟨rfl, rfl, by decide, rfl, rfl, rfl⟩, rfl⟩
  · intro g hg
    simp only [List.mem_cons, List.not_mem_nil, or_false] at hg
    rcases hg with h | h | h <;> subst h <;> exact ⟨rfl, rfl, fun a h => by cases h⟩
  · intro x hx
    simp only [List.mem_cons, List.not_mem_nil, or_false] at hx
    rcases hx with h | h | h <;> subst h <;> exact ⟨rfl, rfl, rfl⟩
def ansRun (i : Instr) (s : State) : Option Nat := match exec i s with | .next t => some (bits t.sys.ctxCmd 63 56) | _ => none
/-- R356 by hand: the answers 0, 1 and 2; GO stays while a kill, a revocation or a migration goes on. -/
theorem test_commands : (ansRun .ctxKillCrew (stK core0 [g0] [crew0] id), ansRun .ctxKillCrew (stK core0 [g0] [] id), ansRun .ctxResumeGang (stK core0 [gHalt] [crew0] id),
      ansRun .ctxResumeGang (stK core0 [g0] [crew0] id), ansRun .revokeDone (stK core0 [g0] [crew0] id)) = (some 0, some 1, some 0, some 2, some 0) := by decide +kernel
theorem test_migrate : (ansRun .ctxMigrateCrew (stK core0 [g0] [crew0] fun a => { a with core := 3 }), ansRun .ctxMigrateCrew (stK core0 [g0] [crew0] id),
      ansRun .ctxMigrateCrew (stK core0 [g0] [{ crew0 with killed := true }] fun a => { a with core := 3 })) = (some 0, some 1, some 2) := by decide +kernel
theorem test_kill : (ansRun .ctxKill (stK core0 [g0] [crew0] id), ansRun .ctxKill (stK core0 [g0] [crew0] fun a => { a with ctx := 9 })) = (some 0x80, some 1) := by decide +kernel
theorem test_raise : (match exec .ctxRaiseBudget { stK core0 [g0] [crew0] (fun a => { a with launch := 1, v := 20 }) with slices := [{ slice0 with spent := true, count := 100 }] } with
    | .next t => t.slices.map fun l => (l.budget, l.spent) | _ => []) = [(120, false)] := by decide +kernel
theorem test_revoke : (match exec .ctxRevokeRecord (stK core0 [g0] [crew0] fun a => { a with flag := true, n := 1 }) with | .next t => t.ctxs.map (·.revoked) | _ => []) = [[1]] ∧
    ansRun .ctxReinstateRecord (stK core0 [g0] [crew0] fun a => { a with flag := true, n := 1 }) = some 0 := by refine ⟨?_, ?_⟩ <;> decide +kernel

/-- A crew that has been asked to move, that stops, that moves. -/
def crewM (m : MigStage) : Crew := { crew0 with mig := some ⟨3, 5, m, 4000⟩ }
/-- Core 2 is armed with limit 90. -/
def coreT : Core := { core0 with armed := true, limit := 90 }
def stT (co : Core) (co3 : Core) (gs : List Gang) (c : Crew) (f : EvArg → EvArg) : State := { (stK co gs [c] f).setCore 3 co3 with slices := [slice0] }
theorem witness_MigrationSteps : (∀ x ∈ ([(true, 95), (true, 89), (false, 95)] : List (Bool × Nat)), let s := stT { coreT with armed := x.1 } { Core.reset with active := some 7 } [g0] crew0 fun a => { a with n := x.2 }
      s.arg.pairs = [] ∧ s.arg.n < 256 ∧ (s.core 2).armed = x.1 ∧ (s.core 2).limit = 90 ∧ (s.core 2).active = some 7) ∧ ctx1.noMig = false ∧
    (let s := stT coreT { Core.reset with active := some 7 } [g0] crew0 fun a => { a with n := 95 }
     let u := s.setCore 2 { s.core 2 with temp := BitVec.ofNat 8 95, armed := false }
     s.ctx? 7 = some ctx1 ∧ u.crewsOn 2 = [crew0] ∧ crew0.mig = none ∧ crew0.killed = false ∧ u.crew? crew0.key = some crew0 ∧ u.thermalTarget crew0 = some 3) ∧
    (∀ m ∈ ([.asked, .stopping, .moving] : List MigStage), let s := stT core0 { Core.reset with active := some 7 } [g0] (crewM m) fun a => { a with ticket := 5 }
      s.crew? (crewKeyOf s.arg.key) = some (crewM m) ∧ (crewM m).mig = some ⟨3, 5, m, 4000⟩ ∧ (5 : Word) = s.arg.ticket ∧ (crewM m).resident = true) ∧
    (let s := fun g => stT core0 { Core.reset with active := some 7 } [g] (crewM .stopping) id;
      let u := fun g => if ((s g).lap 2).last = some crew0.key && (s g).crewStopped (crewM .stopping) then (s g).haltLapidary 2 .migration else s g
      ((u g0).mayMove (crewM .stopping) 3, (u { gI with place := .store }).mayMove (crewM .stopping) 3) = (false, true)) ∧
    (let s := stT core0 { Core.reset with active := some 7 } [{ gI with place := .moving }] (crewM .moving) fun a => { a with core := 3, n := 0, m := 8192 }
     (crewM .moving).core ≠ s.arg.core ∧ s.arg.m = runBytes (crewM .moving).partLen ∧ MemoryOk s ∧ ∀ i, memGet (s.core s.arg.core).spad (s.arg.n + i) = 0) := by
  refine ⟨?_, by decide +kernel, ⟨ctxK coreT [g0] [crew0] (fun a => { a with n := 95 }), by decide +kernel, rfl, rfl, rfl, by decide +kernel⟩, fun m _ => ⟨rfl, rfl, rfl, rfl⟩, by decide +kernel, by decide, by decide,
    ok_setCore (s := stK core0 [{ gI with place := .moving }] [crewM .moving] fun a => { a with core := 3, n := 0, m := 8192 }) 3 { Core.reset with active := some 7 } (ok_stK _ _ _ _ rfl) rfl,
    fun i => rfl⟩
  intro x hx
  simp only [List.mem_cons, List.not_mem_nil, or_false] at hx
  rcases hx with h | h | h <;> subst h <;> exact ⟨rfl, by decide, rfl, rfl, rfl⟩
def migRun (i : Instr) (s : State) : Option (List (CoreId × Option (CoreId × MigStage))) :=
  match exec i s with | .next t => some (t.crews.map fun c => (c.core, c.mig.map fun m => (m.target, m.stage))) | _ => none
theorem test_thermal : migRun .thermalThresholdCrossing (stT coreT { Core.reset with active := some 7 } [g0] crew0 fun a => { a with n := 95 }) = some [(2, some (3, .stopping))] ∧
    migRun .thermalThresholdCrossing (stT coreT { Core.reset with active := some 7 } [g0] crew0 fun a => { a with n := 89 }) = some [(2, none)] := by refine ⟨?_, ?_⟩ <;> decide +kernel
theorem test_sensor : (match exec .sensorReadsBelowTherm (stT { coreT with armed := false } Core.reset [g0] crew0 fun a => { a with n := 89 }) with
    | .next t => ((t.core 2).temp, (t.core 2).armed) | _ => (0, false)) = (89, true) := by decide +kernel
theorem test_migration : migRun .migrationRefused (stT core0 Core.reset [g0] (crewM .asked) fun a => { a with ticket := 5 }) = some [(2, none)] ∧
    migRun .migrationRemap (stT core0 { Core.reset with active := some 7 } [{ gI with place := .moving }] (crewM .moving) fun a => { a with core := 3, n := 0, m := 8192 }) = some [(3, none)] := by
  refine ⟨?_, ?_⟩ <;> decide +kernel

/-! ## Power, clocks, start-up, ports, registers -/

/-- Device time in period 5, core 2 as given. -/
def stPw (now : Nat) (p : Power → Power) (f : EvArg → EvArg) : State :=
  { w0 with time := { State.reset.time with now := now }, power := p w0.power, arg := f EvArg.none }
/-- A trade of 100 W for 4 periods from period 8 on. -/
def trade0 (giver firm : Bool) : Trade := ⟨3, giver, 6, 100, 8, 4, !giver, firm⟩
theorem quietPower (n p : Nat) : Power.reset.least n p = n ∧ Power.reset.most n p = n := by
  simp [Power.least, Power.most, tradeSum, Power.reset]
theorem witness_PowerSteps_periods : (∀ n ∈ [1500, 4000], (stPw 10000000 id fun a => { a with v := BitVec.ofNat 64 n }).now / 2000000 + 1 < 2 ^ 48 ∧ 1500 ≤ n ∧ n ≤ 4000) ∧
    (∀ n p : Nat, 1500 ≤ n → n ≤ 4000 → 1500 ≤ (stPw 10000000 id id).power.least n p ∧ (stPw 10000000 id id).power.most n p ≤ 4000) ∧
    ((10000000 : Nat) % 2000000 = 0 ∧ (10000001 : Nat) % 2000000 ≠ 0) ∧ ¬ (1500 ≤ 1499 ∧ 1499 ≤ 4000) ∧
    (∀ p : Nat, 1500 + ((100 : Nat) : Int) ≤ (stPw 10000000 (fun w => { w with licNext := 1600 }) id).power.least 1600 p) := by
  refine ⟨by decide, fun n p h1 h2 => ?_, by decide, by decide, fun p => ?_⟩
  · show 1500 ≤ Power.reset.least n p ∧ Power.reset.most n p ≤ 4000
    rw [(quietPower n p).1, (quietPower n p).2]
    omega
  · show 1500 + ((100 : Nat) : Int) ≤ Power.reset.least 1600 p
    rw [(quietPower 1600 p).1]
    decide
theorem witness_PowerSteps_trades : (∀ g : Bool, ∀ now ∈ [13999999, 14000000, 15999999, 16000000], (stPw now (fun w => { w with trades := [trade0 g false] }) fun a => { a with n := 3, ticket := 6 }).tradeOf g = some (trade0 g false)) ∧
    ((13999999 : Nat) < (8 - 1) * 2000000 ∧ (8 - 1) * 2000000 ≤ (14000000 : Nat) ∧ (15999999 : Nat) < 8 * 2000000 ∧ 8 * 2000000 ≤ (16000000 : Nat) ∧ (trade0 true false).first.toNat = 8) ∧
    (let s := stPw 10000000 id fun a => { a with n := 3, ticket := 6, v := 8, pairs := [(100, 4)] }; s.arg.pairs = [(100, 4)] ∧ s.arg.n < 256) ∧
    (∀ n ∈ [0, 21], (stPw 10000000 id fun a => { a with n := n }).arg.n = n ∧ n < 22) := by decide
theorem witness_PowerSteps_throttle : (∀ m ∈ [1, 2, 3, 4], let s := stPw 10000000 (fun w => { w with step := w.step.set 0 3 }) fun a => { a with n := 0, m := m }; 1 ≤ m ∧ m ≤ 4 ∧ m ≤ s.power.step[(0 : Fin 22)] + 1) ∧
    (let s := stPw 10000000 id fun a => { a with n := 0, m := 2 }; s.power.step[(0 : Fin 22)] + 1 < s.arg.m) ∧
    (let s := (stPw 10000000 id fun a => { a with n := 0, m := 3 }).setLap 2 { lap0 with ops := [lapOp0 .mzero] }; (s.lap 2).ops = [lapOp0 .mzero] ∧ (dieOf 2).val = 0) ∧
    (∀ r ∈ (stPw 10000000 id id).reqs, r.slots = []) := by
  refine ⟨by decide, by decide, ⟨rfl, by decide⟩, by decide⟩
theorem noCmds (now : Nat) (p : Power → Power) (f : EvArg → EvArg) (k : CoreId) : ((stPw now p f).cc k).cmds = [] := by
  by_cases h : (2 : Nat) = k.val
  · have : k = 2 := Fin.ext h.symm
    subst this; rfl
  · simp [stPw, w0, st, State.cc, State.core, State.reset, h, Core.reset, CoreCtx.reset]
theorem noMons (now : Nat) (p : Power → Power) (f : EvArg → EvArg) (k : CoreId) : ((stPw now p f).cc k).mons = [] := by
  by_cases h : (2 : Nat) = k.val
  · have : k = 2 := Fin.ext h.symm
    subst this; rfl
  · simp [stPw, w0, st, State.cc, State.core, State.reset, h, Core.reset, CoreCtx.reset]
/-- The bytes that a log would write are watched by no monitor. -/
theorem witness_unwatched (now : Nat) (p : Power → Power) (f : EvArg → EvArg) (a n : Nat) : Obl.Unwatched (stPw now p f) a n := by
  intro k m hm
  rw [noMons now p f k] at hm
  cases hm
def powRun (i : Instr) (s : State) : Option (List (Bool × Bool) × BitVec 16 × BitVec 16 × DWord × List Nat) :=
  match exec i s with | .next t => some (t.power.trades.map (fun x => (x.giver, x.firm)), t.power.eff, t.power.licNext, t.power.tokWr, t.power.step.toList.take 2) | _ => none
/-- R364, R367, R368 by hand: at the start of period 8 the firm trade of 100 W received is in force, the one that was not committed is stranded. -/
theorem test_period : powRun .tokenPeriodBoundary (stPw 16000000 (fun w => { w with licNext := 1600, trades := [trade0 false true, trade0 false false] }) id) =
    some ([(false, true)], 1700, 1600, 3, [0, 0]) := by decide +kernel
theorem test_offers : (powRun .tokOffer (stPw 10000000 (fun w => { w with licNext := 1600 }) fun a => { a with v := 0x0064000400030003 })).map (fun x => (x.1, x.2.2.2.1)) = some ([(true, false)], 1) ∧
    (powRun .tokenOfferReceived (stPw 10000000 id fun a => { a with n := 3, ticket := 6, v := 8, pairs := [(100, 4)] })).map (fun x => (x.1, x.2.2.2.1)) = some ([(false, false)], 1) ∧
    (powRun .tokenAckReceived (stPw 13999999 (fun w => { w with trades := [trade0 true false] }) fun a => { a with n := 3, ticket := 6 })).map (·.1) = some [(true, true)] ∧
    (powRun .tokenAckReceived (stPw 14000000 (fun w => { w with trades := [trade0 true false] }) fun a => { a with n := 3, ticket := 6 })).map (·.1) = some [] := by
  refine ⟨?_, ?_, ?_, ?_⟩ <;> decide +kernel
/-- R4, R368 by hand: bits 31 to 24 of the write of an offer are ignored. -/
theorem test_offer_reserved : (match exec .tokOffer (stPw 10000000 (fun w => { w with licNext := 1600 }) fun a => { a with v := 0x00640004FF030003 }) with
    | .next t => (t.power.offer, t.power.trades.length) | _ => (0, 9)) = (0x0064000400030003, 1) := by decide +kernel
theorem test_commit : (powRun .tokenCommitReceived (stPw 15999999 (fun w => { w with trades := [trade0 false false] }) fun a => { a with n := 3, ticket := 6 })).map (·.1) = some [(false, true)] ∧
    (powRun .tokenCommitReceived (stPw 16000000 (fun w => { w with trades := [trade0 false false] }) fun a => { a with n := 3, ticket := 6 })).map (·.1) = some [] ∧
    (powRun .tokenRefuseReceived (stPw 13000000 (fun w => { w with trades := [trade0 true false] }) fun a => { a with n := 3, ticket := 6 })).map (·.1) = some [] := by
  refine ⟨?_, ?_, ?_⟩ <;> decide +kernel
theorem test_licence : (powRun .pwrStatLicWrite (stPw 10000001 id fun a => { a with v := 4000 })).map (fun x => x.2.2.1) = some 4000 ∧
    (powRun .pwrStatLicWrite (stPw 10000001 id fun a => { a with v := 4001 })).map (fun x => x.2.2.1) = some 1500 := by refine ⟨?_, ?_⟩ <;> decide +kernel
/-- R366, R247 by hand: gated for 10 clocks from the next clock on, an operation that was to start in the fifth starts in the eleventh. -/
theorem test_gate : (let s := stPw 10000000 (fun w => { w with step := w.step.set 0 2 }) fun a => { a with n := 0, m := 3, v := 10 }
    let c := s.clock 2
    match exec .throttle (s.setLap 2 { lap0 with ops := [{ lapOp0 .mzero with begin := c + 5, finish := c + 37 }] }) with
    | .next t => ((t.lap 2).gateTill - c, (t.lap 2).ops.map fun (o : LapOp) => (o.begin - c, o.finish - o.begin)) | _ => (0, [])) = (10, [(11, 32)]) := by decide +kernel
theorem test_throttle : (powRun .throttle (stPw 10000000 id fun a => { a with n := 1, m := 1 })).map (fun x => x.2.2.2.2) = some [0, 1] ∧
    (powRun .throttle (stPw 10000000 id fun a => { a with n := 1, m := 2 })).map (fun x => x.2.2.2.2) = some [0, 0] := by refine ⟨?_, ?_⟩ <;> decide +kernel

/-- CLK_STEP and steps of device time. -/
def stTime (x : Clocks → Clocks) (f : EvArg → EvArg) : State := { w0 with time := x { State.reset.time with now := 50000 }, arg := f EvArg.none }
theorem witness_ClockSteps : (([(0x1800000000011170, true), (0x180000000001116F, false), (0x3900000000011170, false)] : List (DWord × Bool)).all fun x =>
      decide (20000 ≤ (stTime id fun a => { a with v := x.1 }).dist (x.1.extractLsb' 0 56) ∧ (x.1.extractLsb' 56 6).toNat ≤ 56) == x.2) = true ∧
    (∀ x ∈ ([(0x580000000000C351, 24, true), (0x580000000000C352, 24, false), (0x980000000000C351, 24, false), (0x580000000000C351, 25, false)] : List (DWord × Nat × Bool)),
      let s := stTime (fun t => { t with clkStep := x.1 }) fun a => { a with n := x.2.1 }; let v := s.time.clkStep
      s.arg.flag = false ∧ decide (v.extractLsb' 62 2 = 1 ∧ (v.extractLsb' 56 6).toNat = s.arg.n ∧ s.dist (v.extractLsb' 0 56) ≤ 1) = x.2.2) ∧
    (let s := stTime id fun a => { a with flag := true, n := 24, m := 5 }; s.arg.flag = true ∧ s.arg.n < 64 ∧ ∀ r ∈ s.reqs, r.clk = 0) ∧
    (let s := stTime (fun t => { t with clkStep := 0x580000000000C350 }) fun a => { a with flag := true, n := 24, m := 15 }; let v := s.time.clkStep
      s.arg.flag = true ∧ v.extractLsb' 62 2 = 1 ∧ (v.extractLsb' 56 6).toNat = s.arg.n ∧ s.dist (v.extractLsb' 0 56) ≤ 0) ∧
    (([(200000, true), (200001, false), (0xFFFCF2C0, true), (0xFFFCF2BF, false)] : List (Word × Bool)).all fun x =>
      decide (-200000 ≤ x.1.toInt ∧ x.1.toInt ≤ 200000) == x.2) = true ∧
    (let s := stTime (fun t => { t with steps := 7 }) id; s.time.steps ≠ 0 ∧ (s.core 2).active ≠ none) := by decide +kernel
theorem witness_ClockSteps_frequency (x : Clocks → Clocks) (f : EvArg → EvArg) (k : CoreId) : ((stTime x f).cc k).cmds = [] := noCmds 0 id id k
theorem witness_ClockSteps_idle : ∀ k, (({ State.reset with time := { State.reset.time with steps := 7 } } : State).core k).active = none ∧
    (({ State.reset with time := { State.reset.time with steps := 7 } } : State).cc k).mons = [] := by
  intro k
  simp [State.cc, State.core, State.reset, Core.reset, CoreCtx.reset]
def timeRun (i : Instr) (s : State) : Option (DWord × List (BitVec 6 × Nat) × Word × Nat × Nat) :=
  match exec i s with | .next t => some (t.time.clkStep, t.time.dies.toList.map (fun d => (d.freq, d.hold)), t.time.rate, t.time.steps, t.now) | _ => none
theorem test_clock_arm : (timeRun .clkStepArm (stTime id fun a => { a with v := 0x1800000000011170 })).map (·.1) = some 0x5800000000011170 ∧
    (timeRun .clkStepArm (stTime id fun a => { a with v := 0x180000000001116F })).map (·.1) = some 0x980000000001116F := by refine ⟨?_, ?_⟩ <;> decide +kernel
theorem test_frequency : (timeRun .frequencyStep (stTime id fun a => { a with flag := true, n := 24, m := 1 })).map (fun x => x.2.1.take 2) =
      some [(24, 50065), ((State.reset.time.dies[(1 : Fin 4)]).freq, (State.reset.time.dies[(1 : Fin 4)]).hold)] ∧
    (timeRun .frequencyHoldEnd (stTime (fun t => { t with clkStep := 0x580000000000C350 }) fun a => { a with flag := true, n := 24, m := 15 })).map (·.1) = some 0xD80000000000C350 := by
  refine ⟨?_, ?_⟩ <;> decide +kernel
theorem test_slew : (timeRun .timeAdjSlew (stTime id fun a => { a with v := 0x40000000FFFCF2C0 })).map (fun x => x.2.2.1) = some 0xFFFCF2C0 ∧
    (timeRun .timeAdjSlew (stTime id fun a => { a with v := 0x40000000FFFCF2BF })).map (fun x => x.2.2.1) = some 0 := by refine ⟨?_, ?_⟩ <;> decide +kernel
theorem test_step : (timeRun .timeAdjStep (stTime id fun a => { a with v := 0x8000000000000009 })).map (fun x => x.2.2.2) = some (9, 50000) ∧
    (timeRun .forwardStepApply { State.reset with time := { State.reset.time with steps := 7, now := 100 } }).map (fun x => x.2.2.2) = some (0, 107) := by refine ⟨?_, ?_⟩ <;> decide +kernel
theorem test_ptp : (match exec .ptpEventTimestamp (stTime id fun a => { a with flag := true }) with | .next t => (t.time.ptpIn, t.time.ptpOut) | _ => (0, 0)) = (50000, 0) := by decide +kernel

def stSy (y : Sys → Sys) (f : EvArg → EvArg) : State := { stTime id f with sys := y w0.sys }
theorem witness_SystemSteps : (∀ n ∈ [2, 40], let s := stSy id fun a => { a with n := n }; n < 3 ∨ 39 < s.arg.n) ∧
    (∀ n ∈ [3, 39], let s := stSy (fun y => { y with ready := 0 }) fun a => { a with n := n }; 3 ≤ s.arg.n ∧ s.arg.n ≤ 39 ∧ s.sys.ready.getLsbD s.arg.n = false ∧ s.sys.ready.getLsbD 63 = false ∧
      ∀ r ∈ s.reqs, r.held = none) ∧
    ((stSy id id).sys.ready.extractLsb' 7 16 ≠ (0 : BitVec 16) ∧ (stSy (fun y => { y with ready := 0x3F }) id).sys.ready.extractLsb' 7 16 = (0 : BitVec 16)) ∧
    (let s := stSy (fun y => { y with nonces := [5] }) id; s.sys.nonces = 5 :: []) ∧ (stSy id id).sys.nonces = [] ∧
    (∀ n ∈ [0, 7], ∀ f, (stSy id fun a => { a with n := n, flag := f }).arg.n = n) ∧ (2 : Nat) ≠ 1 := by decide +kernel
def sysOf (i : Instr) (y : Sys → Sys) (f : EvArg → EvArg) : Option Sys := match exec i (stSy y f) with | .next t => some t.sys | _ => none
theorem test_resets : [Instr.powerOnReset, .fundamentalReset].map (fun i => (sysOf i (fun y => { y with bootNext := 0x510002 }) id).map fun y => (y.bootCfg, y.fabId, y.ready)) =
      [some (0x510002, 0x51, 0), some (0x510002, 0x51, 0)] ∧
    (sysOf .powerOnReset id fun a => { a with flag := true }).map (fun y => (y.ready, (y.boxes[(0 : Fin 8)]).bell, y.msix)) = some (0x8000000000000000, 0x80000004, 1) ∧
    (sysOf .lifecycleChange id fun a => { a with n := 2 }).map (·.lc) = some 2 := by refine ⟨?_, ?_, ?_⟩ <;> decide +kernel
theorem test_ready : (sysOf .readyBitRise (fun y => { y with ready := 0 }) fun a => { a with n := 39 }).map (·.ready) = some 0x8000000000 ∧
    (sysOf .bootcfgWrite (fun y => { y with ready := 0 }) fun a => { a with v := 0xFFFFFFFFFFFFFF04 }).map (·.bootNext) = some 0xFF0104 := by refine ⟨?_, ?_⟩ <;> decide +kernel
theorem test_attest : (sysOf .attestationRequest id fun a => { a with wide := 9 }).map (·.nonces) = some [9] ∧
    (sysOf .attestationReportSigned (fun y => { y with nonces := [9, 4] }) id).map (fun y => (y.nonces, y.reports)) = some ([4], 1) := by refine ⟨?_, ?_⟩ <;> decide +kernel
/-- R6, R389 by hand: a set in the tick of a clear wins. -/
theorem test_mailbox : (sysOf .mailboxDoorbellSet id fun a => { a with n := 7, flag := true }).map (fun y => ((y.boxes[(7 : Fin 8)]).bell, y.msix)) = some (0x80000000, 0x80) ∧
    (sysOf .mailboxDoorbellClear (fun y => { y with boxes := y.boxes.set 7 { (y.boxes[(7 : Fin 8)]) with bell := 0xC0000001, hostAt := 50000, devAt := 7 } })
      fun a => { a with n := 7, v := 0xC0000000 }).map (fun y => (y.boxes[(7 : Fin 8)]).bell) = some 0x80000001 := by refine ⟨?_, ?_⟩ <;> decide +kernel

/-- The host's aperture maps page 1 to 0x40000000; peer 3 may read and write 4 KiB at 0x600000, and do atomics. -/
def sysP (y : Sys) : Sys := { y with aperture := [(1, 0x40000000)], exports := [⟨3, 7, 0x600000, 0x1000, true, true, true⟩], links := 1, ready := 0x1FFFFF8, route := y.route.set 3 1, errLog := 4 * 2 ^ 52 + 0x50000 }
def peerArg (w at_ : Bool) (v : DWord) (m : Nat) (bs : List Byte) (a : EvArg) : EvArg := { a with n := 3, ctx := 7, v := v, m := m, bytes := bs, write := w, flag := at_ }
theorem witness_PortSteps_host : (let s := stSy sysP fun a => { a with req := 1, pairs := [(2, 0)], n := 0x8000, m := 4 }; s.arg.req = 1 ∧ s.arg.pairs = (2, 0) :: []) ∧
    (∀ x ∈ ([(0x40000040, [1, 2], true, some 0x40000040), (0x80000000, [1], true, none), (0x40000040, [], false, some 0x40000040), (0, [], false, none)] : List (Nat × List Byte × Bool × Option Nat)),
      let s := stSy sysP fun a => { a with n := x.1, bytes := x.2.1, write := x.2.2.1, m := 8 }; s.arg.req ≠ 1 ∧ (s.arg.write = true → 0 < s.arg.bytes.length) ∧ s.arg.n % 128 + 64 ≤ 128 ∧
        s.apertureOf s.arg.n = x.2.2.2) := by decide +kernel
theorem witness_PortSteps_peer : (∀ x ∈ ([(true, false, 0x600FF8, 8), (false, false, 0x600FF8, 8), (false, true, 0x600FF8, 8), (false, true, 0x600FFA, 4)] : List (Bool × Bool × Nat × Nat)),
      Obl.admitted (stSy sysP (peerArg x.1 x.2.1 (BitVec.ofNat 64 x.2.2.1) x.2.2.2 (List.replicate 8 1))) x.2.2.2 ∧ x.2.2.1 % 128 + 8 ≤ 130) ∧
    (¬ Obl.admitted (stSy sysP (peerArg false false 0x600FFC 8 [])) 8 ∧ (0x600FFA : Nat) % 4 ≠ 0 ∧ (0x600FF8 : Nat) % 8 = 0) ∧
    (let s := stSy sysP fun a => { a with req := 1, flag := true, n := 0x600008, m := 4, pairs := [(0, 5), (6, 0)] }; Memory.wf s.mem = true ∧ s.arg.pairs = (0, 5) :: (6, 0) :: []) := by
  unfold Obl.admitted
  decide +kernel
def rH (h : Home) : Req := { r0 with home := h, effect := .load (.v 9) .b32, prom := 50000, path := [{ stageX with res := .fabOut 0, done := 500 }], slots := [⟨.fabOut 5, 49000, 1⟩] }
theorem witness_PortSteps_requests : (∀ h ∈ ([.host, .peer 3, .peer 4] : List Home), let s := { stSy sysP (fun a => { a with req := 3 }) with reqs := [rH h] }
      MemoryOk s ∧ s.req? s.arg.req = some (rH h) ∧ (rH h).held = none ∧ s.arg.flag = false ∧ (rH h).perfDone = false ∧ (rH h).outside = true ∧ (rH h).prom ≤ s.now ∧
        ∀ x ∈ s.reqs, ∀ d ∈ x.after, d.1 ≠ (rH h).id) ∧
    ((stSy sysP id).linkTo 3 = some 0 ∧ (stSy sysP id).linkTo 4 = none) := by
  refine ⟨?_, by decide +kernel⟩
  intro h hh
  simp only [List.mem_cons, List.not_mem_nil, or_false] at hh
  rcases hh with h | h | h <;> subst h <;>
    exact ⟨ok_st g0 crew0, rfl, rfl, rfl, rfl, rfl, (by decide : 50000 ≤ 50000), fun x hx d hd => by cases hx with | head => cases hd | tail _ h => cases h⟩
theorem noCmds2 (y : Sys → Sys) (f : EvArg → EvArg) (k : CoreId) : ((stSy y f).cc k).cmds = [] := noCmds 0 id id k
theorem witness_PortSteps_links : (∀ n ∈ [0, 255], let s := stSy sysP fun a => { a with n := n }; s.arg.n < 256 ∧ (∀ r ∈ s.reqs, r.slots = [])) ∧
    (∀ x ∈ ([(0, 0, false), (11, 0, false), (11, 2048, true), (11, 2048, false)] : List (Nat × BitVec 12 × Bool)), let s := stSy (fun y => { sysP y with stuck := x.2.1 }) fun a => { a with n := x.1, flag := x.2.2 }
      s.arg.n < 12 ∧ s.sys.links.getLsbD s.arg.n = decide (x.1 = 0) ∧ s.sys.stuck.getLsbD 11 = decide (x.2.1 ≠ 0)) ∧
    (∀ y f, MemoryOk (stSy y f)) := ⟨by decide +kernel, by decide +kernel, fun _ _ => ok_st g0 crew0⟩
/-- The gang waits for a line of code: the page is there, or it is not. -/
theorem witness_PortSteps_fetch : (let s := stSy id fun a => { a with key := key0, n := 0x200080 }; s.gang? s.arg.key = some g0 ∧ s.ctx? g0.ctx = some ctx0 ∧
      s.translate g0.core ctx0 (s.arg.n / 128 * 128) = some ⟨7, 0x200000, 0x600000, 16, true, 0, 0⟩ ∧ s.hier.line? 0x600080 = none ∧ (s.coreTlb? g0.core ctx0.id 0x200080).isSome = true) ∧
    (let s := { stSy id (fun a => { a with key := key0, n := 0x1000 }) with gangs := [gI] }; s.gang? s.arg.key = some gI ∧ s.translate gI.core ctx0 (s.arg.n / 128 * 128) = none ∧ gI.sel = none ∧
      gI.clause = none ∧ gI.inHandler = false ∧ s.handlerOf gI ≠ 0 ∧
      Obl.fetchedFor s { gI with wait := false } (BitVec.ofNat 48 s.arg.n) = some e0 ∧ Obl.fetchedFor s { gI with wait := false } 0x3000 = some e0) :=
  ⟨⟨rfl, ctx7, by decide +kernel, rfl, by decide +kernel⟩, rfl, by decide +kernel, rfl, rfl, rfl, by decide +kernel, by decide +kernel, by decide +kernel⟩
theorem test_host : (sysOf .hostMemoryAccess sysP fun a => { a with n := 0x80000000, bytes := [1], write := true }).map (·.pushLog) = some 1 ∧
    (match exec .hostMemoryAccess (stSy sysP fun a => { a with n := 0x40000040, bytes := [1, 2], write := true }) with | .next t => (t.agenda.filter fun d => d.task = .hubWrite).map fun d => (d.arg.n, d.arg.bytes) | _ => []) =
      [(0x40000040, [1, 2])] := by refine ⟨?_, ?_⟩ <;> decide +kernel
theorem test_peer : (match exec .peerRequest (stSy sysP (peerArg true false 0x600FF8 8 (List.replicate 8 1))) with | .next t => (t.agenda.filter fun d => d.task = .hubWrite).length | _ => 9) = 1 ∧
    (match exec .peerRequest (stSy sysP (peerArg true false 0x600FFC 8 (List.replicate 8 1))) with | .next t => (t.agenda.filter fun d => d.task = .hubWrite).length | _ => 9) = 0 := by refine ⟨?_, ?_⟩ <;> decide +kernel
def heldRun (i : Instr) (h : Home) : Option (List (Option (HeldClass × Word) × Nat × Bool)) :=
  match exec i { stSy sysP (fun a => { a with req := 3 }) with reqs := [rH h] } with | .next t => some (t.reqs.map fun r => (r.held, r.prom, r.perfDone)) | _ => none
theorem test_outside : (heldRun .peerRefusal (.peer 3)).map (fun x => x.map (·.1)) = some [some (.error, 0)] ∧ (heldRun .hostCompletion .host).map (fun x => x.map (·.2.2)) = some [true] ∧
    heldRun .pathAllowanceOverrun (.peer 3) = some [(none, 50500, false)] ∧ heldRun .pathAllowanceOverrun (.peer 4) = some [(some (.peer, 4), 50000, false)] := by
  refine ⟨?_, ?_, ?_, ?_⟩ <;> decide +kernel
theorem test_links : (sysOf .fabricLinkDown sysP id).map (fun y => (y.links, y.stuck)) = some (0, 0) ∧
    (sysOf .fabricLinkUp (fun y => { sysP y with stuck := 2048 }) fun a => { a with n := 11 }).map (fun y => (y.links, y.stuck)) = some (1, 2048) ∧
    (sysOf .fabricLinkUp (fun y => { sysP y with stuck := 2048 }) fun a => { a with n := 11, flag := true }).map (fun y => (y.links, y.stuck)) = some (0x801, 0) ∧
    (sysOf .fabricLinkRetrainTimeout sysP fun a => { a with n := 11 }).map (fun y => y.stuck) = some 2048 := by refine ⟨?_, ?_, ?_, ?_⟩ <;> decide +kernel
theorem test_replays : (sysOf .fabricLinkReplay sysP fun a => { a with n := 255 }).map (·.errWr) = some 1 ∧ (sysOf .dieLinkReplay sysP id).map (·.errWr) = some 1 := by refine ⟨?_, ?_⟩ <;> decide +kernel
theorem test_fetchFill : (match exec .instructionFetchFill { stSy id (fun a => { a with key := key0, n := 0x200080 }) with mem := cells (dws0 ++ [(0x600080, 0x1122334455667788)]) } with
    | .next t => (t.core 2).icache.map fun l => (l.va, l.words.head?) | _ => []) = [(0x200080, some 0x55667788)] := by decide +kernel

/-- Registers of core 2 and of the hub. -/
def regArg (r : CtrlAddr) (v : DWord) (a : EvArg) : EvArg := { a with reg := r, m := 8, v := v }
theorem witness_RegisterAccess : ((stSy id (regArg (.core 2 0x10) 0)).arg.reg = .core 2 0x10 ∧ ((stSy id (regArg (.core 2 0x10) 0)).core 2).active ≠ none) ∧
    (stSy id (regArg (.core 9 0x10) 0)).arg.reg = .core 9 0x10 ∧ ((stSy id (regArg (.core 9 0x10) 0)).core 9).active = none ∧
    (∀ o ∈ [0x1100, 0x1118, 0x1120, 0x1180, 0x11F8, 0x1200, 0x12F8, 0x00, 0x20, 0x28, 0x58, 0x60, 0x10, 0x18, 0x30, 0x88, 0x50, 0x80, 0x2000, 0x27F8], (stSy id (regArg (.hub o) 0x4000000000000059)).arg.reg = .hub o) ∧
    ¬ ((stSy id fun a => { a with m := 4, reg := .hub 8 }).arg.m = 8 ∧ 8 % 8 = 0) ∧ ¬ ((stSy id (regArg (.hub 12) 0)).arg.m = 8 ∧ 12 % 8 = 0) ∧
    (∀ b ∈ [false, true], let s := stSy (fun y => { y with bootCfg := if b then 0x100 else 0 }) (regArg (.bar0 (0x800000 + 0x10)) 5); s.arg.reg = .bar0 (0x800000 + 0x10) ∧ s.sys.bootCfg.getLsbD 8 = b) := by
  decide +kernel
/-- CTX_CMD: BUSY; commands 1 to 8 with operands in their fields, and command 1 with a field set that it does not have. -/
theorem witness_RegisterAccess_command : ((stSy (fun y => { y with ctxCmd := 2 ^ 63 }) (regArg (.hub 8) 1)).sys.ctxCmd.getLsbD 63 = true) ∧
    (∀ x ∈ ([(1, 7 * 2 ^ 52, 255), (2, 0, 255), (3, 7 * 2 ^ 52, 0), (4, 7 * 2 ^ 52 + 2 ^ 24, 0), (5, 7 * 2 ^ 52 + 2 ^ 24 + 31, 0), (6, 7 * 2 ^ 52 + 2 ^ 24, 3), (7, 2 ^ 24, 2 ^ 64 - 1), (8, 7 * 2 ^ 52, 0xFFFFF),
        (8, 7 * 2 ^ 52, 2 ^ 63 + 1)] : List (Nat × Nat × Nat)), let s := stSy (fun y => { y with ctxArg0 := BitVec.ofNat 64 x.2.1, ctxArg1 := BitVec.ofNat 64 x.2.2 }) (regArg (.hub 8) (BitVec.ofNat 64 x.1))
      s.arg.m = 8 ∧ s.arg.reg = .hub 0x08 ∧ s.sys.ctxCmd.getLsbD 63 = false ∧ ctxOperandsOk x.1 s.sys.ctxArg0 s.sys.ctxArg1 = true ∧ (Obl.commandRow x.1 (s.sys.ctxArg1.getLsbD 63)).isSome = true) ∧
    ctxOperandsOk 1 (7 * 2 ^ 52) 256 = false ∧ ctxOperandsOk 5 (7 * 2 ^ 52 + 2 ^ 24 + 32) 0 = false := by decide +kernel
def readRun (i : Instr) (r : CtrlAddr) : Option (DWord × Word × List Word × Word) :=
  let s := stSy (fun y => { y with errcDie := y.errcDie.set 3 6 }) (regArg r 0)
  match exec i (s.setCc 2 { s.cc 2 with brkc := (s.cc 2).brkc.set 0 9, spills := 4, trc := { (s.cc 2).trc with drops := 5, writes := 3 } }) with
  | .next t => some (t.sys.readBack, (t.cc 2).trc.drops, [(t.cc 2).brkc[(0 : Fin 8)], (t.cc 2).spills], t.sys.errcDie[(3 : Fin 4)]) | _ => none
theorem test_register_reads : (readRun .brkcRead (.core 2 0x10)).map (fun x => (x.1, x.2.2.1)) = some (9, [0, 4]) ∧ (readRun .contOvfRead (.core 2 0)).map (fun x => (x.1, x.2.2.1)) = some (0x0000000400000000, [9, 0]) ∧
    (readRun .trcCntRead (.core 2 0)).map (fun x => (x.1, x.2.1)) = some (0x0000000500000003, 0) ∧ (readRun .errcRead (.hub 0x1118)).map (fun x => (x.1, x.2.2.2)) = some (6, 0) := by
  refine ⟨?_, ?_, ?_, ?_⟩ <;> decide +kernel
theorem test_contStat : (readRun .contStatRead (.core 9 0)).map (·.1) = some 0 := by decide +kernel
/-- R6, R124 by hand: HIGH 5 is read, becomes 0, and a second read of the tick finds 5. -/
theorem test_contStat_high : (let s := stSy id (regArg (.core 2 0) 0)
    match exec .contStatRead (s.setCc 2 { s.cc 2 with high := 5 }) with
    | .next t => (match exec .contStatRead t with | .next u => (t.sys.readBack, (t.cc 2).high, u.sys.readBack) | _ => (0, 9, 0)) | _ => (0, 9, 0)) =
    (0x5000000000, 0, 0x5000000000) := by decide +kernel
/-- R6, R389 by hand: a read in the tick of a clear finds the doorbell before it. -/
theorem test_mailbox_read : (sysOf .mailboxDoorbellClear (fun y => { y with boxes := y.boxes.set 7 { (y.boxes[(7 : Fin 8)]) with bell := 0x80000001 } })
      fun a => { a with n := 7, v := 0x80000000 }).map (fun y => ((y.boxes[(7 : Fin 8)]).read 50000 0, (y.boxes[(7 : Fin 8)]).read 50001 0)) = some (0x80000001, 1) := by decide +kernel
theorem test_register_writes : (sysOf .registerWrite id (regArg (.hub 0x80) 1000)).map (·.hostAlw) = some 1000 ∧ (sysOf .registerWrite id (regArg (.hub 0x10) 5)).map (·.ctxArg0) = some 5 ∧
    (match exec .registerWrite (stSy id (regArg (.hub (0x2000 + 8 * 255)) 105)) with | .next t => (t.core 255).limit | _ => 0) = 105 := by refine ⟨?_, ?_, ?_⟩ <;> decide +kernel

/-! ## Words written out from the encodings -/

theorem test_decode_ctl_1 : ∀ x ∈ ([
    (0xC0000000, 0x0, .nop 3),
    (0x03010243, 0x0, .bpz 0 2 0x0102 3),
    (0x04FFFF21, 0x0, .ball 0 1 0xFFFF 1),
    (0x850005FF, 0x0, .bany 2 7 5 31),
    (0x06001004, 0x0, .call 0 0x10 4),
    (0x07000000, 0x0, .ret 0),
    (0x08003F00, 0x0, .jmp 0 63),
    (0x0900BF00, 0x0, .jmpv 0 191),
    (0x4A000000, 0x0, .exit 1),
    (0x0B00001F, 0x0, .setprio 0 31),
    (0x0F058001, 0x0, .yieldAll 0 (some 5) 0x8001),
    (0x14000800, 0x30000000, .bts 0 3 8 0),
    (0x15000802, 0x40000000, .btb 0 4 8 2),
    (0x16FFF81F, 0xF0000000, .bth 0 15 0xFFF8 31)] : List (Nat × Nat × Instr)),
    decode .ctl x.1 x.2.1 = some x.2.2 := by decide

theorem test_decode_uni_1 : ∀ x ∈ ([
    (0x00010200, 0x0, .smov 0 1 2),
    (0x02030000, 0xDEADBEEF, .slih 0 3 0xDEADBEEF),
    (0x04010203, 0x0, .ssub 0 1 2 3),
    (0x06010203, 0x0, .smul 0 1 2 3),
    (0x07010203, 0x0, .smulhI 0 1 2 3),
    (0x08010203, 0x0, .smulhN 0 1 2 3),
    (0x09010203, 0x0, .sand 0 1 2 3),
    (0x0A010203, 0x0, .sor 0 1 2 3),
    (0x0B010203, 0x0, .sxor 0 1 2 3),
    (0x0D010203, 0x0, .sshl 0 1 2 3),
    (0x0E010203, 0x0, .sshr 0 1 2 3),
    (0x0F010203, 0x0, .ssra 0 1 2 3),
    (0x10010203, 0x0, .sminI 0 1 2 3),
    (0x11010203, 0x0, .sminN 0 1 2 3),
    (0x12010203, 0x0, .smaxI 0 1 2 3),
    (0x13010203, 0x0, .smaxN 0 1 2 3),
    (0x050102FF, 0x0, .saddi 0 1 2 0xFF),
    (0x0C013F00, 0x0, .snot 0 1 63),
    (0x14013F00, 0x0, .sclz 0 1 63),
    (0x15013F00, 0x0, .spop 0 1 63),
    (0x17050600, 0x2C8, .sbfi 0 5 6 ⟨8, 11⟩),
    (0x18030102, 0xB0000, .scmp 0 3 1 2 .le true),
    (0x19030102, 0x4000000, .ssel 0 3 1 2 4)] : List (Nat × Nat × Instr)),
    decode .uni x.1 x.2.1 = some x.2.2 := by decide

theorem test_decode_vec_1 : ∀ x ∈ ([
    (0x00BF0200, 0x0, .vmov 0 191 (.v 2)),
    (0x0CBF0200, 0x0, .vnot 0 191 (.v 2)),
    (0x12BF0200, 0x0, .vabs 0 191 (.v 2)),
    (0x13BF0200, 0x0, .vclz 0 191 (.v 2)),
    (0x14BF0200, 0x0, .vpop 0 191 (.v 2)),
    (0x1FBF0200, 0x0, .fabs 0 191 (.v 2)),
    (0x20BF0200, 0x0, .fneg 0 191 (.v 2)),
    (0x22BF0200, 0x0, .frcp 0 191 (.v 2)),
    (0x23BF0200, 0x0, .frsq 0 191 (.v 2)),
    (0x24BF0200, 0x0, .fsqrt 0 191 (.v 2)),
    (0x25BF0200, 0x0, .fex2 0 191 (.v 2)),
    (0x26BF0200, 0x0, .flg2 0 191 (.v 2)),
    (0x27BF0200, 0x0, .fsin 0 191 (.v 2)),
    (0x28BF0200, 0x0, .fcos 0 191 (.v 2)),
    (0x2ABF0200, 0x0, .fclass 0 191 (.v 2)),
    (0x01070000, 0x80000001, .vli 0 7 0x80000001),
    (0x0301C2BF, 0x0, .vsub 0 1 (.s 2) (.v 191)),
    (0x0501C2BF, 0x0, .vmul 0 1 (.s 2) (.v 191)),
    (0x0601C2BF, 0x0, .vmulhI 0 1 (.s 2) (.v 191)),
    (0x0701C2BF, 0x0, .vmulhN 0 1 (.s 2) (.v 191)),
    (0x0901C2BF, 0x0, .vand 0 1 (.s 2) (.v 191)),
    (0x0A01C2BF, 0x0, .vor 0 1 (.s 2) (.v 191)),
    (0x0B01C2BF, 0x0, .vxor 0 1 (.s 2) (.v 191)),
    (0x0E01C2BF, 0x0, .vshr 0 1 (.s 2) (.v 191))] : List (Nat × Nat × Instr)),
    decode .vec x.1 x.2.1 = some x.2.2 := by decide

theorem test_decode_vec_2 : ∀ x ∈ ([
    (0x0F01C2BF, 0x0, .vsra 0 1 (.s 2) (.v 191)),
    (0x1901C2BF, 0x0, .fadd 0 1 (.s 2) (.v 191)),
    (0x1A01C2BF, 0x0, .fsub 0 1 (.s 2) (.v 191)),
    (0x1B01C2BF, 0x0, .fmul 0 1 (.s 2) (.v 191)),
    (0x1D01C2BF, 0x0, .fmin 0 1 (.s 2) (.v 191)),
    (0x1E01C2BF, 0x0, .fmax 0 1 (.s 2) (.v 191)),
    (0x2C01C2BF, 0x0, .haddBf 0 1 (.s 2) (.v 191)),
    (0x2D01C2BF, 0x0, .hmulBf 0 1 (.s 2) (.v 191)),
    (0x2F01C2BF, 0x0, .haddH 0 1 (.s 2) (.v 191)),
    (0x3001C2BF, 0x0, .hmulH 0 1 (.s 2) (.v 191)),
    (0x04010280, 0x0, .vaddi 0 1 (.v 2) 0x80),
    (0x08010203, 0xC4000000, .vmad 0 1 (.v 2) (.v 3) (.s 4)),
    (0x11010203, 0x0, .vmax 0 1 (.v 2) (.v 3) false),
    (0x15050600, 0x102C8, .vbfx 0 5 (.v 6) true ⟨8, 11⟩),
    (0x16050600, 0x7C0, .vbfi 0 5 (.v 6) ⟨0, 31⟩),
    (0x18010203, 0x50000, .vsel 0 1 (.v 2) (.v 3) 5),
    (0x29010200, 0x40000, .frnd 0 1 (.v 2) .rna),
    (0x2E010203, 0x4020000, .hfmaBf 0 1 (.v 2) (.v 3) (.v 4) .fnma),
    (0x31010203, 0x4030000, .hfmaH 0 1 (.v 2) (.v 3) (.v 4) .fnms),
    (0x32010203, 0x0, .shflIdx 0 1 (.v 2) (.v 3)),
    (0x34010200, 0x0, .vote 0 1 (.v 2)),
    (0x35010200, 0xA0000, .vred 0 1 (.v 2) .fmax),
    (0x37010000, 0x0, .vlane 0 1),
    (0x38010207, 0x0, .pand 0 1 2 7)] : List (Nat × Nat × Instr)),
    decode .vec x.1 x.2.1 = some x.2.2 := by decide

theorem test_decode_vec_3 : ∀ x ∈ ([
    (0x39010207, 0x0, .por 0 1 2 7),
    (0x3A010207, 0x0, .pxor 0 1 2 7),
    (0x3B010200, 0x0, .pnot 0 1 2),
    (0x3DBF0700, 0x0, .pget 0 191 7)] : List (Nat × Nat × Instr)),
    decode .vec x.1 x.2.1 = some x.2.2 := by decide

theorem test_decode_mem_1 : ∀ x ∈ ([
    (0x030B0132, 0x18040000, .atomMin 0 ⟨.v 11, .v 1, 3, .b32, 6, false, 0, .dev, .plain, 0⟩),
    (0x040B0132, 0x18040000, .atomMax 0 ⟨.v 11, .v 1, 3, .b32, 6, false, 0, .dev, .plain, 0⟩),
    (0x050B0132, 0x18040000, .atomAnd 0 ⟨.v 11, .v 1, 3, .b32, 6, false, 0, .dev, .plain, 0⟩),
    (0x060B0132, 0x18040000, .atomOr 0 ⟨.v 11, .v 1, 3, .b32, 6, false, 0, .dev, .plain, 0⟩),
    (0x070B0132, 0x18040000, .atomXor 0 ⟨.v 11, .v 1, 3, .b32, 6, false, 0, .dev, .plain, 0⟩),
    (0x080B0132, 0x18040000, .atomXchg 0 ⟨.v 11, .v 1, 3, .b32, 6, false, 0, .dev, .plain, 0⟩),
    (0x090B0132, 0x18040000, .atomCas 0 ⟨.v 11, .v 1, 3, .b32, 6, false, 0, .dev, .plain, 0⟩),
    (0x0A0B0132, 0x18040000, .atomInc 0 ⟨.v 11, .v 1, 3, .b32, 6, false, 0, .dev, .plain, 0⟩),
    (0x0B0B0132, 0x18040000, .atomFadd 0 ⟨.v 11, .v 1, 3, .b32, 6, false, 0, .dev, .plain, 0⟩),
    (0x0D0C0952, 0x19048000, .redMin 0 ⟨.v 12, .s 9, 5, .b32, 6, false, 0, .dev, .rel, 0⟩),
    (0x0E0C0952, 0x19048000, .redMax 0 ⟨.v 12, .s 9, 5, .b32, 6, false, 0, .dev, .rel, 0⟩),
    (0x0F0C0952, 0x19048000, .redFadd 0 ⟨.v 12, .s 9, 5, .b32, 6, false, 0, .dev, .rel, 0⟩),
    (0x16081452, 0x1010004, .atomsCas 0 ⟨.v 8, .s 20, 5, .b32, 0, false, 0, .crew, .plain, 4⟩),
    (0x180A0B0C, 0xF, .plunpack 0 10 11 12 14),
    (0xD70A0B0C, 0x1, .plpack 3 10 11 12 0),
    (0x1B010200, 0x0, .cwp 0 1 2)] : List (Nat × Nat × Instr)),
    decode .mem x.1 x.2.1 = some x.2.2 := by decide

theorem test_decode_mtx_1 : ∀ x ∈ ([
    (0x071F0000, 0x0, .lconf 0 31),
    (0x080A0809, 0x20000, .qnt 0 10 (.v 8) (.v 9) 2),
    (0x8C030200, 0x1, .tcount 2 3 (.v 2) 0)] : List (Nat × Nat × Instr)),
    decode .mtx x.1 x.2.1 = some x.2.2 := by decide

theorem test_decode_syn_1 : ∀ x ∈ ([
    (0x003F0000, 0x0, .tnow 0 63),
    (0x013F0F00, 0x0, .tget 0 63 15),
    (0x020F3F00, 0x0, .tset 0 15 63),
    (0x03010203, 0x0, .tmin 0 1 2 3),
    (0x04010203, 0x0, .tmax 0 1 2 3),
    (0x05010203, 0xFFFF, .tadd 0 1 2 3 0xFFFF),
    (0x08010000, 0x0, .trep 0 1),
    (0x10001800, 0x0, .ringFill 0 24),
    (0x13191800, 0x0, .ringState 0 25 24),
    (0x15002800, 0x0, .qbind 0 40),
    (0x1E030000, 0x20000, .ctrcStop 0 3),
    (0x1E030000, 0x30000, .ctrcStart 0 3)] : List (Nat × Nat × Instr)),
    decode .syn x.1 x.2.1 = some x.2.2 := by decide

end Sys2Proof.Tests
end

section
/-!
SUPPORT. What the operations on requests, copies and records leave as it is: the power arbiter, the system registers, the
slices, the clocks, and of every core its gating and its lapidary. One equation per operation, for `simp`.
-/
namespace Sys2Proof.Machine

/-- What no operation on requests, copies or records changes. -/
structure Ledger where
  power  : Power
  sys    : Sys
  slices : List Slice
  time   : Clocks
  round  : Nat
  gated  : CoreId → Bool
  laps   : CoreId → Lapidary

/-- The ledger of a state. -/
def State.ledger (s : State) : Ledger :=
  ⟨s.power, s.sys, s.slices, s.time, s.own.round, fun k => (s.core k).gated, fun k => s.lap k⟩

namespace State

variable (s : State)

/-! ## Updates of single fields -/

@[simp] theorem ledger_setMem (x : List Host.Cell) : (s.setMem x).ledger = s.ledger := rfl
@[simp] theorem ledger_setHier (x : Hier) : (s.setHier x).ledger = s.ledger := rfl
@[simp] theorem ledger_setGangs (x : List Gang) : (s.setGangs x).ledger = s.ledger := rfl
@[simp] theorem ledger_setReqs (x : List Req) : (s.setReqs x).ledger = s.ledger := rfl
@[simp] theorem ledger_setCtxs (x : List Ctx) : (s.setCtxs x).ledger = s.ledger := rfl
@[simp] theorem ledger_setQueues (x : Queues) : (s.setQueues x).ledger = s.ledger := rfl
@[simp] theorem ledger_setAgenda (x : List Due) : (s.setAgenda x).ledger = s.ledger := rfl
@[simp] theorem ledger_putGang (g : Gang) : (s.putGang g).ledger = s.ledger := rfl
@[simp] theorem ledger_mapGangs (f : Gang → Gang) : (s.mapGangs f).ledger = s.ledger := rfl
@[simp] theorem ledger_putReq (r : Req) : (s.putReq r).ledger = s.ledger := rfl
@[simp] theorem ledger_putCtx (c : Ctx) : (s.putCtx c).ledger = s.ledger := rfl
@[simp] theorem ledger_scheduleTask (d : Due) : (s.scheduleTask d).ledger = s.ledger := rfl
@[simp] theorem ledger_schedule (t : Nat) (i : Instr) (a : EvArg) : (s.schedule t i a).ledger = s.ledger := rfl
@[simp] theorem ledger_dueIn (c : CoreId) (n rank : Nat) (t : Task) (a : EvArg) : (s.dueIn c n rank t a).ledger = s.ledger := rfl
@[simp] theorem ledger_unschedule (p : Due → Bool) : (s.unschedule p).ledger = s.ledger := rfl
@[simp] theorem ledger_useFree (n : Nat) : (s.useFree n).ledger = s.ledger := rfl

theorem ledger_setOwn {x : Model} (h : x.round = s.ledger.round) : (s.setOwn x).ledger = s.ledger := by
  unfold ledger
  rw [setOwn_own, h]
  rfl

/-- A core that keeps its gating and its lapidary. -/
theorem ledger_setCore {c : CoreId} {x : Core} (hg : x.gated = s.ledger.gated c) (hl : x.cc.lap = s.ledger.laps c) :
    (s.setCore c x).ledger = s.ledger := by
  have key (k : CoreId) : ((s.setCore c x).core k).gated = (s.core k).gated ∧ ((s.setCore c x).core k).cc.lap = (s.core k).cc.lap := by
    rw [core_setCore]
    split
    · subst_vars; exact ⟨hg, hl⟩
    · exact ⟨rfl, rfl⟩
  simp only [ledger, lap, cc, fun k => (key k).1, fun k => (key k).2]
  rfl

theorem ledger_setCc {c : CoreId} {x : CoreCtx} (h : x.lap = s.ledger.laps c) : (s.setCc c x).ledger = s.ledger :=
  ledger_setCore s rfl h

@[simp] theorem ledger_gated (k : CoreId) : s.ledger.gated k = (s.core k).gated := rfl
@[simp] theorem ledger_laps (k : CoreId) : s.ledger.laps k = (s.core k).cc.lap := rfl
@[simp] theorem ledger_round : s.ledger.round = s.own.round := rfl

@[simp] theorem ledger_ite (p : Prop) [Decidable p] (t u : State) : (if p then t else u).ledger = if p then t.ledger else u.ledger :=
  apply_ite ledger p t u

@[simp] theorem ledger_ite_fst {α : Type} (p : Prop) [Decidable p] (t u : State × α) :
    (if p then t else u).1.ledger = if p then t.1.ledger else u.1.ledger := apply_ite (fun x => x.1.ledger) p t u

theorem ledger_of_ite {p : Prop} [Decidable p] {t u : State} {l : Ledger} (ht : t.ledger = l) (hu : u.ledger = l) :
    (if p then t else u).ledger = l := by split <;> assumption

/-- A fold of operations that keep the ledger keeps it. -/
theorem ledger_foldl {α : Type} {f : State → α → State} (hf : ∀ s x, (f s x).ledger = s.ledger) (xs : List α) :
    (xs.foldl f s).ledger = s.ledger := by
  induction xs generalizing s with
  | nil => rfl
  | cons x xs ih => rw [List.foldl_cons, ih, hf]

/-- The same for a fold that carries something along. -/
theorem ledger_foldl_fst {α β : Type} {f : State × β → α → State × β} (hf : ∀ x a, (f x a).1.ledger = x.1.ledger) (xs : List α)
    (x : State × β) : (xs.foldl f x).1.ledger = x.1.ledger := by
  induction xs generalizing x with
  | nil => rfl
  | cons a xs ih => rw [List.foldl_cons, ih, hf]

/-! ## Gangs, records, reports -/

@[simp] theorem ledger_count (c : CoreId) (code n : Nat) (q : Option (Fin 4)) (l : Option LaunchId) :
    (s.count c code n q l).ledger = s.ledger := by
  have key (k : CoreId) : ((s.count c code n q l).core k).gated = (s.core k).gated ∧
      ((s.count c code n q l).core k).cc.lap = (s.core k).cc.lap := by
    obtain ⟨ev, h⟩ := core_count s c code n q l k
    rw [h]
    exact ⟨rfl, rfl⟩
  simp [ledger, lap, cc, fun k => (key k).1, fun k => (key k).2]

@[simp] theorem ledger_progress (k : CoreId) : (s.progress k).ledger = s.ledger := ledger_setCore s rfl rfl

@[simp] theorem ledger_syncRing (g : Gang) : (s.syncRing g).ledger = s.ledger := by
  unfold syncRing
  split
  · simp
  · split
    · simp
    · rfl
  · rfl

@[simp] theorem ledger_makeEligible (k : GangKey) (t : Tick) : (s.makeEligible k t).ledger = s.ledger := by
  unfold makeEligible
  split
  · simp
  · rfl

@[simp] theorem ledger_hitMonitors (p : CoreId → Monitor → Bool) : (s.hitMonitors p).ledger = s.ledger := by
  unfold hitMonitors
  split
  · rfl
  · refine ledger_foldl s (fun s k => ?_) _
    dsimp only
    split
    · rfl
    · refine (ledger_foldl _ (fun s m => ?_) _).trans (ledger_setCc s rfl)
      split <;> simp

@[simp] theorem ledger_hitWritten (bs : List (Nat × List Byte)) : (s.hitWritten bs).ledger = s.ledger := ledger_hitMonitors s _

@[simp] theorem ledger_hubWords (a : Nat) (ds : List DWord) : (s.hubWords a ds).ledger = s.ledger := by simp [hubWords]

@[simp] theorem ledger_checkWake (k : GangKey) : (s.checkWake k).ledger = s.ledger := by
  unfold checkWake
  split
  · dsimp only
    rw [ledger_ite]
    split
    · split <;> simp
    · rfl
  · rfl

@[simp] theorem ledger_syncGang (k : GangKey) : (s.syncGang k).ledger = s.ledger := by
  unfold syncGang
  split <;> simp

@[simp] theorem ledger_putT (k : GangKey) (n : TReg) (t : TimeReg) : (s.putT k n t).ledger = s.ledger := by
  unfold putT
  split <;> simp

@[simp] theorem ledger_refreshT (k : GangKey) (n : TReg) (t : Nat) : (s.refreshT k n t).ledger = s.ledger := by
  unfold refreshT
  split <;> simp

@[simp] theorem ledger_refreshOf (r : Req) : (s.refreshOf r).ledger = s.ledger := by simp [refreshOf]

@[simp] theorem ledger_writeCtx (c : Ctx) : (s.writeCtx c).ledger = s.ledger := by simp [writeCtx]

@[simp] theorem ledger_event (cid : CtxId) (code reason : Nat) (core : CoreId) (gang info crew addr : Nat) :
    (s.event cid code reason core gang info crew addr).ledger = s.ledger := by
  unfold event
  split <;> simp

@[simp] theorem ledger_report (cid : CtxId) (ds : List DWord) : (s.report cid ds).ledger = s.ledger := by
  unfold report
  split <;> simp

/-! ## Lines of L2 -/

@[simp] theorem ledger_leaveL2 (l : L2Line) : (s.leaveL2 l).ledger = s.ledger := by simp [leaveL2]

@[simp] theorem ledger_victimGoes (sl : Fin 64) (w : Way) : (s.victimGoes sl w).ledger = s.ledger := by
  unfold victimGoes
  cases w.slot <;> cases w.clean <;> simp

@[simp] theorem ledger_bookLine (o : Option (Fin 4)) (a : LineAt) (k : LineKind) (urgent : Bool) (t floor : Nat) :
    (s.bookLine o a k urgent t floor).s.ledger = s.ledger :=
  iteInduction (motive := fun x : LineBooked => x.s.ledger = s.ledger) (fun _ => rfl) fun _ =>
    iteInduction (motive := fun x : LineBooked => x.s.ledger = s.ledger) (fun _ => ledger_victimGoes ..) fun _ => ledger_victimGoes ..

@[simp] theorem ledger_trimSet (sl : Fin 64) (line : Nat) : (s.trimSet sl line).ledger = s.ledger := by
  unfold trimSet
  dsimp only
  split
  · rfl
  · split <;> simp

@[simp] theorem ledger_release (line : Nat) : (s.release line).ledger = s.ledger := by
  unfold release
  split <;> simp

@[simp] theorem ledger_lineRead (o : Option (Fin 4)) (a n t : Nat) : (s.lineRead o a n t).1.ledger = s.ledger := by
  simp [lineRead]

@[simp] theorem ledger_bookReads (d : Fin 4) (as : List Nat) (t : Nat) : (s.bookReads d as t).1.ledger = s.ledger := by
  induction as generalizing s t with
  | nil => rfl
  | cons a as ih => rw [bookReads]; dsimp only; rw [ih, ledger_lineRead]

@[simp] theorem ledger_bookMark (d : Fin 4) (leaf t : Nat) : (s.bookMark d leaf t).1.ledger = s.ledger := by simp [bookMark]

@[simp] theorem ledger_probeTick (k : CoreId) (c : Ctx) (h : Nat) (m : ProbeMiss) : (s.probeTick k c h m).1.ledger = s.ledger := by
  unfold probeTick
  dsimp only
  refine (ledger_foldl_fst (fun x e => ?_) _ _).trans ((ledger_foldl_fst (fun x v => ?_) _ _).trans ?_)
  · simp
  · simp
  · dsimp only
    split <;> simp

@[simp] theorem ledger_fillCore (k : CoreId) (e : TlbEntry) : (s.fillCore k e).ledger = s.ledger := ledger_setCore s rfl rfl
@[simp] theorem ledger_fillTlb (k : CoreId) (e : TlbEntry) : (s.fillTlb k e).ledger = s.ledger := by simp [fillTlb]
@[simp] theorem ledger_markSpan (k : CoreId) (e : TlbEntry) : (s.markSpan k e).ledger = s.ledger := by simp [markSpan]
@[simp] theorem ledger_markWalk (w : Walk) (write : Bool) : (s.markWalk w write).ledger = s.ledger := by simp [markWalk]

@[simp] theorem ledger_settleProbe (k : CoreId) (c : Ctx) (h : Nat) (vas : List Nat) (write : Bool) :
    (s.settleProbe k c h vas write).ledger = s.ledger := by
  unfold settleProbe
  dsimp only
  refine (ledger_foldl _ (fun s v => ?_) _).trans (ledger_setCore s rfl rfl)
  split
  · split <;> simp
  · simp
  · simp

@[simp] theorem ledger_revive (line : Nat) : (s.revive line).1.ledger = s.ledger := by
  unfold revive
  split <;> simp

/-! ## L1 -/

@[simp] theorem ledger_setL1 (k : CoreId) (x : List L1Line) : (s.setL1 k x).ledger = s.ledger := ledger_setCore s rfl rfl
@[simp] theorem ledger_l1Fill (k : CoreId) (line : Nat) (bs : List Byte) : (s.l1Fill k line bs).ledger = s.ledger := by simp [l1Fill]

@[simp] theorem ledger_l1Alloc (k : CoreId) (line : Nat) : (s.l1Alloc k line).1.ledger = s.ledger := by
  unfold l1Alloc
  dsimp only
  split
  · simp
  · split
    · simp
    · split
      · simp
      · split <;> simp

/-! ## Booking a request -/

@[simp] theorem ledger_atPass (r : Req) (rank : Nat) (t : Task) (a : EvArg) : (s.atPass r rank t a).ledger = s.ledger := by
  unfold atPass
  split <;> simp

@[simp] theorem ledger_arm (r : Req) : (s.arm r).ledger = s.ledger := by
  unfold arm
  cases r.effect <;> simp

@[simp] theorem ledger_bookPort (r : Req) (p : Port) (alw floor : Nat) : (s.bookPort r p alw floor).1.ledger = s.ledger := rfl

@[simp] theorem ledger_armTag (id : Nat) (ch : Fin 32) (line : Nat) (path : List Stage) (slots : List Slot) :
    (s.armTag id ch line path slots).ledger = s.ledger := by
  unfold armTag
  split <;> simp

@[simp] theorem ledger_armTagOf (r : Req) : (s.armTagOf r).ledger = s.ledger := by
  unfold armTagOf
  split <;> simp

@[simp] theorem ledger_keepBooked (r : Req) : (s.keepBooked r).ledger = s.ledger := by
  unfold keepBooked
  split
  · rfl
  · dsimp only
    split <;> split <;> split <;> simp

@[simp] theorem ledger_losslessGain (r : Req) : (s.losslessGain r).1.ledger = s.ledger := by
  unfold losslessGain
  split
  · dsimp only
    split <;> simp
  · rfl

@[simp] theorem ledger_bookHome (r : Req) (floor : Nat) : (s.bookHome r floor).1.ledger = s.ledger := by
  unfold bookHome
  dsimp only
  rw [ledger_losslessGain]
  split <;> split <;> simp

@[simp] theorem ledger_bookArm (r : Req) (floor : Nat) : (s.bookArm r floor).1.ledger = s.ledger := rfl

@[simp] theorem ledger_takeLane (k : CoreId) (q floor p : Nat) : (s.takeLane k q floor p).1.ledger = s.ledger := ledger_setCore s rfl rfl

@[simp] theorem ledger_countPasses (k : CoreId) (p : Nat) : (s.countPasses k p).ledger = s.ledger := by simp [countPasses]

@[simp] theorem ledger_bookLane (r : Req) (floor : Nat) : (s.bookLane r floor).1.ledger = s.ledger := by simp [bookLane]

@[simp] theorem ledger_book (r : Req) : (s.book r).1.ledger = s.ledger := by
  unfold book
  dsimp only
  split
  · split <;> simp
  · simp
  · split <;> simp
  · split
    · rw [apply_ite Prod.fst]
      refine ledger_of_ite ?_ (by simp)
      rw [ledger_count]
      split <;> simp
    · simp
    · simp

/-! ## Breaking (R63) -/

@[simp] theorem ledger_countBreak (k : CoreId) (c : BreakCause) (l : LaunchId) : (s.countBreak k c l).ledger = s.ledger := by
  exact (ledger_count ..).trans (ledger_setCc s rfl)

@[simp] theorem ledger_reportInOrder (ctx : CtxId) (x : Noted) (ds : List DWord) : (s.reportInOrder ctx x ds).ledger = s.ledger := by
  unfold reportInOrder
  split
  · rfl
  · dsimp only
    split
    · simp
    · refine (ledger_setOwn _ rfl).trans (ledger_of_ite (by simp) ?_)
      exact (ledger_foldl _ (fun s z => ledger_setMem ..) _).trans (ledger_report ..)

@[simp] theorem ledger_reportBreak (r : Req) (c : BreakCause) (level : Level) (old new : Nat) :
    (s.reportBreak r c level old new).ledger = s.ledger := by simp [reportBreak]

@[simp] theorem ledger_breakEffects (r : Req) (c : BreakCause) (level : Level) (old : Nat) :
    (s.breakEffects r c level old).ledger = s.ledger := by
  unfold breakEffects
  dsimp only
  rw [ledger_countBreak, ledger_reportBreak]
  split <;> simp

@[simp] theorem ledger_moved (old r : Req) (c : BreakCause) (level : Level) : (s.moved old r c level).ledger = s.ledger := by
  simp [moved]

@[simp] theorem ledger_rebookBehind (id : Nat) (c : BreakCause) (level : Level) (fuel : Nat) :
    (s.rebookBehind id c level fuel).ledger = s.ledger := by
  induction fuel generalizing s id level with
  | zero => rfl
  | succ fuel ih =>
    rw [rebookBehind]
    refine ledger_foldl s (fun s x => ?_) _
    split
    · rfl
    · refine ledger_of_ite rfl (ledger_of_ite rfl (ledger_of_ite ?_ ?_))
      · rw [ih, ledger_moved]
        split <;> simp
      · rw [ih, ledger_moved, ledger_setHier]

@[simp] theorem ledger_breakFrom (r : Req) (c : BreakCause) (level : Level) (j t : Nat) :
    (s.breakFrom r c level j t).ledger = s.ledger := by simp [breakFrom]

/-! ## Copies (R217 to R229) -/

@[simp] theorem ledger_bookPlane (k : CoreId) (c : Nat) : (s.bookPlane k c).1.ledger = s.ledger := ledger_setCore s rfl rfl
@[simp] theorem ledger_freePlane (k : CoreId) (c : Nat) : (s.freePlane k c).ledger = s.ledger := ledger_setCore s rfl rfl
@[simp] theorem ledger_putCmd (k : CoreId) (x : CopyCmd) : (s.putCmd k x).ledger = s.ledger := ledger_setCc s rfl

@[simp] theorem ledger_testComplete (k : CoreId) (c : CrewKey) (g tick n : Nat) : (s.testComplete k c g tick n).ledger = s.ledger := by
  unfold testComplete
  split <;> simp

@[simp] theorem ledger_bookSide (d : Fin 4) (b : Vector DWord 8) (es : List TlbEntry) (c : CtxId) (off len : Nat) (write : Bool)
    (t floor : Nat) : (s.bookSide d b es c off len write t floor).s.ledger = s.ledger := by
  have fold (ls : List (Nat × Nat × Nat × Nat)) (f : SideBooked → Nat × Nat × Nat × Nat → SideBooked)
      (hf : ∀ x l, (f x l).s.ledger = x.s.ledger) (x : SideBooked) : (ls.foldl f x).s.ledger = x.s.ledger := by
    induction ls generalizing x with
    | nil => rfl
    | cons l ls ih => rw [List.foldl_cons, ih, hf]
  unfold bookSide
  refine fold _ _ (fun x l => ?_) _
  dsimp only
  split
  · rfl
  · dsimp only
    split <;> simp

@[simp] theorem ledger_releaseSide (b : Vector DWord 8) (es : List TlbEntry) (c : CtxId) (off len : Nat) :
    (s.releaseSide b es c off len).ledger = s.ledger := by
  unfold releaseSide
  split
  · rfl
  · exact ledger_foldl s (fun s l => ledger_release ..) _

theorem ledger_unbookRing (s0 : State) (x : CopyCmd) (h : s.ledger = s0.ledger) : (s.unbookRing s0 x).ledger = s.ledger := by
  unfold unbookRing
  split
  · have hg := congrArg Ledger.gated h
    have hl := congrArg Ledger.laps h
    simp only [ledger] at hg hl ⊢
    rw [hg, hl]
    rfl
  · rfl

@[simp] theorem ledger_readRow (k : CoreId) (x : CopyCmd) (p : CopySlice) (row : CopyRow) (t : Nat) :
    (s.readRow k x p row t).1.ledger = s.ledger := by
  unfold readRow
  dsimp only
  split
  · rfl
  · split
    · dsimp only
      split
      · simp
      · exact (ledger_foldl _ (fun s z => ledger_scheduleTask ..) _).trans (ledger_bookSide ..)
    · simp

@[simp] theorem ledger_landRow (k : CoreId) (x : CopyCmd) (p : CopySlice) (row : CopyRow) (prev : Nat × Nat) :
    (s.landRow k x p row prev).1.ledger = s.ledger := by
  unfold landRow
  dsimp only
  split
  · exact (ledger_foldl _ (fun s z => ledger_scheduleTask ..) _).trans (ledger_bookSide ..)
  · simp

@[simp] theorem ledger_bookRows (k : CoreId) (x : CopyCmd) (t : Nat) (rs : List CopyRow) (prev : Nat × Nat) :
    (s.bookRows k x t rs prev).1.ledger = s.ledger := by
  induction rs generalizing s prev with
  | nil => rfl
  | cons r rs ih =>
    rw [bookRows]
    split
    · rfl
    · dsimp only
      have land (p : CopySlice) : (((s.readRow k x p r t).1.landRow k x p (s.readRow k x p r t).2 prev).1.unbookRing s x).ledger =
          s.ledger := by
        rw [ledger_unbookRing _ _ _ (by simp)]
        simp
      split
      · exact land _
      · rw [ih]
        exact land _

@[simp] theorem ledger_promiseCmd (x : CopyCmd) (prom : Nat) (c : Option BreakCause) : (s.promiseCmd x prom c).ledger = s.ledger := by
  refine ledger_foldl s (fun s p => ?_) _
  split
  · rfl
  · dsimp only
    split <;> simp

@[simp] theorem ledger_unlandRow (k : CoreId) (x : CopyCmd) (p : CopySlice) (r : CopyRow) :
    (s.unlandRow k x p r).1.ledger = s.ledger := by
  unfold unlandRow
  dsimp only
  split
  · simp
  · split <;> simp

@[simp] theorem ledger_unbookRows (k : CoreId) (x : CopyCmd) (rs : List CopyRow) : (s.unbookRows k x rs).1.ledger = s.ledger := by
  induction rs generalizing s with
  | nil => rfl
  | cons r rs ih =>
    rw [unbookRows]
    split
    · rfl
    · dsimp only
      rw [ih]
      split <;> split <;> simp

@[simp] theorem ledger_promiseRows (x : CopyCmd) (c : Option BreakCause) : (s.promiseRows x c).ledger = s.ledger := by
  simp [promiseRows]

@[simp] theorem ledger_bookCmd (k : CoreId) (x : CopyCmd) (t : Nat) (c : Option BreakCause) : (s.bookCmd k x t c).ledger = s.ledger := by
  simp [bookCmd]

@[simp] theorem ledger_relandRows (k : CoreId) (x : CopyCmd) (force : CopyRow → Bool) (rs : List CopyRow) (prev : Nat × Nat) :
    (s.relandRows k x force rs prev).1.ledger = s.ledger := by
  induction rs generalizing s prev with
  | nil => rfl
  | cons r rs ih =>
    rw [relandRows]
    split
    · rfl
    · dsimp only
      rw [ih]
      split
      · rfl
      · split
        · dsimp only
          rw [ledger_unbookRing _ _ _ (by simp)]
          simp
        · split
          · rfl
          · rfl

@[simp] theorem ledger_relandCmd (k : CoreId) (x : CopyCmd) (force : CopyRow → Bool) (c : BreakCause) :
    (s.relandCmd k x force c).ledger = s.ledger := by simp [relandCmd]

/-! ## Delays (R62) -/

@[simp] theorem ledger_delay (r : Req) (c : BreakCause) (level : Level) (j t : Nat) : (s.delay r c level j t).ledger = s.ledger := by
  unfold delay
  split
  · rfl
  · split
    · dsimp only
      split <;> simp
    · split <;> simp

@[simp] theorem ledger_delayAll (p : Slot → Bool) (t : Slot → Nat) (c : BreakCause) (level : Level) :
    (s.delayAll p t c level).ledger = s.ledger := by
  refine ledger_foldl s (fun s x => ?_) _
  split
  · rfl
  · split <;> simp

@[simp] theorem ledger_delayCopies (p : Slot → Bool) (t : Nat) (c : BreakCause) : (s.delayCopies p t c).ledger = s.ledger :=
  ledger_foldl s (fun s _ => ledger_foldl s (fun _ _ => ledger_bookCmd ..) _) _

/-! ## Probing again (R68, R280) -/

@[simp] theorem ledger_goOn (r : Req) : (s.goOn r).ledger = s.ledger := by
  unfold goOn
  dsimp only
  split <;> simp

@[simp] theorem ledger_pageTicket (cid : CtxId) (k : CoreId) (page : Nat) : (s.pageTicket cid k page).1.ledger = s.ledger := by
  unfold pageTicket
  split
  · rfl
  · split <;> simp

@[simp] theorem ledger_reprobed (r : Req) (c : Ctx) (b : Vector DWord 8) : (s.reprobed r c b).ledger = s.ledger := by
  unfold reprobed
  dsimp only
  split <;> simp

@[simp] theorem ledger_reprobe (r : Req) : (s.reprobe r).ledger = s.ledger := by
  unfold reprobe
  split
  · simp
  · split
    · rfl
    · split <;> simp

@[simp] theorem ledger_reprobeCopyDue (r : Req) : (s.reprobeCopyDue r).ledger = s.ledger := by
  unfold reprobeCopyDue
  dsimp only
  split
  · split
    · rfl
    · split
      · simp
      · simp
      · split <;> simp
  · rfl

@[simp] theorem ledger_reprobeCopy (r : Req) : (s.reprobeCopy r).ledger = s.ledger := by
  unfold reprobeCopy
  dsimp only
  split
  · simp
  · rfl

@[simp] theorem ledger_bookQueue (r : Req) (hub : Bool) (t floor : Nat) : (s.bookQueue r hub t floor).ledger = s.ledger := by
  simp [bookQueue]

@[simp] theorem ledger_reissue (r : Req) : (s.reissue r).ledger = s.ledger := by
  unfold reissue
  split
  · simp
  · split <;> simp
  · simp

@[simp] theorem ledger_reissueAt (id : Nat) (k : CoreId) : (s.reissueAt id k).ledger = s.ledger := by
  unfold reissueAt
  split <;> simp

@[simp] theorem ledger_noteResolved (c : CtxId) (cls : HeldClass) (t : Word) : (s.noteResolved c cls t).ledger = s.ledger := by
  unfold noteResolved
  split <;> simp

@[simp] theorem ledger_resolve (cls : HeldClass) (t : Word) : (s.resolve cls t).ledger = s.ledger := by
  refine ledger_foldl s (fun s r => ?_) _
  split <;> simp

@[simp] theorem ledger_retryWanted : s.retryWanted.ledger = s.ledger := by simp [retryWanted]

/-! ## The lapidary's operations, and frequency steps (R373) -/

@[simp] theorem ledger_scheduleOp (k : CoreId) (o : LapOp) : (s.scheduleOp k o).ledger = s.ledger := rfl

@[simp] theorem ledger_rescaleReqs (mask new b : Nat) : (s.rescaleReqs mask new b).ledger = s.ledger := by
  refine ledger_foldl s (fun s r => ?_) _
  dsimp only
  split <;> split <;> simp

@[simp] theorem ledger_rescaleAgenda (mask : Nat) : (s.rescaleAgenda mask).ledger = s.ledger := rfl

@[simp] theorem ledger_rescaleCopies (mask : Nat) : (s.rescaleCopies mask).ledger = s.ledger := by
  refine ledger_foldl s (fun s k => ledger_foldl s (fun s x => ?_) _) _
  dsimp only
  split <;> simp

/-- A change of the dies' clocks leaves the rest of the ledger. -/
theorem ledger_setDies (f : Fin 4 → Die → Die) :
    ∃ ds, (s.setDies f).ledger = { s.ledger with time := { s.time with dies := ds } } := ⟨_, rfl⟩

theorem ledger_holdClocks (mask code : Nat) (cmd : Bool) :
    ∃ ds, (s.holdClocks mask code cmd).ledger = { s.ledger with time := { s.time with dies := ds } } := by
  unfold holdClocks
  dsimp only
  rw [ledger_scheduleTask, ledger_rescaleCopies, ledger_rescaleAgenda]
  have h := ledger_rescaleReqs s mask (mhzOf code) (if cmd then s.now else s.now + 1)
  have ht : (s.rescaleReqs mask (mhzOf code) (if cmd then s.now else s.now + 1)).time = s.time := congrArg Ledger.time h
  refine (ledger_setDies ..).imp fun ds hds => hds.trans ?_
  rw [h, ht]

end State
end Sys2Proof.Machine
end

section
/-!
SUPPORT. Bit fields as numbers and as bit vectors, and numbers as bytes of memory (R1, R2).
-/
namespace Sys2Proof.Machine

/-- A bit range as a number is the extracted bit vector's. -/
theorem bits_eq_extract (x : DWord) (hi lo : Nat) : bits x hi lo = (x.extractLsb' lo (hi - lo + 1)).toNat := by
  rw [BitVec.extractLsb'_toNat, Nat.shiftRight_eq_div_pow, bits]

theorem ofNat_bits (x : DWord) (hi lo : Nat) : BitVec.ofNat (hi - lo + 1) (bits x hi lo) = x.extractLsb' lo (hi - lo + 1) := by
  rw [bits_eq_extract, BitVec.ofNat_toNat, BitVec.setWidth_eq]

/-- A bit that is set. -/
theorem getLsbD_or_two_pow {w j : Nat} (x : BitVec w) (hj : j < w) (n : Nat) :
    (x ||| BitVec.ofNat w (2 ^ n)).getLsbD j = (x.getLsbD j || j == n) := by
  have bit : (BitVec.ofNat w (2 ^ n)).getLsbD j = (j == n) := by
    rw [BitVec.getLsbD_ofNat, Nat.testBit_two_pow, decide_eq_true hj, Bool.true_and]
    exact decide_eq_decide.mpr eq_comm
  rw [BitVec.getLsbD_or, bit]

/-- A concatenation as a number. -/
theorem toNat_append_add {n m : Nat} (x : BitVec n) (y : BitVec m) : (x ++ y).toNat = x.toNat * 2 ^ m + y.toNat := by
  rw [BitVec.toNat_append, ← Nat.shiftLeft_add_eq_or_of_lt y.isLt, Nat.shiftLeft_eq]

@[simp] theorem length_natLe (n x : Nat) : (natLe n x).length = n := by
  induction n generalizing x with
  | zero => rfl
  | succ n ih => simp [natLe, ih]

/-- A number is read back from its bytes. -/
theorem leNat_natLe (n x : Nat) : leNat (natLe n x) = x % 256 ^ n := by
  induction n generalizing x with
  | zero => simp [natLe, leNat, Nat.mod_one]
  | succ n ih =>
    have split : 256 ^ (n + 1) = 256 * 256 ^ n := Nat.pow_succ'
    rw [natLe, leNat, ih, BitVec.toNat_ofNat, split, Nat.mod_mul]

@[simp] theorem length_memBytes (m : List Host.Cell) (a n : Nat) : (memBytes m a n).length = n := by simp [memBytes]

/-- Bytes within a write are read as they were written. -/
theorem memBytes_memWrite {m : List Host.Cell} (h : Memory.wf m = true) (a i n : Nat) (bs : List Byte) (hn : i + n ≤ bs.length) :
    memBytes (memWrite m a bs) (a + i) n = (bs.drop i).take n := by
  refine List.ext_getElem (by simp; omega) fun j h1 h2 => ?_
  have hj : j < n := by simpa using h1
  simp only [memBytes, List.getElem_map, List.getElem_range, List.getElem_take, List.getElem_drop]
  rw [memGet_memWrite _ _ _ h, if_pos (by omega), show a + i + j - a = i + j by omega]
  exact (List.getElem_eq_getD 0).symm

/-- A bit vector fits in its bytes. -/
theorem toNat_lt_bytes {w n : Nat} (x : BitVec w) (h : w ≤ 8 * n) : x.toNat < 256 ^ n := by
  rw [show 256 = 2 ^ 8 from rfl, ← Nat.pow_mul]
  exact Nat.lt_of_lt_of_le x.isLt (Nat.pow_le_pow_right (by decide) h)

/-- A number is read back from its place in a write to empty memory: `pre` stands before it, `rest` behind. -/
theorem leNat_field {pre rest bs : List Byte} {i n x : Nat} (h : bs = pre ++ (natLe n x ++ rest)) (hi : pre.length = i)
    (hx : x < 256 ^ n) : leNat (memBytes (memWrite [] 0 bs) i n) = x := by
  have field : memBytes (memWrite [] 0 bs) i n = natLe n x := by
    subst h hi
    have h := memBytes_memWrite (m := []) rfl 0 pre.length n (pre ++ (natLe n x ++ rest)) (by simp)
    rwa [Nat.zero_add, List.drop_left, List.take_left' (length_natLe ..)] at h
  rw [field, leNat_natLe, Nat.mod_eq_of_lt hx]

/-- The length of a list of blocks of `n`. -/
theorem length_flatMap {α β : Type} {f : α → List β} {n : Nat} (hf : ∀ x, (f x).length = n) (xs : List α) :
    (xs.flatMap f).length = n * xs.length := by
  induction xs with
  | nil => rfl
  | cons x xs ih => rw [List.flatMap_cons, List.length_append, hf, ih, List.length_cons, Nat.mul_succ, Nat.add_comm]

/-- A list of blocks around its block `i`. -/
theorem flatMap_split {α β : Type} (f : α → List β) (xs : List α) (i : Nat) (hi : i < xs.length) :
    xs.flatMap f = (xs.take i).flatMap f ++ (f xs[i] ++ (xs.drop (i + 1)).flatMap f) := by
  rw [← List.flatMap_cons, ← List.flatMap_append, ← List.drop_eq_getElem_cons hi, List.take_append_drop]

end Sys2Proof.Machine
end

section
/-!
O57. Start-up and the services of the steward (R6, R389, R398 to R403, R419).
-/
namespace Sys2Proof.Machine

open Obl

/-! ## Resets (R398, R401, R419) -/

/-- A device that is wiped and booted, whatever it held. -/
theorem State.reboot_rebooted (s : State) (lc : BitVec 2) (fail : Bool) : Rebooted s (s.reboot lc fail) lc fail := by
  cases fail with
  | false => exact ⟨rfl, rfl, fun _ => ⟨rfl, rfl, rfl, rfl, ofNat_bits s.sys.bootNext 23 16⟩, nofun⟩
  | true =>
    have vector : (0 : Byte) ||| BitVec.ofNat 8 (2 ^ (boxNo 0).val) = 1 := by decide
    have bell : (4 : Word) ||| 0x80000000 = 0x80000004 := by decide
    exact ⟨rfl, rfl, nofun, fun _ => ⟨rfl, rfl, bell, rfl, vector⟩⟩

theorem exec_powerOnReset (s : State) : exec .powerOnReset s = .next (s.reboot s.sys.lc s.arg.flag) := by
  show execPowerOnReset s = _
  rw [execPowerOnReset]

theorem exec_fundamentalReset (s : State) : exec .fundamentalReset s = .next (s.reboot s.sys.lc s.arg.flag) := by
  show execFundamentalReset s = _
  rw [execFundamentalReset]

/-- A command for a lifecycle state that may be entered resets the device; any other is ignored (R401). -/
theorem exec_lifecycleChange (s : State) : exec .lifecycleChange s =
    .next (if s.arg.n = 2 ∨ s.arg.n = 3 then s.reboot (BitVec.ofNat 2 s.arg.n) s.arg.flag else s) := by
  show execLifecycleChange s = _
  unfold execLifecycleChange
  split <;> simp_all

/-! ## READY (R400) -/

/-- Bit `n` of READY set. -/
def State.raise (s : State) (n : Nat) : State := s.setSys { s.sys with ready := s.sys.ready ||| BitVec.ofNat 64 (2 ^ n) }

theorem State.raise_bit (s : State) {n j : Nat} (hj : j < 64) :
    (s.raise n).sys.ready.getLsbD j = (s.sys.ready.getLsbD j || j == n) := getLsbD_or_two_pow _ hj n

/-- With no request held there is nothing to probe again. -/
theorem State.resolve_idle {s : State} (h : ∀ r ∈ s.reqs, r.held = none) (cls : HeldClass) (ticket : Word) : s.resolve cls ticket = s := by
  have none_held : s.heldWith cls ticket = [] := by
    refine List.filter_eq_nil_iff.mpr fun r hr => ?_
    simp [Req.heldFor, h r hr]
  rw [State.resolve, none_held, List.foldl_nil]

/-- What a rising bit brings about beyond READY: the system registers stay, and with no request held so do requests, gangs and
memory; a bit of the compute dies and the hub lets placement go on. -/
structure Risen (u t : State) (n : Nat) : Prop where
  sys  : t.sys = u.sys
  next : n < 7 → Comes t .crewPlacement (u.now + 1) fun _ => True
  idle : (∀ r ∈ u.reqs, r.held = none) → t.reqs = u.reqs ∧ t.gangs = u.gangs ∧ t.mem = u.mem

theorem mem_insertBy {α : Type} {lt : α → α → Bool} {a x : α} {xs : List α} : x ∈ insertBy lt a xs ↔ x = a ∨ x ∈ xs := by
  induction xs with
  | nil => simp [insertBy]
  | cons b bs ih =>
    unfold insertBy
    split
    · exact List.mem_cons
    · rw [List.mem_cons, ih, List.mem_cons]
      exact or_left_comm

/-- An event that is put on the agenda is there. -/
theorem comes_scheduleTask (s : State) {d : Due} {i : Instr} (hd : d.task = .ev i) {p : EvArg → Prop} (hp : p d.arg) :
    Comes (s.scheduleTask d) i d.tick p := ⟨d, mem_insertBy.mpr (.inl rfl), hd, rfl, hp⟩

theorem comes_schedule (s : State) (t : Nat) (i : Instr) (a : EvArg) {p : EvArg → Prop} (hp : p a) : Comes (s.schedule t i a) i t p :=
  comes_scheduleTask s rfl hp

theorem exec_readyBitRise_ignored {s : State}
    (h : s.arg.n < 3 ∨ 39 < s.arg.n ∨ s.sys.ready.getLsbD s.arg.n = true ∨ s.sys.ready.getLsbD 63 = true) :
    exec .readyBitRise s = .next s := by
  refine if_pos ?_
  simpa [or_assoc] using h

/-- Probing again what waits for a bit leaves the system registers; it does nothing where no request is held. -/
theorem risen_foldl_resolve {α : Type} (u : State) {n : Nat} (hn : ¬ n < 7) (f : α → HeldClass × Word) (xs : List α) :
    Risen u (xs.foldl (fun s x => s.resolve (f x).1 (f x).2) u) n where
  sys := congrArg Ledger.sys (State.ledger_foldl u (fun s x => State.ledger_resolve s _ _) xs)
  next h := absurd h hn
  idle h := by
    have same : xs.foldl (fun s x => s.resolve (f x).1 (f x).2) u = u := by
      induction xs with
      | nil => rfl
      | cons x xs ih => rw [List.foldl_cons, State.resolve_idle h, ih]
    rw [same]
    exact ⟨rfl, rfl, rfl⟩

theorem risen_retryWanted (u : State) {n : Nat} (hn : ¬ n < 7) : Risen u u.retryWanted n := by
  unfold State.retryWanted
  split
  · exact ⟨rfl, fun h => absurd h hn, fun _ => ⟨rfl, rfl, rfl⟩⟩
  · exact ⟨rfl, fun h => absurd h hn, fun _ => ⟨rfl, rfl, rfl⟩⟩

theorem exec_readyBitRise {s : State} (h3 : 3 ≤ s.arg.n) (h39 : s.arg.n ≤ 39) (hn : s.sys.ready.getLsbD s.arg.n = false)
    (hf : s.sys.ready.getLsbD 63 = false) : ∃ t, exec .readyBitRise s = .next t ∧ Risen (s.raise s.arg.n) t s.arg.n := by
  have passes : ¬ ((s.arg.n < 3 || 39 < s.arg.n || s.sys.ready.getLsbD s.arg.n || s.sys.ready.getLsbD 63) = true) := by
    rw [hn, hf]
    simp
    omega
  rw [show exec .readyBitRise s = _ from if_neg passes]
  change ∃ t, (if s.arg.n < 7 then Host.Outcome.next ((s.raise s.arg.n).schedule ((s.raise s.arg.n).now + 1) .crewPlacement EvArg.none)
      else if s.arg.n < 24 then .next ((s.raise s.arg.n).resolve .page 0)
      else if s.arg.n < 36 then
        .next (((List.finRange 256).filter fun p => ((s.raise s.arg.n).sys.route[p]).getLsbD (s.arg.n - 24)).foldl
          (fun s p => s.resolve .peer (BitVec.ofNat 32 p.val)) (s.raise s.arg.n))
      else if s.arg.n = 38 then .next (s.raise s.arg.n).retryWanted else .next (s.raise s.arg.n)) = .next t ∧ _
  generalize s.raise s.arg.n = u
  split
  · exact ⟨_, rfl, rfl, fun _ => comes_schedule _ _ _ _ trivial, fun _ => ⟨rfl, rfl, rfl⟩⟩
  · split
    · exact ⟨_, rfl, risen_foldl_resolve u ‹_› (fun _ : Unit => (.page, 0)) [()]⟩
    · split
      · exact ⟨_, rfl, risen_foldl_resolve u ‹_› (fun p : Fin 256 => (.peer, BitVec.ofNat 32 p.val)) _⟩
      · split
        · exact ⟨_, rfl, risen_retryWanted u ‹_›⟩
        · exact ⟨_, rfl, rfl, fun h => absurd h ‹_›, fun _ => ⟨rfl, rfl, rfl⟩⟩

/-! ## BOOTCFG (R398, R399) -/

/-- What a write leaves in the configuration flash, field by field. -/
theorem bootWritten_eq (old v : DWord) : bootWritten old v =
    (0 : BitVec 40) ++ v.extractLsb' 16 8 ++ (0 : BitVec 7) ++ v.extractLsb' 8 1 ++ (0 : BitVec 5) ++
      (if (v.extractLsb' 0 3).toNat ≤ 4 then v.extractLsb' 0 3 else old.extractLsb' 0 3) := by
  have fields (a : BitVec 8) (b : BitVec 1) (c : BitVec 3) :
      BitVec.ofNat 64 (a.toNat * 2 ^ 16 + b.toNat * 2 ^ 8 + c.toNat) = (0 : BitVec 40) ++ a ++ (0 : BitVec 7) ++ b ++ (0 : BitVec 5) ++ c := by
    apply BitVec.eq_of_toNat_eq
    have ha := a.isLt
    have hb := b.isLt
    have hc := c.isLt
    simp only [toNat_append_add, BitVec.ofNat_eq_ofNat, BitVec.toNat_ofNat]
    omega
  unfold bootWritten
  simp only [bits_eq_extract]
  split
  · exact fields _ _ _
  · exact fields _ _ _

theorem exec_bootcfgWrite (s : State) : exec .bootcfgWrite s = .next (if s.sys.ready.extractLsb' 7 16 = 0
    then s.setSys { s.sys with bootNext := bootWritten s.sys.bootNext s.arg.v } else s) := by
  have risen : (bits s.sys.ready 22 7 != 0) = true ↔ s.sys.ready.extractLsb' 7 16 ≠ 0 := by
    rw [bits_eq_extract, bne_iff_ne, Ne, Ne, BitVec.toNat_eq]
    rfl
  show execBootcfgWrite s = _
  unfold execBootcfgWrite
  by_cases h : s.sys.ready.extractLsb' 7 16 = 0
  · rw [if_neg fun set => risen.mp set h, if_pos h]
  · rw [if_pos (risen.mpr h), if_neg h]

/-! ## Attestation (R402, R403) -/

theorem exec_attestationRequest (s : State) : exec .attestationRequest s = .next (if s.sys.nonces.length < 8
    then s.setSys { s.sys with nonces := s.sys.nonces ++ [s.arg.wide] } else s) := by
  show execAttestationRequest s = _
  unfold execAttestationRequest
  split
  · rw [if_neg (by omega)]
  · rw [if_pos (by omega)]

/-- The fields of a signed report: the nonce, the lifecycle state, the device time, the measurements. -/
theorem report402_fields {s : State} {n : BitVec 512} {m : List Host.Cell} (hm : m = memWrite [] 0 (s.report402 n)) :
    leNat (memBytes m 0 64) = n.toNat ∧ leNat (memBytes m 80 8) = s.sys.lc.toNat ∧ leNat (memBytes m 88 8) = s.now % 2 ^ 64 ∧
      ∀ i : Fin 8, leNat (memBytes m (96 + 64 * i.val) 64) = (s.sys.meas[i]).toNat := by
  subst hm
  let serial := (List.range 16).map Config.serialByte
  let block := fun m : BitVec 512 => natLe 64 m.toNat
  let sign := (List.range 4627).map fun i => Config.reportByte s.freeNo i
  let head := natLe 64 n.toNat ++ serial
  have serial_length : serial.length = 16 := by simp [serial]
  have shape : s.report402 n = head ++ (natLe 8 s.sys.lc.toNat ++ (natLe 8 (s.now % 2 ^ 64) ++ (s.sys.meas.toList.flatMap block ++ sign))) := by
    simp only [State.report402, List.append_assoc, head]
    rfl
  refine ⟨?_, ?_, ?_, fun i => ?_⟩
  · exact leNat_field (pre := []) (by rw [shape, List.nil_append, List.append_assoc]) rfl (toNat_lt_bytes n (by decide))
  · exact leNat_field shape (by simp [head, serial_length]) (toNat_lt_bytes s.sys.lc (by decide))
  · refine leNat_field (pre := head ++ natLe 8 s.sys.lc.toNat) (by rw [shape, List.append_assoc head]) ?_ (Nat.mod_lt _ (by decide))
    simp [head, serial_length]
  · have hi : i.val < s.sys.meas.toList.length := by simp
    refine leNat_field (pre := head ++ natLe 8 s.sys.lc.toNat ++ natLe 8 (s.now % 2 ^ 64) ++ (s.sys.meas.toList.take i.val).flatMap block)
      (rest := (s.sys.meas.toList.drop (i.val + 1)).flatMap block ++ sign) ?_ ?_ (toNat_lt_bytes _ (by decide))
    · rw [shape, flatMap_split block _ i.val hi]
      simp only [List.append_assoc]
      rfl
    · simp [head, serial_length, length_flatMap (f := block) fun m => length_natLe .., Nat.le_of_lt i.isLt]
      omega

theorem exec_attestationReportSigned_none {s : State} (h : s.sys.nonces = []) : exec .attestationReportSigned s = .next s := by
  show execAttestationReportSigned s = _
  rw [execAttestationReportSigned, h]

/-- The state with the report on `n` signed, the nonces `rest` still waiting. -/
def State.signed (s : State) (n : BitVec 512) (rest : List (BitVec 512)) : State :=
  (s.setSys { s.sys with nonces := rest, reports := s.sys.reports + 1, lastRep := memWrite [] 0 (s.report402 n) }).useFree 1

theorem State.signed_lastRep (s : State) (n : BitVec 512) (rest : List (BitVec 512)) :
    (s.signed n rest).sys.lastRep = memWrite [] 0 (s.report402 n) := by
  generalize hm : memWrite [] 0 (s.report402 n) = m
  rw [State.signed, hm]
  rfl

theorem exec_attestationReportSigned {s : State} {n : BitVec 512} {rest : List (BitVec 512)} (h : s.sys.nonces = n :: rest) :
    exec .attestationReportSigned s = .next (s.signed n rest) := by
  show execAttestationReportSigned s = _
  rw [execAttestationReportSigned, h]
  rfl

/-! ## Mailboxes (R6, R389) -/

theorem boxNo_val (n : Fin 8) : boxNo n.val = n := Fin.ext (Nat.mod_eq_of_lt n.isLt)

theorem State.setBox_self (s : State) (n : Fin 8) (b : Mailbox) : (s.setBox n b).sys.boxes[n] = b := by
  show (s.sys.boxes.set n b)[n] = b
  simp

theorem State.setBox_other (s : State) {n j : Fin 8} (h : j ≠ n) (b : Mailbox) : (s.setBox n b).sys.boxes[j] = s.sys.boxes[j] := by
  show (s.sys.boxes.set n b)[j] = s.sys.boxes[j]
  simp [Fin.val_inj, Ne.symm h]

/-- A doorbell with some bits cleared unless they are kept. -/
theorem getLsbD_clearUnless (p : Bool) (x m : Word) (j : Nat) :
    (if p then x else x &&& m).getLsbD j = (x.getLsbD j && (p || m.getLsbD j)) := by
  cases p <;> simp

/-- Of a doorbell that is cleared, HOST and DEV stay where they are not written or were set in the same tick, and the rest stays. -/
theorem getLsbD_cleared (b : Mailbox) (v : DWord) (now : Nat) : 
    let keep := fun (bit at_ : Nat) => !v.getLsbD bit || (at_ = now && b.bell.getLsbD bit)
    let x := if keep 31 b.hostAt then b.bell else b.bell &&& 0x7FFFFFFF
    let y := if keep 30 b.devAt then x else x &&& 0xBFFFFFFF
    (∀ j, j < 30 → y.getLsbD j = b.bell.getLsbD j) ∧
      y.getLsbD 31 = (b.bell.getLsbD 31 && (!v.getLsbD 31 || decide (b.hostAt = now))) ∧
      y.getLsbD 30 = (b.bell.getLsbD 30 && (!v.getLsbD 30 || decide (b.devAt = now))) := by
  intro keep x y
  have low : ∀ j : Fin 30, (0x7FFFFFFF#32).getLsbD j = true ∧ (0xBFFFFFFF#32).getLsbD j = true := by decide
  have bit (j : Nat) : y.getLsbD j = (b.bell.getLsbD j && (keep 31 b.hostAt || (0x7FFFFFFF#32).getLsbD j) &&
      (keep 30 b.devAt || (0xBFFFFFFF#32).getLsbD j)) := by
    rw [getLsbD_clearUnless, getLsbD_clearUnless]
    rfl
  refine ⟨fun j hj => ?_, ?_, ?_⟩
  · obtain ⟨h1, h2⟩ := low ⟨j, hj⟩
    rw [bit, h1, h2]
    simp
  · rw [bit]
    simp only [keep]
    cases b.bell.getLsbD 31 <;> simp
  · rw [bit]
    simp only [keep]
    cases b.bell.getLsbD 30 <;> simp

/-- A doorbell that is set: the poster's bit and its tick; the steward's also raises the vector of its mailbox. -/
theorem exec_mailboxDoorbellSet (s : State) (n : Fin 8) (hn : s.arg.n = n.val) :
    ∃ t, exec .mailboxDoorbellSet s = .next t ∧ (∀ j : Fin 8, j ≠ n → t.sys.boxes[j] = s.sys.boxes[j]) ∧
      (s.arg.flag = true → t.sys.boxes[n] = { s.sys.boxes[n] with bell := (s.sys.boxes[n]).bell ||| 0x80000000, hostAt := s.now } ∧
        ∀ j, j < 8 → t.sys.msix.getLsbD j = (s.sys.msix.getLsbD j || j == n.val)) ∧
      (s.arg.flag = false → t.sys.boxes[n] = { s.sys.boxes[n] with bell := (s.sys.boxes[n]).bell ||| 0x40000000, devAt := s.now } ∧
        t.sys.msix = s.sys.msix) := by
  have ring : exec .mailboxDoorbellSet s = .next (s.ringBell n s.arg.flag) := by
    show execMailboxDoorbellSet s = _
    rw [execMailboxDoorbellSet, hn, boxNo_val]
  refine ⟨_, ring, ?_⟩
  cases s.arg.flag with
  | true =>
    refine ⟨fun j hj => State.setBox_other s hj _, fun _ => ⟨State.setBox_self s n _, fun j hj => ?_⟩, nofun⟩
    show (s.sys.msix ||| BitVec.ofNat 8 (2 ^ n.val)).getLsbD j = _
    rw [getLsbD_or_two_pow _ hj]
  | false => exact ⟨fun j hj => State.setBox_other s hj _, nofun, fun _ => ⟨State.setBox_self s n _, rfl⟩⟩

/-- A doorbell that is cleared. -/
theorem exec_mailboxDoorbellClear (s : State) (n : Fin 8) (hn : s.arg.n = n.val) :
    ∃ t, exec .mailboxDoorbellClear s = .next t ∧ (∀ j : Fin 8, j ≠ n → t.sys.boxes[j] = s.sys.boxes[j]) ∧
      (∀ j, j < 30 → ((t.sys.boxes[n]).bell).getLsbD j = (s.sys.boxes[n]).bell.getLsbD j) ∧
      ((t.sys.boxes[n]).bell).getLsbD 31 = ((s.sys.boxes[n]).bell.getLsbD 31 &&
        (!s.arg.v.getLsbD 31 || decide ((s.sys.boxes[n]).hostAt = s.now))) ∧
      ((t.sys.boxes[n]).bell).getLsbD 30 = ((s.sys.boxes[n]).bell.getLsbD 30 &&
        (!s.arg.v.getLsbD 30 || decide ((s.sys.boxes[n]).devAt = s.now))) := by
  refine ⟨_, rfl, fun j hj => State.setBox_other s (by rwa [hn, boxNo_val]) _, ?_⟩
  have box := State.setBox_self s n
  have bits := getLsbD_cleared (s.sys.boxes[n]) s.arg.v s.now
  simp only [hn, boxNo_val, box]
  exact bits

end Sys2Proof.Machine

open Sys2Proof Sys2Proof.Machine Sys2Proof.Obl

/-- Settles O57, service by service: a reset's state is compared field by field, probing again what waited for a bit of READY keeps
the system registers (`State.ledger_resolve`), a report's fields are read back from the bytes that were written. -/
theorem systemSteps : Obligations.SystemSteps := by
  unfold Obligations.SystemSteps
  refine ⟨fun s => ?_, fun s => ?_, fun s => ?_, fun s => ?_, fun s => ?_, fun s n hn => ?_⟩
  · exact ⟨_, exec_powerOnReset s, exec_fundamentalReset s, State.reboot_rebooted ..⟩
  · rw [exec_lifecycleChange]
    refine ⟨fun h => ⟨_, by rw [if_pos h], State.reboot_rebooted ..⟩, fun h2 h3 => by rw [if_neg (not_or.mpr ⟨h2, h3⟩)]⟩
  · refine ⟨exec_readyBitRise_ignored, fun h3 h39 hn hf => ?_⟩
    obtain ⟨t, ht, hsys, hnext, hidle⟩ := exec_readyBitRise h3 h39 hn hf
    exact ⟨t, ht, fun j hj => by rw [hsys, State.raise_bit s hj], hnext, hidle⟩
  · rw [exec_bootcfgWrite]
    exact ⟨fun h => by rw [if_neg h], fun h => by rw [if_pos h, bootWritten_eq]⟩
  · refine ⟨exec_attestationRequest s, fun h => ?_, fun n rest h => ?_⟩
    · exact exec_attestationReportSigned_none h
    · obtain ⟨hnonce, hlc, htime, hmeas⟩ := report402_fields (s.signed_lastRep n rest)
      exact ⟨s.signed n rest, exec_attestationReportSigned h, rfl, rfl, hnonce, hlc, htime, hmeas, rfl, rfl⟩
  · exact ⟨exec_mailboxDoorbellSet s n hn, exec_mailboxDoorbellClear s n hn⟩
end

section
/-!
SUPPORT. What a doubleword that the hub writes leaves as it is (R212), and the token log (R369).
-/
namespace Sys2Proof.Machine
open Sys2Proof.Obl

/-! ## Monitors that a write hits -/

theorem gangsKept_refl (s : State) : GangsKept s s := fun _ g h => ⟨g, h, ⟨rfl, rfl, rfl, rfl⟩, rfl, rfl⟩

theorem gangsKept_trans {s t u : State} (h1 : GangsKept s t) (h2 : GangsKept t u) : GangsKept s u := fun j g hg => by
  obtain ⟨y, hy, ⟨s1, v1, p1, q1⟩, place1, front1⟩ := h1 j g hg
  obtain ⟨z, hz, ⟨s2, v2, p2, q2⟩, place2, front2⟩ := h2 j y hy
  exact ⟨z, hz, ⟨s2.trans s1, v2.trans v1, p2.trans p1, q2.trans q1⟩, place2.trans place1, front2.trans front1⟩

/-- What the waking of records changes: cores, headers of records, the agenda. -/
structure Woken (s t : State) : Prop where
  rest  : t = { s with cores := t.cores, gangs := t.gangs, agenda := t.agenda }
  gangs : GangsKept s t

theorem Woken.refl (s : State) : Woken s s := ⟨rfl, gangsKept_refl s⟩

theorem Woken.trans {s t u : State} (h1 : Woken s t) (h2 : Woken t u) : Woken s u :=
  ⟨h2.rest.trans (by rw [h1.rest]), gangsKept_trans h1.gangs h2.gangs⟩

/-- A fold of steps that wake records wakes records. -/
theorem Woken.foldl {α : Type} {f : State → α → State} (hf : ∀ s x, Woken s (f s x)) (xs : List α) (s : State) :
    Woken s (xs.foldl f s) := by
  induction xs generalizing s with
  | nil => exact .refl s
  | cons x xs ih => exact (hf s x).trans (ih _)

theorem woken_makeEligible (s : State) (k : GangKey) (key : Tick) : Woken s (s.makeEligible k key) := by
  unfold State.makeEligible
  split
  next g hg =>
    refine iteInduction (motive := Woken s) (fun _ => ⟨rfl, fun j x hx => ?_⟩) fun _ => .refl s
    have looked : (s.putGang { g with hd := { g.hd with key := some (recordable key) } }).gang? j = _ := State.gang?_putGang ..
    by_cases hj : j = g.key
    · have hgx : g = x := by
        rw [State.gang?_key hg] at hj
        rw [hj, hg] at hx
        exact Option.some.inj hx
      rw [if_pos hj, hx] at looked
      exact ⟨_, looked, hgx ▸ ⟨rfl, rfl, rfl, rfl⟩, hgx ▸ rfl, hgx ▸ rfl⟩
    · rw [if_neg hj, hx] at looked
      exact ⟨x, looked, ⟨rfl, rfl, rfl, rfl⟩, rfl, rfl⟩
  next => exact .refl s

theorem woken_setCc (s : State) (k : CoreId) (x : CoreCtx) : Woken s (s.setCc k x) := ⟨rfl, gangsKept_refl s⟩

theorem woken_hitMonitors (s : State) (p : CoreId → Monitor → Bool) : Woken s (s.hitMonitors p) := by
  unfold State.hitMonitors
  refine iteInduction (motive := Woken s) (fun _ => .refl s) fun _ => Woken.foldl (fun s k => ?_) _ s
  dsimp only
  refine iteInduction (motive := Woken s) (fun _ => .refl s) fun _ => (woken_setCc ..).trans (Woken.foldl (fun s m => ?_) _ _)
  split
  next => exact iteInduction (motive := Woken s) (fun _ => woken_makeEligible ..) fun _ => .refl s
  next => exact .refl s

/-- With no monitor there is nothing to hit. -/
theorem hitMonitors_none {s : State} (h : ∀ k, (s.cc k).mons = []) (p : CoreId → Monitor → Bool) : s.hitMonitors p = s := by
  refine if_pos (List.all_eq_true.mpr fun co hco => ?_)
  obtain ⟨i, hi, rfl⟩ := List.getElem_of_mem hco
  have hk := h ⟨i, by simpa using hi⟩
  simpa [State.cc, State.core] using hk

/-- Doublewords that are written change memory, and wake who waits on them. -/
theorem woken_hubWords (s : State) (a : Nat) (ds : List DWord) : Woken (s.setMem (memDWords s.mem a ds)) (s.hubWords a ds) :=
  woken_hitMonitors ..

theorem hubWords_quiet (s : State) (a : Nat) (ds : List DWord) (h : ∀ k, (s.cc k).mons = []) :
    s.hubWords a ds = s.setMem (memDWords s.mem a ds) := by
  generalize hm : memDWords s.mem a ds = m
  rw [State.hubWords, State.hitWritten, hm]
  exact hitMonitors_none (s := s.setMem m) h _

/-! ## Entries of the token log (R369, R394) -/

/-- Doublewords as they were written are read back, and the bytes around them are as before. -/
theorem memDWord_memDWords {m : List Host.Cell} (h : Memory.wf m = true) (a : Nat) (ds : List DWord) :
    (∀ i (hi : i < ds.length), memDWord (memDWords m a ds) (a + 8 * i) = ds[i]) ∧
      ∀ x, x < a ∨ a + 8 * ds.length ≤ x → memGet (memDWords m a ds) x = memGet m x := by
  induction ds generalizing m a with
  | nil => exact ⟨nofun, fun _ _ => rfl⟩
  | cons d ds ih =>
    obtain ⟨tail, out⟩ := ih (Memory.wf_memSetDWord a d h) (a + 8)
    refine ⟨fun i hi => ?_, fun x hx => ?_⟩
    · cases i with
      | zero =>
        have bytes : memBytes (memDWords m a (d :: ds)) a 8 = natLe 8 d.toNat := by
          have first := memBytes_memWrite h a 0 8 (natLe 8 d.toNat) (by simp)
          rw [List.drop_zero, List.take_of_length_le (by simp)] at first
          rw [← first, Nat.add_zero]
          refine List.map_congr_left fun j hj => out _ (.inl ?_)
          exact Nat.add_lt_add_left (List.mem_range.mp hj) a
        rw [Nat.mul_zero, Nat.add_zero, memDWord, bytes, leNat_natLe, Nat.mod_eq_of_lt (toNat_lt_bytes d (by decide))]
        exact (BitVec.ofNat_toNat ..).trans d.setWidth_eq
      | succ i =>
        have := tail i (Nat.lt_of_succ_lt_succ hi)
        rwa [show a + 8 + 8 * i = a + 8 * (i + 1) by omega] at this
    · rw [List.length_cons] at hx
      rw [memDWords, out x (by omega)]
      exact memGet_memWrite_other a x _ h (by rw [length_natLe]; omega)

/-- The place of an entry of 32 bytes (R394). -/
theorem ringEntry_eq (s : State) (r : DWord) (n : Nat) : s.ringEntry r 32 n = ringPlaceOf s r n := by
  unfold State.ringEntry ringPlaceOf
  simp only [bits_eq_extract, Nat.reduceSub, Nat.reduceAdd]
  generalize (r.extractLsb' 52 5).toNat = k, (r.extractLsb' 0 52).toNat = base
  have absent : (k < 4 || 16 < k || !s.inHbm base) = true ↔ ¬ (4 ≤ k ∧ k ≤ 16 ∧ s.inHbm base = true) := by
    cases s.inHbm base with
    | false => simp
    | true =>
      simp only [Bool.not_true, Bool.or_false, Bool.or_eq_true, decide_eq_true_eq, and_true]
      omega
  by_cases h : 4 ≤ k ∧ k ≤ 16 ∧ s.inHbm base = true
  · rw [if_pos h, if_neg fun none => absent.mp none h]
  · rw [if_neg h, if_pos (absent.mpr h)]

/-- The doublewords of an entry of the token log (R369). -/
def State.tokenWords (s : State) (event peer watts sq first periods : Nat) : List DWord :=
  [BitVec.ofNat 64 (event * 2 ^ 56 + peer % 2 ^ 8 * 2 ^ 48 + watts % 2 ^ 16 * 2 ^ 32 + sq % 2 ^ 32),
   BitVec.ofNat 64 (first * 2 ^ 16 + periods % 2 ^ 16), s.time64, BitVec.ofNat 64 (s.power.eff.toNat * 2 ^ 32)]

/-- An entry counted. -/
def State.countToken (s : State) : State := s.setPower { s.power with tokWr := s.power.tokWr + 1 }

section
variable (s : State) (event peer watts sq first periods : Nat)

/-- An entry goes where the ring has its place; without a ring it is only counted. -/
theorem logToken_eq : s.logToken event peer watts sq first periods =
    (ringPlaceOf s s.power.tokLog s.power.tokWr.toNat).elim s.countToken fun a =>
      s.countToken.hubWords a (s.tokenWords event peer watts sq first periods) := by
  have place : s.countToken.ringEntry s.power.tokLog 32 s.power.tokWr.toNat = ringPlaceOf s s.power.tokLog s.power.tokWr.toNat :=
    ringEntry_eq ..
  rw [← place]
  show (match s.countToken.ringEntry s.power.tokLog 32 s.power.tokWr.toNat with
    | none => s.countToken
    | some a => s.countToken.hubWords a (s.tokenWords event peer watts sq first periods)) = _
  split <;> rename_i h <;> rw [h] <;> rfl

/-- A write of memory whose waiters wake, power apart. -/
theorem powerOnly_of_woken {s t : State} {w : Power} {m : List Host.Cell} (h : Woken ((s.setPower w).setMem m) t)
    (quiet : (∀ k, (s.cc k).mons = []) → t = (s.setPower w).setMem m) : PowerOnly s t := ⟨w, m, h.rest, h.gangs, quiet⟩

/-- Logging counts the entry, writes memory, and wakes who waits on what is written. -/
theorem powerOnly_logToken : PowerOnly s (s.logToken event peer watts sq first periods) := by
  rw [logToken_eq]
  cases ringPlaceOf s s.power.tokLog s.power.tokWr.toNat with
  | none => exact ⟨s.countToken.power, s.mem, rfl, gangsKept_refl s, fun _ => rfl⟩
  | some a =>
    generalize s.tokenWords event peer watts sq first periods = ds
    exact powerOnly_of_woken (woken_hubWords s.countToken a ds) (hubWords_quiet s.countToken a ds)

theorem power_logToken : (s.logToken event peer watts sq first periods).power = { s.power with tokWr := s.power.tokWr + 1 } := by
  rw [logToken_eq]
  cases ringPlaceOf s s.power.tokLog s.power.tokWr.toNat with
  | none => rfl
  | some a => exact congrArg Ledger.power (State.ledger_hubWords s.countToken a _)

/-- The entry is read back where the ring has its place. -/
theorem entryWritten_logToken {d0 d1 d2 d3 : DWord} (h : s.tokenWords event peer watts sq first periods = [d0, d1, d2, d3]) :
    EntryWritten s (s.logToken event peer watts sq first periods) s.power.tokLog s.power.tokWr.toNat d0 d1 d2 d3 := by
  rw [logToken_eq, h, EntryWritten]
  cases ringPlaceOf s s.power.tokLog s.power.tokWr.toNat with
  | none => rfl
  | some a =>
    intro wf
    have hmem : (s.countToken.hubWords a [d0, d1, d2, d3]).mem = memDWords s.mem a [d0, d1, d2, d3] := State.hubWords_mem ..
    obtain ⟨words, out⟩ := memDWord_memDWords wf a [d0, d1, d2, d3]
    simp only [Option.elim_some, hmem]
    exact ⟨words 0 (by simp), words 1 (by simp), words 2 (by simp), words 3 (by simp), out⟩
end

/-- The doublewords of an event of a trade, field by field (R369). -/
theorem tokenWords_trade (s : State) (event : Nat) (x : Trade) :
    s.tokenWords event x.peer.val x.watts.toNat x.sq.toNat x.first.toNat x.periods.toNat =
      [BitVec.ofNat 8 event ++ BitVec.ofNat 8 x.peer.val ++ x.watts ++ x.sq, x.first ++ x.periods, BitVec.ofNat 64 s.now,
        (0 : BitVec 16) ++ s.power.eff ++ (0 : BitVec 32)] := by
  have hpeer := x.peer.isLt
  have hwatts := x.watts.isLt
  have hsq := x.sq.isLt
  have hfirst := x.first.isLt
  have hperiods := x.periods.isLt
  have heff := s.power.eff.isLt
  unfold State.tokenWords
  congr 1
  · refine BitVec.eq_of_toNat_eq ?_
    simp only [toNat_append_add, BitVec.toNat_ofNat]
    omega
  · congr 1
    · refine BitVec.eq_of_toNat_eq ?_
      simp only [toNat_append_add, BitVec.toNat_ofNat]
      omega
    · congr 2
      refine BitVec.eq_of_toNat_eq ?_
      simp only [toNat_append_add, BitVec.toNat_ofNat, BitVec.ofNat_eq_ofNat]
      omega

/-- An event of a trade is logged (R369). -/
theorem tokenLogged_logTrade (s : State) (event : Nat) (x : Trade) : TokenLogged s (s.logTrade event x) event x :=
  ⟨congrArg Power.tokWr (power_logToken ..), entryWritten_logToken _ _ _ _ _ _ _ (tokenWords_trade s event x)⟩

theorem power_logTrade (s : State) (event : Nat) (x : Trade) :
    (s.logTrade event x).power = { s.power with tokWr := s.power.tokWr + 1 } := power_logToken ..

theorem powerOnly_logTrade (s : State) (event : Nat) (x : Trade) : PowerOnly s (s.logTrade event x) := powerOnly_logToken ..

theorem powerOnly_setPower (s : State) (w : Power) : PowerOnly s (s.setPower w) := ⟨w, s.mem, rfl, gangsKept_refl s, fun _ => rfl⟩

theorem powerOnly_trans {s t u : State} (h1 : PowerOnly s t) (h2 : PowerOnly t u) : PowerOnly s u := by
  obtain ⟨w, m, rest1, gangs1, quiet1⟩ := h1
  obtain ⟨w', m', rest2, gangs2, quiet2⟩ := h2
  refine ⟨w', m', rest2.trans (by rw [rest1]), gangsKept_trans gangs1 gangs2, fun h => ?_⟩
  have same := quiet1 h
  have none_left (k : CoreId) : (t.cc k).mons = [] := by
    rw [same]
    exact h k
  rw [quiet2 none_left, same]

end Sys2Proof.Machine
end

section
/-!
SUPPORT. Token periods, the licensed allowance, trades with peers (R364, R367, R368).
-/
namespace Sys2Proof.Machine
open Sys2Proof.Obl

/-! ## The periods at which the sum of trades changes -/

/-- Periods that the same trades cover. -/
def Power.SameCover (w : Power) (p q : Nat) : Prop := ∀ t ∈ w.trades, t.covers p = t.covers q

theorem Power.tradeSum_congr {w : Power} {p q : Nat} (h : w.SameCover p q) (count : Trade → Bool) :
    tradeSum count w.trades p = tradeSum count w.trades q := by
  unfold tradeSum
  rw [List.filter_congr fun t ht => by rw [h t ht]]

theorem Power.least_congr {w : Power} {p q : Nat} (h : w.SameCover p q) (lic : Nat) : w.least lic p = w.least lic q := by
  rw [Power.least, Power.least, tradeSum_congr h]

theorem Power.most_congr {w : Power} {p q : Nat} (h : w.SameCover p q) (lic : Nat) : w.most lic p = w.most lic q := by
  rw [Power.most, Power.most, tradeSum_congr h]

theorem Power.mem_changes {w : Power} {lo hi q : Nat} : q ∈ w.changes lo hi ↔
    q = lo ∨ (∃ t ∈ w.trades, q = t.first.toNat ∨ q = t.stop) ∧ lo ≤ q ∧ q < hi := by
  simp [Power.changes]

/-- Between two changes every period is covered as the change before it is. -/
theorem Power.exists_change (w : Power) {lo hi p : Nat} (hlo : lo ≤ p) (hhi : p < hi) : ∃ q ∈ w.changes lo hi, w.SameCover q p := by
  induction hlo with
  | refl => exact ⟨lo, List.mem_cons_self, fun _ _ => rfl⟩
  | @step p hp ih =>
    have hp : lo ≤ p := hp
    by_cases change : p + 1 ∈ w.changes lo hi
    · exact ⟨p + 1, change, fun _ _ => rfl⟩
    · obtain ⟨q, hq, same⟩ := ih (by omega)
      refine ⟨q, hq, fun t ht => (same t ht).trans ?_⟩
      have off : ¬ (p + 1 = t.first.toNat ∨ p + 1 = t.stop) := fun h => change (mem_changes.mpr (.inr ⟨⟨t, ht, h⟩, by omega, hhi⟩))
      have first : t.first.toNat ≤ p ↔ t.first.toNat ≤ p + 1 := by omega
      have stop : p < t.stop ↔ p + 1 < t.stop := by omega
      simp only [Trade.covers, first, stop]

/-- What depends on the trades in force holds throughout as soon as it holds at every change. -/
theorem Power.changes_all {w : Power} {lo hi : Nat} (h : lo < hi) {f : Nat → Bool} (hf : ∀ p q, w.SameCover p q → f p = f q) :
    (w.changes lo hi).all f = true ↔ ∀ p, lo ≤ p → p < hi → f p = true := by
  rw [List.all_eq_true]
  refine ⟨fun all p hlo hhi => ?_, fun all q hq => ?_⟩
  · obtain ⟨q, hq, same⟩ := w.exists_change hlo hhi
    rw [← hf q p same]
    exact all q hq
  · obtain rfl | ⟨-, hlo, hhi⟩ := mem_changes.mp hq
    · exact all q (Nat.le_refl q) h
    · exact all q hlo hhi

/-! ## The period boundary (R364) -/

/-- Events have been logged, and nothing else changed but who waits on the log's memory. -/
structure Logs (s t : State) : Prop where
  only  : PowerOnly s t
  power : ∃ n, t.power = { s.power with tokWr := n }

theorem Logs.refl (s : State) : Logs s s := ⟨powerOnly_setPower s s.power, s.power.tokWr, rfl⟩

theorem Logs.trans {s t u : State} (h1 : Logs s t) (h2 : Logs t u) : Logs s u := by
  obtain ⟨only1, n1, power1⟩ := h1
  obtain ⟨only2, n2, power2⟩ := h2
  exact ⟨powerOnly_trans only1 only2, n2, by rw [power2, power1]⟩

theorem logs_logToken (s : State) (event peer watts sq first periods : Nat) : Logs s (s.logToken event peer watts sq first periods) :=
  ⟨powerOnly_logToken .., _, power_logToken ..⟩

theorem logs_foldl_logTrade (event : Nat) (ts : List Trade) (s : State) : Logs s (ts.foldl (fun s t => s.logTrade event t) s) := by
  induction ts generalizing s with
  | nil => exact .refl s
  | cons t ts ih => exact (logs_logToken ..).trans (ih _)

/-- The trades that a boundary keeps: firm ones that do not end by `p`, others that have not begun. -/
def Power.keptTrades (w : Power) (p : Nat) : List Trade :=
  w.trades.filter fun t => !(t.firm && t.stop ≤ p) && !(!t.firm && t.first.toNat ≤ p)

theorem Power.mem_keptTrades {w : Power} {p : Nat} {x : Trade} : x ∈ w.keptTrades p ↔
    x ∈ w.trades ∧ if x.firm then p < x.first.toNat + x.periods.toNat else p < x.first.toNat := by
  rw [Power.keptTrades, List.mem_filter]
  have stop : x.first.toNat + x.periods.toNat = x.stop := rfl
  rw [stop]
  cases x.firm <;> simp

/-- Power as a boundary leaves it: the new licence, the trades in force, EFF from both, no tokens spent. -/
def Power.renew (w : Power) (p : Nat) : Power :=
  let w' := { w with lic := w.licNext, trades := w.keptTrades p }
  let eff := BitVec.ofInt 16 (w'.lic.toNat + w'.netAt p)
  { w' with net := BitVec.ofInt 16 (w'.netAt p), eff := eff, left := eff.toNat, round := 0 }

/-- A boundary renews power, logs what happened to trades, and sets the next one. -/
theorem exec_tokenPeriodBoundary (s : State) : ∃ t,
    exec .tokenPeriodBoundary s = .next (t.schedule ((s.period + 1) * periodTicks) .tokenPeriodBoundary EvArg.none) ∧
      Logs (s.setPower (s.power.renew s.period)) t ∧ (s.power.trades = [] → s.power.lic = s.power.licNext → t.mem = s.mem) := by
  refine ⟨_, rfl, ?_, fun none_traded same => ?_⟩
  · refine .trans ?_ (.trans (logs_foldl_logTrade ..) (.trans (logs_foldl_logTrade ..) (logs_foldl_logTrade ..)))
    exact iteInduction (motive := Logs _) (fun _ => .refl _) fun _ => logs_logToken ..
  · simp only [none_traded, same, List.filter_nil, List.foldl_nil, if_true]
    rfl

/-! ## The licensed allowance (R367) -/

/-- A licence of `n` watts keeps EFF in range in every coming period. -/
def State.LicFits (s : State) (n : Nat) : Prop :=
  1500 ≤ n ∧ n ≤ 4000 ∧ ∀ p, s.now / 2000000 < p → p < 2 ^ 48 → 1500 ≤ s.power.least n p ∧ s.power.most n p ≤ 4000

theorem licFits_iff {s : State} (h : s.now / 2000000 + 1 < 2 ^ 48) (n : Nat) :
    (1500 ≤ n && n ≤ 4000 && (s.power.changes (s.period + 1) (2 ^ 48)).all fun p =>
      1500 ≤ s.power.least n p && s.power.most n p ≤ 4000) = true ↔ s.LicFits n := by
  have coming := Power.changes_all (w := s.power) (lo := s.period + 1) (hi := 2 ^ 48) h
    (f := fun p => 1500 ≤ s.power.least n p && s.power.most n p ≤ 4000) fun p q same => by
      rw [Power.least_congr same, Power.most_congr same]
  simp only [Bool.and_eq_true, decide_eq_true_eq] at coming ⊢
  rw [coming, and_assoc]
  rfl

/-- The three outcomes of a write of LIC. -/
theorem exec_pwrStatLicWrite (s : State) : exec .pwrStatLicWrite s =
    let n := (s.arg.v.extractLsb' 0 16).toNat
    if !(1500 ≤ n && n ≤ 4000 && (s.power.changes (s.period + 1) (2 ^ 48)).all fun p =>
      1500 ≤ s.power.least n p && s.power.most n p ≤ 4000) then .next s
    else if s.now % 2000000 = 0 && !s.arg.flag then
      .next (s.scheduleTask ⟨s.now, 4, .ev .pwrStatLicWrite, { s.arg with flag := true }⟩)
    else .next (s.setPower { s.power with licNext := s.arg.v.extractLsb' 0 16 }) := by
  show execPwrStatLicWrite s = _
  unfold execPwrStatLicWrite
  have watts : bits s.arg.v 15 0 = (s.arg.v.extractLsb' 0 16).toNat := bits_eq_extract ..
  have lic : BitVec.ofNat 16 (bits s.arg.v 15 0) = s.arg.v.extractLsb' 0 16 := ofNat_bits ..
  dsimp only
  rw [lic, watts]
  rfl

/-! ## Offers (R368) -/

/-- The reserved bits of an offer are dropped (R4). -/
theorem setBits_reserved (v : DWord) : setBits v 31 24 0 = v.extractLsb' 32 32 ++ (0 : BitVec 8) ++ v.extractLsb' 0 24 := by
  refine BitVec.eq_of_toNat_eq ?_
  have hv := v.isLt
  simp only [setBits, toNat_append_add, BitVec.extractLsb'_toNat, Nat.shiftRight_eq_div_pow, BitVec.toNat_ofNat, BitVec.ofNat_eq_ofNat]
  simp only [Nat.reduceSub, Nat.reduceAdd, Nat.reducePow]
  omega

/-- The trade that a write `v` of TOK_OFFER offers. -/
def State.offered (s : State) (v : DWord) : Trade :=
  ⟨⟨(v.extractLsb' 16 8).toNat, (v.extractLsb' 16 8).isLt⟩, true, s.power.sq, v.extractLsb' 48 16,
    BitVec.ofNat 48 (s.now / 2000000 + (v.extractLsb' 0 16).toNat), v.extractLsb' 32 16, false, false⟩

/-- An offer of legal size that leaves EFF at 1,500 W in every period that it covers. -/
def State.OfferGood (s : State) (v : DWord) : Prop :=
  let x := s.offered v
  let f := s.now / 2000000 + (v.extractLsb' 0 16).toNat
  1 ≤ x.watts.toNat ∧ x.watts.toNat ≤ 2500 ∧ 1 ≤ x.periods.toNat ∧ 2 ≤ (v.extractLsb' 0 16).toNat ∧
    ∀ p, f ≤ p → p < f + x.periods.toNat → 1500 + (x.watts.toNat : Int) ≤ s.power.least s.power.licNext.toNat p

/-- The offer register written, its sequence number used. -/
def State.takeOffer (s : State) (v : DWord) : State := s.setPower { s.power with offer := v, sq := s.power.sq + 1 }

/-- The test of an offer as it is made, on the numbers of `v`. -/
theorem offerGood_iff (s : State) (v : DWord) :
    (1 ≤ bits v 63 48 && bits v 63 48 ≤ 2500 && 1 ≤ bits v 47 32 && 2 ≤ bits v 15 0 &&
      (s.power.changes (s.period + bits v 15 0) (s.period + bits v 15 0 + bits v 47 32)).all fun p =>
        1500 + (bits v 63 48 : Int) ≤ s.power.least s.power.licNext.toNat p) = true ↔ s.OfferGood v := by
  have watts : bits v 63 48 = (v.extractLsb' 48 16).toNat := bits_eq_extract ..
  have periods : bits v 47 32 = (v.extractLsb' 32 16).toNat := bits_eq_extract ..
  have ahead : bits v 15 0 = (v.extractLsb' 0 16).toNat := bits_eq_extract ..
  rw [watts, periods, ahead]
  simp only [Bool.and_eq_true, decide_eq_true_eq, and_assoc]
  refine and_congr_right fun _ => and_congr_right fun _ => and_congr_right fun some_period => and_congr_right fun _ => ?_
  rw [Power.changes_all (Nat.lt_add_of_pos_right some_period) fun p q same => by rw [Power.least_congr same]]
  simp only [decide_eq_true_eq]
  rfl

theorem offered_eq (s : State) (v : DWord) : (⟨⟨bits v 23 16 % 256, Nat.mod_lt _ (by decide)⟩, true, s.power.sq, BitVec.ofNat 16 (bits v 63 48),
    BitVec.ofNat 48 (s.period + bits v 15 0), BitVec.ofNat 16 (bits v 47 32), false, false⟩ : Trade) = s.offered v := by
  have peer : bits v 23 16 = (v.extractLsb' 16 8).toNat := bits_eq_extract ..
  have watts : BitVec.ofNat 16 (bits v 63 48) = v.extractLsb' 48 16 := ofNat_bits ..
  have periods : BitVec.ofNat 16 (bits v 47 32) = v.extractLsb' 32 16 := ofNat_bits ..
  have ahead : bits v 15 0 = (v.extractLsb' 0 16).toNat := bits_eq_extract ..
  have small : (v.extractLsb' 16 8).toNat % 256 = (v.extractLsb' 16 8).toNat := Nat.mod_eq_of_lt (v.extractLsb' 16 8).isLt
  simp only [watts, periods, ahead, peer, small]
  rfl

theorem exec_tokOffer_good {s : State} {v : DWord} (hv : setBits s.arg.v 31 24 0 = v) (h : s.OfferGood v) : exec .tokOffer s =
    .next (((s.takeOffer v).setTrades (s.power.trades ++ [s.offered v])).logTrade 1 (s.offered v)) := by
  show execTokOffer s = _
  unfold execTokOffer
  subst hv
  dsimp only
  rw [offered_eq, if_pos ((offerGood_iff s _).mpr h)]
  rfl

theorem exec_tokOffer_bad {s : State} {v : DWord} (hv : setBits s.arg.v 31 24 0 = v) (h : ¬ s.OfferGood v) : exec .tokOffer s =
    .next ((s.takeOffer v).logTrade 3 (s.offered v)) := by
  show execTokOffer s = _
  unfold execTokOffer
  subst hv
  dsimp only
  rw [offered_eq, if_neg (mt (offerGood_iff s _).mp h)]
  rfl

/-- The offer of a peer, of `watts` in `periods` periods, as this device takes it. -/
def State.received (s : State) (watts periods : Nat) : Trade :=
  ⟨s.fromPeer, false, s.arg.ticket, BitVec.ofNat 16 watts, BitVec.ofNat 48 s.arg.v.toNat, BitVec.ofNat 16 periods, true, false⟩

/-- The watts of a peer's offer keep EFF at 4,000 W in every period that it covers. -/
def State.TakesOffer (s : State) (watts periods : Nat) : Prop :=
  ∀ p, s.arg.v.toNat ≤ p → p < s.arg.v.toNat + periods → s.power.most s.power.licNext.toNat p + watts ≤ 4000

theorem takesOffer_iff (s : State) (watts : Nat) {periods : Nat} (h : 1 ≤ periods) :
    ((s.power.changes s.arg.v.toNat (s.arg.v.toNat + periods)).all fun p =>
      s.power.most s.power.licNext.toNat p + (watts : Int) ≤ 4000) = true ↔ s.TakesOffer watts periods := by
  rw [Power.changes_all (Nat.lt_add_of_pos_right h) fun p q same => by rw [Power.most_congr same]]
  simp only [decide_eq_true_eq]
  rfl

theorem exec_tokenOfferReceived (s : State) {watts periods : Nat} (hp : s.arg.pairs = [(watts, periods)]) :
    exec .tokenOfferReceived s =
      if (s.power.changes s.arg.v.toNat (s.arg.v.toNat + periods)).all fun p => s.power.most s.power.licNext.toNat p + (watts : Int) ≤ 4000 then
        .next ((s.setTrades (s.power.trades ++ [s.received watts periods])).logTrade 2 (s.received watts periods))
      else .next (s.logTrade 3 (s.received watts periods)) := by
  show execTokenOfferReceived s = _
  unfold execTokenOfferReceived
  dsimp only
  rw [hp]
  rfl

/-! ## Settling a trade (R368) -/

/-- The trade that a message is about is on the list and not firm. -/
theorem tradeOf_some {s : State} {giver : Bool} {x : Trade} (h : s.tradeOf giver = some x) : x ∈ s.power.trades ∧ x.firm = false := by
  refine ⟨List.mem_of_find?_eq_some h, ?_⟩
  have found := List.find?_some h
  simp only [Bool.and_eq_true, Bool.not_eq_true'] at found
  exact found.2

/-- A trade is gone, and the others that are not firm are as before. -/
def Settled (s t : State) (x : Trade) : Prop := PowerOnly s t ∧ x ∉ t.power.trades ∧ TradesBut s t x

theorem settled_dropTrade (s : State) (x : Trade) : Settled s (s.dropTrade x) x := by
  have mem (y : Trade) : y ∈ (s.dropTrade x).power.trades ↔ y ∈ s.power.trades ∧ y ≠ x := by
    show y ∈ s.power.trades.filter _ ↔ _
    simp
  refine ⟨powerOnly_setPower .., fun h => ((mem x).mp h).2 rfl, fun y hy _ => ?_⟩
  rw [mem]
  exact and_iff_left hy

/-- A trade that is made firm stands in for the old one. -/
theorem settled_putTrade {s : State} {x new : Trade} (hx : x ∈ s.power.trades) (hold : x.firm = false) (hnew : new.firm = true) :
    Settled s (s.putTrade x new) x ∧ new ∈ (s.putTrade x new).power.trades := by
  have mem (y : Trade) : y ∈ (s.putTrade x new).power.trades ↔ y = new ∨ y ∈ s.power.trades ∧ y ≠ x := by
    show y ∈ s.power.trades.map _ ↔ _
    rw [List.mem_map]
    constructor
    · rintro ⟨z, hz, rfl⟩
      by_cases h : z = x
      · exact .inl (if_pos h)
      · rw [if_neg h]; exact .inr ⟨hz, h⟩
    · rintro (rfl | ⟨hy, h⟩)
      · exact ⟨x, hx, if_pos rfl⟩
      · exact ⟨y, hy, if_neg h⟩
  have differs {y : Trade} (h : y.firm = false) : y ≠ new := fun e => by rw [e, hnew] at h; cases h
  refine ⟨⟨powerOnly_setPower .., fun h => ?_, fun y hy firm => ?_⟩, (mem new).mpr (.inl rfl)⟩
  · rw [mem] at h
    exact h.elim (differs hold) fun h => h.2 rfl
  · rw [mem, or_iff_right (differs firm)]
    exact and_iff_left hy

/-- Logging does not change who trades what. -/
theorem Settled.logTrade {s t : State} {x : Trade} (h : Settled s t x) (event : Nat) (y : Trade) : Settled s (t.logTrade event y) x := by
  obtain ⟨only, gone, others⟩ := h
  refine ⟨powerOnly_trans only (powerOnly_logTrade ..), ?_, ?_⟩
  · rwa [power_logTrade]
  · intro z
    rw [power_logTrade]
    exact others z

theorem exec_tokenAckReceived {s : State} {x : Trade} (h : s.tradeOf true = some x) : exec .tokenAckReceived s =
    if s.now < (x.first.toNat - 1) * 2000000 then
      .next (((s.putTrade x { x with acked := true, firm := true }).logTrade 2 x).logTrade 4 x)
    else .next (s.dropTrade x) := by
  show execTokenAckReceived s = _
  rw [execTokenAckReceived, h]
  rfl

theorem exec_tokenRefuseReceived {s : State} {x : Trade} (h : s.tradeOf true = some x) :
    exec .tokenRefuseReceived s = .next ((s.dropTrade x).logTrade 3 x) := by
  show execTokenRefuseReceived s = _
  rw [execTokenRefuseReceived, h]

theorem exec_tokenCommitReceived {s : State} {x : Trade} (h : s.tradeOf false = some x) : exec .tokenCommitReceived s =
    if s.now < x.first.toNat * 2000000 then .next ((s.putTrade x { x with firm := true }).logTrade 4 x)
    else .next ((s.dropTrade x).logTrade 6 x) := by
  show execTokenCommitReceived s = _
  rw [execTokenCommitReceived, h]
  rfl

end Sys2Proof.Machine
end

section
/-!
SUPPORT. The grants of a round (R365), the arbiter's round (R366, R370), throttling (R366).
-/
namespace Sys2Proof.Machine
open Sys2Proof.Obl

/-! ## Grants (R365) -/

theorem total_eq_sum (v : Vector Nat 22) : total v = v.toList.sum := List.sum_eq_foldl.symm

/-- Rounding each share down takes nothing more out. -/
theorem sum_shares_mul_le (n d : Nat) (xs : List Nat) : (xs.map fun x => n * x / d).sum * d ≤ n * xs.sum := by
  induction xs with
  | nil => exact Nat.le_of_eq (Nat.zero_mul d)
  | cons x xs ih =>
    rw [List.map_cons, List.sum_cons, List.sum_cons, Nat.add_mul, Nat.mul_add]
    exact Nat.add_le_add (Nat.div_mul_le_self ..) ih

/-- Shares of `n` in proportion to weights add up to `n` at most. -/
theorem sum_shares_le (n : Nat) (v : Vector Nat 22) (h : 0 < total v) : (v.toList.map fun x => n * x / total v).sum ≤ n := by
  refine Nat.le_of_mul_le_mul_right ?_ h
  have shares := sum_shares_mul_le n (total v) v.toList
  rwa [← total_eq_sum] at shares

/-- A sum of pairs is the sum of their parts. -/
theorem sum_zipWith_le (g : Nat → Nat) (xs ys : List Nat) : (List.zipWith (fun x y => x + g y) xs ys).sum ≤ xs.sum + (ys.map g).sum := by
  induction xs generalizing ys with
  | nil => exact Nat.zero_le _
  | cons x xs ih =>
    cases ys with
    | nil => exact Nat.zero_le _
    | cons y ys =>
      rw [List.zipWith_cons_cons, List.map_cons, List.sum_cons, List.sum_cons, List.sum_cons]
      have := ih ys
      omega

/-- The floors with shares of the rest, entry by entry. -/
theorem toList_floors_shares (floors demands : Vector Nat 22) (g : Nat → Nat) :
    (Vector.ofFn fun i : Fin 22 => floors[i] + g demands[i]).toList =
      List.zipWith (fun f d => f + g d) floors.toList demands.toList := by
  rw [← Vector.toList_zipWith]
  refine congrArg Vector.toList (Vector.ext fun i hi => ?_)
  rw [Vector.getElem_ofFn, Vector.getElem_zipWith]
  rfl

/-- The grants do not exceed the tokens. -/
theorem total_grantsOf_le (n : Nat) (floors demands : Vector Nat 22) : total (grantsOf n floors demands) ≤ n := by
  show total (if n < total floors then floors.map fun f => n * f / total floors
    else if total demands = 0 then floors
    else Vector.ofFn fun i => floors[i] + (n - total floors) * demands[i] / total demands) ≤ n
  by_cases short : n < total floors
  · rw [if_pos short, total_eq_sum, Vector.toList_map]
    exact sum_shares_le n floors (by omega)
  · rw [if_neg short]
    by_cases idle : total demands = 0
    · rw [if_pos idle]
      omega
    · rw [if_neg idle, total_eq_sum, toList_floors_shares floors demands fun d => (n - total floors) * d / total demands]
      have shares := sum_shares_le (n - total floors) demands (by omega)
      have parts := sum_zipWith_le (fun d => (n - total floors) * d / total demands) floors.toList demands.toList
      rw [← total_eq_sum floors] at parts
      omega

/-- Where the tokens suffice each consumer has its idle floor. -/
theorem floor_le_grantsOf {n : Nat} {floors : Vector Nat 22} (demands : Vector Nat 22) (h : total floors ≤ n) (i : Fin 22) :
    floors[i] ≤ (grantsOf n floors demands)[i] := by
  show _ ≤ (if n < total floors then floors.map fun f => n * f / total floors
    else if total demands = 0 then floors
    else Vector.ofFn fun i => floors[i] + (n - total floors) * demands[i] / total demands)[i]
  rw [if_neg (Nat.not_lt.mpr h)]
  split
  · exact Nat.le_refl _
  · simp

/-! ## A round (R366, R370) -/

/-- Of the ledger only the dies' clocks changed. -/
def SameButDies (s t : State) : Prop := ∃ ds, t.ledger = { s.ledger with time := { s.time with dies := ds } }

theorem SameButDies.refl (s : State) : SameButDies s s := ⟨s.time.dies, rfl⟩

theorem SameButDies.trans {s t u : State} (h1 : SameButDies s t) (h2 : SameButDies t u) : SameButDies s u := by
  obtain ⟨_, e1⟩ := h1
  obtain ⟨ds, e2⟩ := h2
  have time := congrArg Ledger.time e1
  exact ⟨ds, by rw [e2, e1, show t.time = _ from time]⟩

theorem sameButDies_arbiterSteps (s : State) (f : Nat) : SameButDies s (s.arbiterSteps f) := by
  unfold State.arbiterSteps
  refine iteInduction (motive := SameButDies s) (fun _ => .refl s) fun steps => ?_
  clear steps
  generalize List.finRange 4 = ds
  induction ds generalizing s with
  | nil => exact .refl s
  | cons d ds ih =>
    rw [List.foldl_cons]
    refine .trans ?_ (ih _)
    split
    · exact iteInduction (motive := SameButDies s) (fun _ => State.ledger_holdClocks ..) fun _ => .refl s
    · exact .refl s

/-- Power after a round: energy taken off what is left, grants made, throttles ended. -/
def State.roundPower (s : State) : Power :=
  let f := s.freeNo
  let w := s.power
  let round := s.now % periodTicks / roundTicks
  let used : Vector Nat 22 := Vector.ofFn fun i => Config.consumerEnergy f i.val
  let demands : Vector Nat 22 := Vector.ofFn fun i => Config.consumerDemand f i.val
  let left := if round = 0 then w.left else w.left - used.toList.foldl (· + ·) 0
  { w with left := left, round := round, used := used, demands := demands
           grants := grantsOf (left / (100 - round)) (Vector.ofFn fun i => Config.idleFloor i.val) demands
           step := Vector.replicate 22 0, unattr := w.unattr + BitVec.ofNat 64 (Config.unattributedEnergy f) }

/-- The state with power, launches and cores as a round leaves them. -/
def State.roundState (s : State) : State :=
  ((s.setPower s.roundPower).setSlices (s.slices.map fun l => l.accrue (Config.roundEnergy s.freeNo l.id.toNat))).setCores
    (s.cores.map fun co => { co with gated := false })

theorem exec_arbiterRound (s : State) : ∃ t, SameButDies s.roundState t ∧
    exec .arbiterRound s = .next (t.schedule ((s.now / roundTicks + 1) * roundTicks) .arbiterRound EvArg.none) := by
  obtain ⟨ds, same⟩ := sameButDies_arbiterSteps s.roundState s.freeNo
  have now : (s.roundState.arbiterSteps s.freeNo).now = s.now := congrArg (fun l => l.time.now) same
  refine ⟨(s.roundState.arbiterSteps s.freeNo).useFree 1, ⟨ds, same⟩, ?_⟩
  rw [← now]
  rfl

/-- A launch found after a round is the one before it with its share of energy. -/
theorem slice?_roundState {s : State} {l : LaunchId} {x : Slice} (h : s.slice? l = some x) :
    s.roundState.slice? l = some (x.accrue (Config.roundEnergy s.freeNo x.id.toNat)) := by
  show (s.slices.map _).find? _ = _
  rw [List.find?_map]
  exact congrArg (Option.map _) h

theorem gated_roundState (s : State) (k : CoreId) : (s.roundState.core k).gated = false := by
  simp [State.roundState, State.core, State.setCores]

end Sys2Proof.Machine
end

section
/-!
SUPPORT. The steps of a throttle (R366, R247).
-/
namespace Sys2Proof.Machine
open Sys2Proof.Obl

/-! ## Gating a lapidary's cells (R247) -/

/-- The lapidary with its cells gated for `v` clocks from clock `clk` on. -/
def Lapidary.gate (lap : Lapidary) (clk v : Nat) : Lapidary :=
  let till := max lap.gateTill (clk + v)
  let more := till - max lap.gateTill clk
  { lap with ops := gatedOps clk till more 0 lap.ops, gateTill := till
             stop := lap.stop.map fun x => if clk < x.2 then (x.1, x.2 + more) else x }

/-- Gating changes the lapidary; the delay of its operations changes requests and the agenda only. -/
theorem ledger_gateCells (s : State) (k : CoreId) (v : Nat) :
    (s.gateCells k v).ledger = (s.setLap k ((s.lap k).gate (s.clock k) v)).ledger := by
  unfold State.gateCells
  dsimp only
  refine (State.ledger_foldl _ (fun s x => ?_) _).trans (State.ledger_count ..)
  refine State.ledger_of_ite rfl ?_
  have again (s : State) (p : Due → Bool) (reads : List Due) (d : Nat) (o : LapOp) :
      ((reads.foldl (fun s y => s.dueIn k (y.arg.m + d) y.rank y.task { y.arg with m := y.arg.m + d }) (s.unschedule p)).scheduleOp k o).ledger
        = s.ledger := by
    rw [State.ledger_scheduleOp]
    exact (State.ledger_foldl _ (fun s y => State.ledger_dueIn ..) _).trans (State.ledger_unschedule ..)
  split
  · exact again ..
  · rw [State.ledger_moved]
    exact again ..

theorem lap_setLap (s : State) (k j : CoreId) (x : Lapidary) : (s.setLap k x).lap j = if j = k then x else s.lap j := by
  unfold State.lap State.setLap State.setCc State.cc
  rw [State.core_setCore]
  split <;> rfl

/-- What the gating of cells leaves: power, clocks, and each lapidary but the core's own. -/
theorem gateCells_law (s : State) (k : CoreId) (v : Nat) :
    (s.gateCells k v).power = s.power ∧ (∀ j, (s.gateCells k v).clock j = s.clock j) ∧
      ∀ j, (s.gateCells k v).lap j = if j = k then (s.lap k).gate (s.clock k) v else s.lap j := by
  have h := ledger_gateCells s k v
  refine ⟨congrArg Ledger.power h, fun j => ?_, fun j => ?_⟩
  · exact State.clock_congr (congrArg Ledger.time h) (congrArg Ledger.round h) j
  · exact (congrArg (fun l => l.laps j) h).trans (lap_setLap ..)

/-- The cells of several cores gated: each as it would be alone. -/
theorem foldl_gateCells_law {ks : List CoreId} (hks : ks.Nodup) (s : State) (v : Nat) :
    (ks.foldl (fun s k => s.gateCells k v) s).power = s.power ∧
      ∀ j, (ks.foldl (fun s k => s.gateCells k v) s).lap j = if j ∈ ks then (s.lap j).gate (s.clock j) v else s.lap j := by
  induction ks generalizing s with
  | nil => exact ⟨rfl, fun j => by simp⟩
  | cons k ks ih =>
    obtain ⟨fresh, hks⟩ := List.nodup_cons.mp hks
    obtain ⟨power, clock, lap⟩ := gateCells_law s k v
    obtain ⟨power', lap'⟩ := ih hks (s.gateCells k v)
    refine ⟨power'.trans power, fun j => ?_⟩
    rw [List.foldl_cons, lap', clock, lap]
    by_cases hj : j = k
    · subst hj
      simp [fresh]
    · simp [hj]

/-- One accepted operation, its cells gated (R247, R250). -/
theorem gatedOps_single (clk till more : Nat) (o : LapOp) : ∃ p, gatedOps clk till more 0 [o] = [p] ∧ p.id = o.id ∧
    p.begin = (if o.finish ≤ clk ∨ o.begin ≤ clk ∨ till < o.begin then o.begin else till + 1) ∧
    p.finish = if o.finish ≤ clk then o.finish else if o.begin ≤ clk then o.finish + more else o.finish + (p.begin - o.begin) := by
  refine ⟨_, rfl, ?_⟩
  by_cases done : o.finish ≤ clk
  · simp [done]
  · by_cases begun : o.begin ≤ clk
    · simp [done, begun]
    · by_cases later : till < o.begin
      · simp [done, begun, later, Nat.not_le.mpr later]
      · simp [done, begun, later, Nat.not_lt.mp later]

/-! ## The steps (R366) -/

/-- Step `m` of a consumer taken. -/
def State.stepped (s : State) (c : Fin 22) (m : Nat) : State :=
  s.setPower { s.power with step := s.power.step.set c (max m s.power.step[c]) }

/-- The cores of a consumer that is a compute die. -/
def coresOf (c : Fin 22) : List CoreId := (List.finRange 256).filter fun k => (dieOf k).val = c.val

theorem nodup_coresOf (c : Fin 22) : (coresOf c).Nodup := (List.nodup_finRange 256).filter _

theorem mem_coresOf {c : Fin 22} {k : CoreId} : k ∈ coresOf c ↔ (dieOf k).val = c.val := by simp [coresOf]

/-- The slots that step 4 withholds before tick `till`: those of a stack, or of the capacity tier. -/
def withheld (now till : Nat) (c : Fin 22) (x : Slot) : Bool :=
  now ≤ x.tick && x.tick < till && (match x.res with
    | .hbm q _ => q.val + 5 = c.val
    | .cap _ => c.val = 21
    | _ => false)

/-- What a step does beyond being taken. -/
def State.throttled (u : State) (c : Fin 22) (m : Nat) : State :=
  match m with
  | 2 => (coresOf c).foldl (fun s k => s.setCore k { s.core k with gated := u.arg.flag }) u
  | 3 => (coresOf c).foldl (fun s k => s.gateCells k u.arg.v.toNat) u
  | 4 => (u.delayAll (withheld u.now u.arg.v.toNat c) (fun _ => u.arg.v.toNat) .power (if c.val = 21 then 5 else 3)).delayCopies
      (withheld u.now u.arg.v.toNat c) u.arg.v.toNat .power
  | _ => u

/-- Quarters of cores gated, each core's once. -/
theorem foldl_gated (u : State) (flag : Bool) (ks : List CoreId) :
    let t := ks.foldl (fun s k => s.setCore k { s.core k with gated := flag }) u
    (t.power = u.power ∧ t.gangs = u.gangs ∧ t.reqs = u.reqs) ∧
      ∀ j, t.core j = if j ∈ ks then { u.core j with gated := flag } else u.core j := by
  induction ks generalizing u with
  | nil => exact ⟨⟨rfl, rfl, rfl⟩, fun j => by simp⟩
  | cons k ks ih =>
    obtain ⟨same, core⟩ := ih (u.setCore k { u.core k with gated := flag })
    refine ⟨same, fun j => ?_⟩
    rw [List.foldl_cons, core, State.core_setCore]
    by_cases hj : j = k
    · subst hj
      simp
    · simp [hj]

/-- With nothing booked nothing is delayed. -/
theorem delay_none {u : State} (hr : ∀ r ∈ u.reqs, r.slots = []) (hc : ∀ k, (u.cc k).cmds = []) (p : Slot → Bool) (t : Slot → Nat)
    (till : Nat) (cause : BreakCause) (level : Level) : (u.delayAll p t cause level).delayCopies p till cause = u := by
  have no_users : u.usersOf p = [] := List.filterMap_eq_nil_iff.mpr fun r h => by simp [hr r h]
  have idle (k : CoreId) : u.running k = [] := by simp [State.running, hc k]
  rw [State.delayAll, no_users, List.foldl_nil, State.delayCopies]
  generalize List.finRange 256 = ks
  induction ks with
  | nil => rfl
  | cons k ks ih =>
    rw [List.foldl_cons, idle k]
    exact ih

section
variable {s : State} {c : Fin 22} (hc : s.arg.n = c.val)
include hc

/-- The table entry of a consumer. -/
theorem step_vget : vget s.power.step s.arg.n = s.power.step[c] := by
  unfold vget
  simp only [hc, Fin.getElem_fin, Nat.min_eq_left (Nat.le_of_lt_succ c.isLt)]

theorem exec_throttle_ignored (h : s.arg.m = 0 ∨ 4 < s.arg.m ∨ s.power.step[c] + 1 < s.arg.m) : exec .throttle s = .next s := by
  show execThrottle s = _
  unfold execThrottle
  refine if_pos ?_
  simp only [step_vget hc, Bool.or_eq_true, decide_eq_true_eq]
  rw [or_assoc, or_assoc]
  exact .inr h

/-- A step that follows the one taken has its effect. -/
theorem exec_throttle {m : Nat} (hm : s.arg.m = m) (h1 : 1 ≤ m) (h4 : m ≤ 4) (h : m ≤ s.power.step[c] + 1) :
    exec .throttle s = .next ((s.stepped c m).throttled c m) := by
  have step := step_vget hc
  have set (x : Nat) : vset s.power.step c.val x = s.power.step.set c x := by
    refine Vector.ext fun i hi => ?_
    simp [vset, Vector.getElem_setIfInBounds, Vector.getElem_set]
  have follows : ¬ (22 ≤ s.arg.n || s.arg.m = 0 || 4 < s.arg.m || vget s.power.step s.arg.n + 1 < s.arg.m) = true := by
    rw [step]
    simp only [Bool.or_eq_true, decide_eq_true_eq]
    omega
  show execThrottle s = _
  unfold execThrottle
  dsimp only
  rw [if_neg follows, step, hm, hc, set]
  obtain rfl | rfl | rfl | rfl : m = 1 ∨ m = 2 ∨ m = 3 ∨ m = 4 := by omega
  · rfl
  · rfl
  · rfl
  · rfl
end

end Sys2Proof.Machine
end

section
/-!
O55. The power arbiter (R4, R364 to R369).
-/
namespace Sys2Proof.Machine
open Sys2Proof.Obl

/-- A boundary renews power (R364, R367, R368). -/
theorem tokenPeriodBoundary_law (s : State) : let p := s.now / 2000000
    ∃ t, exec .tokenPeriodBoundary s = .next t ∧ t.power.lic = s.power.licNext ∧ GangsKept s t ∧ t.reqs = s.reqs ∧
      (∀ x, x ∈ t.power.trades ↔ x ∈ s.power.trades ∧ if x.firm then p < x.first.toNat + x.periods.toNat else p < x.first.toNat) ∧
      t.power.net = BitVec.ofInt 16 (t.power.netAt p) ∧ t.power.eff = BitVec.ofInt 16 (s.power.licNext.toNat + t.power.netAt p) ∧
      t.power.left = t.power.eff.toNat ∧ (s.power.trades = [] → s.power.lic = s.power.licNext → t.mem = s.mem) ∧
      Comes t .tokenPeriodBoundary ((p + 1) * 2000000) fun _ => True := by
  obtain ⟨t, ht, ⟨⟨w, m, rest, gangs, -⟩, n, power⟩, quiet⟩ := exec_tokenPeriodBoundary s
  refine ⟨_, ht, ?_⟩
  have reqs : t.reqs = s.reqs := by rw [rest]; rfl
  refine ⟨congrArg Power.lic power, gangs, reqs, fun x => ?_, ?_, ?_, ?_, quiet, comes_schedule _ _ _ _ trivial⟩
  · show x ∈ t.power.trades ↔ _
    rw [power]
    exact Power.mem_keptTrades
  · show t.power.net = BitVec.ofInt 16 (t.power.netAt _)
    rw [power]
    rfl
  · show t.power.eff = BitVec.ofInt 16 (_ + t.power.netAt _)
    rw [power]
    rfl
  · show t.power.left = t.power.eff.toNat
    rw [power]
    rfl

/-- A write of LIC is ignored, put off to the next round of the tick, or takes effect (R367). -/
theorem pwrStatLicWrite_law {s : State} (h : s.now / 2000000 + 1 < 2 ^ 48) : let n := (s.arg.v.extractLsb' 0 16).toNat
    (¬ s.LicFits n → exec .pwrStatLicWrite s = .next s) ∧
    (s.LicFits n → s.now % 2000000 ≠ 0 ∨ s.arg.flag = true →
      exec .pwrStatLicWrite s = .next (s.setPower { s.power with licNext := s.arg.v.extractLsb' 0 16 })) ∧
    (s.LicFits n → s.now % 2000000 = 0 → s.arg.flag = false → ∃ t, exec .pwrStatLicWrite s = .next t ∧ t.power = s.power ∧
      Comes t .pwrStatLicWrite s.now fun a => a = { s.arg with flag := true }) := by
  intro n
  have outcome := exec_pwrStatLicWrite s
  dsimp only at outcome
  have fits := licFits_iff h n
  have late : (s.now % 2000000 = 0 && !s.arg.flag) = true ↔ s.now % 2000000 = 0 ∧ s.arg.flag = false := by simp
  refine ⟨fun bad => ?_, fun good off => ?_, fun good zero first => ?_⟩
  · exact outcome.trans (if_pos (by rw [Bool.not_eq_true', ← Bool.not_eq_true]; exact mt fits.mp bad))
  · refine outcome.trans ((if_neg (by rw [fits.mpr good]; decide)).trans (if_neg fun both => ?_))
    obtain ⟨zero, first⟩ := late.mp both
    exact off.elim (fun h => h zero) fun h => by rw [first] at h; cases h
  · exact ⟨_, outcome.trans ((if_neg (by rw [fits.mpr good]; decide)).trans (if_pos (late.mpr ⟨zero, first⟩))), rfl,
      comes_scheduleTask s rfl rfl⟩

/-- An offer is sent, or refused at once (R368). -/
theorem tokOffer_law (s : State) {v : DWord} (hv : setBits s.arg.v 31 24 0 = v) :
    ∃ t, exec .tokOffer s = .next t ∧ PowerOnly s t ∧ t.power.offer = v ∧ t.power.sq = s.power.sq + 1 ∧
      (s.OfferGood v → t.power.trades = s.power.trades ++ [s.offered v] ∧ TokenLogged s t 1 (s.offered v)) ∧
      (¬ s.OfferGood v → t.power.trades = s.power.trades ∧ TokenLogged s t 3 (s.offered v)) := by
  by_cases good : s.OfferGood v
  · refine ⟨_, exec_tokOffer_good hv good, powerOnly_trans (powerOnly_setPower ..) (powerOnly_logTrade ..), ?_, ?_,
      fun _ => ⟨?_, tokenLogged_logTrade ..⟩, fun bad => absurd good bad⟩ <;> rw [power_logTrade] <;> rfl
  · refine ⟨_, exec_tokOffer_bad hv good, powerOnly_trans (powerOnly_setPower ..) (powerOnly_logTrade ..), ?_, ?_,
      fun h => absurd h good, fun _ => ⟨?_, tokenLogged_logTrade ..⟩⟩ <;> rw [power_logTrade] <;> rfl

/-- A peer's offer is taken, or refused (R368). -/
theorem tokenOfferReceived_law (s : State) {watts periods : Nat} (hp : s.arg.pairs = [(watts, periods)]) (h : 1 ≤ periods) :
    ∃ t, exec .tokenOfferReceived s = .next t ∧ PowerOnly s t ∧
      (s.TakesOffer watts periods → t.power.trades = s.power.trades ++ [s.received watts periods] ∧
        TokenLogged s t 2 (s.received watts periods)) ∧
      (¬ s.TakesOffer watts periods → t.power.trades = s.power.trades ∧ TokenLogged s t 3 (s.received watts periods)) := by
  have outcome := exec_tokenOfferReceived s hp
  have takes := takesOffer_iff s watts h
  by_cases good : s.TakesOffer watts periods
  · refine ⟨_, outcome.trans (if_pos (takes.mpr good)), powerOnly_trans (powerOnly_setPower ..) (powerOnly_logTrade ..),
      fun _ => ⟨?_, tokenLogged_logTrade ..⟩, fun bad => absurd good bad⟩
    rw [power_logTrade]
    rfl
  · refine ⟨_, outcome.trans (if_neg (mt takes.mp good)), powerOnly_logTrade .., fun h => absurd h good,
      fun _ => ⟨?_, tokenLogged_logTrade ..⟩⟩
    rw [power_logTrade]

/-- ACK in time makes the trade firm and is logged with COMMIT; ACK too late drops the trade (R368). -/
theorem tokenAckReceived_law {s : State} {x : Trade} (h : s.tradeOf true = some x) :
    (s.now < (x.first.toNat - 1) * 2000000 → ∃ t, exec .tokenAckReceived s = .next t ∧ Settled s t x ∧
      { x with acked := true, firm := true } ∈ t.power.trades ∧ t.power.tokWr = s.power.tokWr + 2) ∧
    ((x.first.toNat - 1) * 2000000 ≤ s.now → ∃ t, exec .tokenAckReceived s = .next t ∧ Settled s t x ∧ t.mem = s.mem) := by
  obtain ⟨hx, hold⟩ := tradeOf_some h
  have outcome := exec_tokenAckReceived h
  refine ⟨fun soon => ?_, fun late => ?_⟩
  · obtain ⟨settled, firm⟩ := settled_putTrade (s := s) (new := { x with acked := true, firm := true }) hx hold rfl
    refine ⟨_, outcome.trans (if_pos soon), (settled.logTrade 2 x).logTrade 4 x, ?_, ?_⟩
    · rw [power_logTrade, power_logTrade]
      exact firm
    · rw [power_logTrade, power_logTrade]
      exact BitVec.add_assoc s.power.tokWr 1 1
  · exact ⟨_, outcome.trans (if_neg (Nat.not_lt.mpr late)), settled_dropTrade s x, rfl⟩

/-- COMMIT in time makes the trade firm; COMMIT too late strands its watts (R368). -/
theorem tokenCommitReceived_law {s : State} {x : Trade} (h : s.tradeOf false = some x) :
    (s.now < x.first.toNat * 2000000 → ∃ t, exec .tokenCommitReceived s = .next t ∧ Settled s t x ∧
      { x with firm := true } ∈ t.power.trades ∧ TokenLogged s t 4 x) ∧
    (x.first.toNat * 2000000 ≤ s.now → ∃ t, exec .tokenCommitReceived s = .next t ∧ Settled s t x ∧ TokenLogged s t 6 x) := by
  obtain ⟨hx, hold⟩ := tradeOf_some h
  have outcome := exec_tokenCommitReceived h
  refine ⟨fun soon => ?_, fun late => ?_⟩
  · obtain ⟨settled, firm⟩ := settled_putTrade (s := s) (new := { x with firm := true }) hx hold rfl
    refine ⟨_, outcome.trans (if_pos soon), settled.logTrade 4 x, ?_, tokenLogged_logTrade ..⟩
    rw [power_logTrade]
    exact firm
  · exact ⟨_, outcome.trans (if_neg (Nat.not_lt.mpr late)), (settled_dropTrade s x).logTrade 6 x, tokenLogged_logTrade ..⟩

theorem roundPower_left (s : State) : s.roundPower.left = if s.now % 2000000 / 20000 = 0 then s.power.left
    else s.power.left - total (Vector.ofFn fun i => Config.consumerEnergy s.freeNo i.val) := rfl

/-- A round (R365, R366, R370). -/
theorem arbiterRound_law (s : State) : let round := s.now % 2000000 / 20000
    ∃ t, exec .arbiterRound s = .next t ∧ t.power.left ≤ s.power.left ∧ (round = 0 → t.power.left = s.power.left) ∧
      total t.power.grants ≤ t.power.left / (100 - round) ∧
      (total (Vector.ofFn fun i => Config.idleFloor i.val) ≤ t.power.left / (100 - round) →
        ∀ i : Fin 22, Config.idleFloor i.val ≤ t.power.grants[i]) ∧
      t.power.step = Vector.replicate 22 0 ∧ (∀ k, (t.core k).gated = false) ∧
      (∀ l x, s.slice? l = some x → ∃ e y, t.slice? l = some y ∧ y.acc = x.acc + BitVec.ofNat 64 ((x.accRem + e) / 65536) ∧
        y.accRem = (x.accRem + e) % 65536 ∧ y.accShown = y.acc) ∧
      Comes t .arbiterRound ((s.now / 20000 + 1) * 20000) fun _ => True := by
  obtain ⟨t, ⟨ds, same⟩, ht⟩ := exec_arbiterRound s
  refine ⟨_, ht, ?_⟩
  have power : t.power = s.roundPower := congrArg Ledger.power same
  have slices : t.slices = s.roundState.slices := congrArg Ledger.slices same
  have gated (k : CoreId) : (t.core k).gated = (s.roundState.core k).gated := congrArg (fun l => l.gated k) same
  show t.power.left ≤ _ ∧ (_ → t.power.left = _) ∧ total t.power.grants ≤ t.power.left / _ ∧
    (_ ≤ t.power.left / _ → ∀ i : Fin 22, _ ≤ t.power.grants[i]) ∧ t.power.step = _ ∧ _
  rw [power]
  refine ⟨?_, fun first => if_pos first, total_grantsOf_le .., fun h i => ?_, rfl, fun k => (gated k).trans (gated_roundState s k), fun l x hx => ?_,
    comes_schedule _ _ _ _ trivial⟩
  · rw [roundPower_left]
    split
    · exact Nat.le_refl _
    · exact Nat.sub_le ..
  · have floor := floor_le_grantsOf (Vector.ofFn fun i => Config.consumerDemand s.freeNo i.val) h i
    rwa [Fin.getElem_fin, Vector.getElem_ofFn] at floor
  · refine ⟨Config.roundEnergy s.freeNo x.id.toNat, x.accrue (Config.roundEnergy s.freeNo x.id.toNat), ?_, ?_⟩
    · show t.slices.find? _ = _
      rw [slices]
      exact slice?_roundState hx
    · simp [Slice.accrue, Nat.add_comm]

/-- Step 2 gates a die's quarters, or ends their gating, and changes nothing else of what software sees (R366). -/
theorem throttled_two (u : State) (c : Fin 22) :
    ((u.throttled c 2).power = u.power ∧ (u.throttled c 2).gangs = u.gangs ∧ (u.throttled c 2).reqs = u.reqs) ∧
      ∀ k, (u.throttled c 2).core k = if (dieOf k).val = c.val then { u.core k with gated := u.arg.flag } else u.core k := by
  obtain ⟨same, core⟩ := foldl_gated u u.arg.flag (coresOf c)
  simp only [mem_coresOf] at core
  exact ⟨same, core⟩

/-- Step 3 gates the cells of a die's lapidaries (R366, R247). -/
theorem throttled_three (u : State) (c : Fin 22) : (u.throttled c 3).power = u.power ∧
    ∀ k, (u.throttled c 3).lap k = if (dieOf k).val = c.val then (u.lap k).gate (u.clock k) u.arg.v.toNat else u.lap k := by
  obtain ⟨power, lap⟩ := foldl_gateCells_law (nodup_coresOf c) u u.arg.v.toNat
  simp only [mem_coresOf] at lap
  exact ⟨power, lap⟩

theorem power_of_ledger {s t : State} (h : t.ledger = s.ledger) : t.power = s.power := congrArg Ledger.power h

theorem throttled_four_eq (u : State) (c : Fin 22) : u.throttled c 4 =
    (u.delayAll (withheld u.now u.arg.v.toNat c) (fun _ => u.arg.v.toNat) .power (if c.val = 21 then 5 else 3)).delayCopies
      (withheld u.now u.arg.v.toNat c) u.arg.v.toNat .power := rfl

/-- Step 4 withholds slots; with nothing booked it changes nothing (R366). -/
theorem throttled_four (u : State) (c : Fin 22) : (u.throttled c 4).power = u.power ∧
    ((∀ r ∈ u.reqs, r.slots = []) → (∀ k, (u.cc k).cmds = []) → u.throttled c 4 = u) := by
  rw [throttled_four_eq]
  exact ⟨power_of_ledger ((State.ledger_delayCopies ..).trans (State.ledger_delayAll ..)), fun hr hc => delay_none hr hc ..⟩

end Sys2Proof.Machine

open Sys2Proof Sys2Proof.Machine Sys2Proof.Obl

/-- Settles O55, event by event: a test of every period comes down to a test of the periods at which the sum of trades changes
(`Power.changes_all`), a log entry is read back from memory (`tokenLogged_logTrade`), and delays and frequency steps leave power,
launches and lapidaries as they are (`State.ledger`). -/
theorem powerSteps : Obligations.PowerSteps := by
  unfold Obligations.PowerSteps
  refine ⟨tokenPeriodBoundary_law, fun s => pwrStatLicWrite_law, fun s => ?_, fun s watts periods hp hw hn h1 hpeer => ?_,
    fun s x h => ?_, fun s x h => ?_, arbiterRound_law, fun s c hc => ⟨exec_throttle_ignored hc, fun h1 h4 h => ?_⟩⟩
  · exact tokOffer_law s (setBits_reserved s.arg.v)
  · obtain ⟨t, ht, only, good, bad⟩ := tokenOfferReceived_law s hp h1
    have first : BitVec.ofNat 48 s.arg.v.toNat = s.arg.v.extractLsb' 0 48 := BitVec.eq_of_toNat_eq (by simp)
    exact ⟨t, s.received watts periods, ht, only, Nat.mod_eq_of_lt hpeer, rfl, rfl, Nat.mod_eq_of_lt hw, Nat.mod_eq_of_lt hn, rfl,
      first, good, bad⟩
  · obtain ⟨soon, late⟩ := tokenAckReceived_law h
    refine ⟨fun hs => ?_, fun hl => ?_, _, exec_tokenRefuseReceived h, ?_⟩
    · obtain ⟨t, ht, ⟨only, gone, others⟩, firm, logged⟩ := soon hs
      exact ⟨t, ht, only, firm, gone, others, logged⟩
    · obtain ⟨t, ht, ⟨only, gone, others⟩, mem⟩ := late hl
      exact ⟨t, ht, only, gone, others, mem⟩
    · obtain ⟨only, gone, others⟩ := (settled_dropTrade s x).logTrade 3 x
      exact ⟨only, gone, others, tokenLogged_logTrade ..⟩
  · obtain ⟨soon, late⟩ := tokenCommitReceived_law h
    refine ⟨fun hs => ?_, fun hl => ?_⟩
    · obtain ⟨t, ht, ⟨only, gone, others⟩, firm, logged⟩ := soon hs
      exact ⟨t, ht, only, firm, gone, others, logged⟩
    · obtain ⟨t, ht, ⟨only, gone, others⟩, logged⟩ := late hl
      exact ⟨t, ht, only, gone, others, logged⟩
  · refine ⟨fun hm => ?_, fun hm => ?_, fun hm => ?_, fun hm => ?_⟩ <;> have taken := exec_throttle hc hm (by omega) (by omega) (by omega)
    · rw [hm]
      exact taken
    · obtain ⟨⟨power, gangs, reqs⟩, core⟩ := throttled_two (s.stepped c 2) c
      rw [hm]
      exact ⟨_, taken, power, gangs, reqs, core⟩
    · obtain ⟨power, lap⟩ := throttled_three (s.stepped c 3) c
      rw [hm]
      refine ⟨_, taken, power, fun k hk => (lap k).trans (if_neg hk), fun k o hk ho => ?_⟩
      have gated : ((s.stepped c 3).throttled c 3).lap k = (s.lap k).gate (s.clock k) s.arg.v.toNat := (lap k).trans (if_pos hk)
      rw [gated]
      refine ⟨rfl, ?_⟩
      rw [Lapidary.gate, ho]
      exact gatedOps_single ..
    · obtain ⟨power, quiet⟩ := throttled_four (s.stepped c 4) c
      rw [hm]
      exact ⟨_, taken, power, quiet⟩
end

section
/-!
SUPPORT. A peer refuses a load (R397) that a time register of a parked gang tracks: the register becomes HELD, and the gang's record
follows in memory (R111), beside the entry of the error log.
-/
namespace Sys2Proof.Machine
open Sys2Proof.Obl

/-- Where the error log has no ring, its entry is dropped and no memory changes (R394). -/
theorem ErrorLogged.mem_of_no_ring {s t : State} {src unit kind addr : Nat} (logged : ErrorLogged s t src unit kind addr)
    (no_ring : errorEntry s = none) : t.mem = s.mem := by
  rw [ErrorLogged, no_ring] at logged
  exact logged.1

/-- A gang of core 0 that has yielded until t0 settles (R125) and stands in the first 12 slots of the core's overflow ring (R122); t0 is
promised for tick 50000, and the live count is 0. -/
def yieldedGang : Gang :=
  { key := ⟨1, 0, 3⟩, ctx := 7, core := 0, place := .ring 0 12, role := .general, live := 0, s := Vector.replicate 64 0
    v := Vector.replicate 192 (Vector.replicate 32 0), p := Vector.replicate 8 0
    t := (Vector.replicate 16 TimeReg.reset).set 0 ⟨timeImage 1 0 50000, false, 0⟩, front := [⟨0x1010, 5, 0xF⟩], sel := none
    clause := none, lastPc := none, rotPoint := false, fair := 0, rotPend := false, round := none, trap := none, hmask := 0
    strict := none, budgeted := false, timedOut := false, readyAt := 0, wait := false, stall := 0, probing := none, opnd := 0
    block := [], marks := [], probeAt := (0, 0), pend := [], fences := [], obsT := Vector.replicate 16 0, obs := 0
    hd := { Rec.reset with wake := 1, wtick := 50000, tmask := 1, written := some 0 } }

/-- The gang's context, whose overflow rings have 2^10 slots and start at 0x800000 (R349). -/
def yieldedCtx : Ctx :=
  { id := 7, record := (Vector.replicate 16 0).set 5 0x00A0000000800000, addr := 0x8000, map := Vector.ofFn id, revoked := [], pages := []
    killing := false, resolved := [] }

/-- The load from device 3 that t0 tracks. -/
def refusedLoad : Req :=
  { Req.base yieldedGang 0x1004 0 0 0 with
    id := 3, handle := 1, home := .peer 3, line := 0x600000, effect := .load (.v 0) .b32, pieces := [⟨0, 0, 4, [], []⟩], mask := 1
    prom := 50000, arrive := 50000, perf := 49000 }

/-- The peer refuses the load. The record stands in the ring as the gang is, and the error log has no ring. -/
def refusalState : State :=
  { State.reset with
    gangs := [yieldedGang], ctxs := [yieldedCtx], reqs := [refusedLoad], mem := memDWords [] 0x800000 yieldedGang.image
    arg := { EvArg.none with req := 3 } }

theorem memoryOk_refusalState : MemoryOk refusalState := by
  refine ⟨?_, fun k => ?_⟩
  · dsimp only [refusalState]
    exact Memory.wf_memDWords _ _ rfl
  · have idle : refusalState.core k = Core.reset := by simp [State.core, refusalState, State.reset]
    rw [idle]
    rfl

theorem errorEntry_refusalState : errorEntry refusalState = none := rfl

/-- In the record, the byte with the state of t0 (R49, R114) says PROMISED before the refusal and HELD with class 3 after it. -/
theorem peerRefusal_writes_record : memGet refusalState.mem 0x800257 = 0x40 ∧
    ∃ t, exec .peerRefusal refusalState = .next t ∧ memGet t.mem 0x800257 = 0xC3 :=
  ⟨by decide +kernel, _, rfl, by decide +kernel⟩

/-- So a refusal changes memory although no entry is logged. -/
theorem peerRefusal_changes_mem {t : State} (ht : exec .peerRefusal refusalState = .next t) : t.mem ≠ refusalState.mem := by
  obtain ⟨before, u, hu, after⟩ := peerRefusal_writes_record
  obtain rfl : u = t := Host.Outcome.next.inj (hu.symm.trans ht)
  intro same
  rw [same, before] at after
  exact absurd after (by decide)

end Sys2Proof.Machine

open Sys2Proof Sys2Proof.Machine Sys2Proof.Obl

/-- Refutes O58: its clause on refusals by a peer (R397) says that only the entry of the error log changes memory. The load of
`refusalState` is tracked by a time register of a gang whose record stands in the overflow ring, and the register's new state, HELD with
class 3, is written there too, as R111 asks. -/
theorem not_portSteps : ¬ Obligations.PortSteps := by
  unfold Obligations.PortSteps
  rintro ⟨-, -, refusal, -⟩
  obtain ⟨t, ht, logged_and_held⟩ := refusal refusalState refusedLoad memoryOk_refusalState rfl rfl
  exact peerRefusal_changes_mem ht (ErrorLogged.mem_of_no_ring logged_and_held.1 errorEntry_refusalState)
end
